-- ==== Sys2Proof/Word.lean ====
section
/-! DEFINITION. The words the manual itself treats as bits: a byte, a 64-byte frame, and a record reference
(slot index with its 8-bit issue number, section 4.2 of the introduction). -/

namespace Sys2Proof

/-- One byte on a link, on the console port or in the store. -/
abbrev Byte := BitVec 8

/-- The 64 bytes of one frame of coded speech (introduction, section 4.1). The part does not interpret them.
Byte `i` of the frame, counted from the lowest store address, stands in bits `8 * i` to `8 * i + 7`. -/
abbrev Frame := BitVec 512

/-- The silent frame content: 64 bytes, each of value 0 (R94). -/
def silentFrame : Frame := 0

/-- A record reference: a slot index and an issue number (introduction, section 4.2). It names a job, a segment,
a cue or a take according to where it stands. -/
structure Ref where
  idx : Nat
  issue : Byte
  deriving DecidableEq, Repr, Inhabited

end Sys2Proof
end

