-- ==== Sys2Proof/Syntax.lean ====
section
/-! DEFINITION. The commands of the part, one constructor of `Instr` per row of spec/opcode_table.json, and the requests
(`Request`) that the ports take in and the owning blocks answer. Operands stand at their wire widths: a code byte is a
`Nat`, because the owning block refuses a code outside its values RANGE (R205) instead of its being unreadable. -/

namespace Sys2Proof

/-- The five parts of a job's search key, of a FIND JOB pattern and of its mask: 44 bits in all (R20). -/
structure JobKey where
  docket : BitVec 32
  reporter : BitVec 6
  cls : BitVec 2
  state : BitVec 3
  held : BitVec 1
  deriving DecidableEq, Repr

/-- The selection of fields SET JOB ATTRIBUTES carries (R16). -/
structure JobAttrs where
  docket : Option (BitVec 32) := none
  cls : Option Nat := none
  due : Option (BitVec 16) := none
  follow : Option Nat := none
  deriving DecidableEq, Repr

/-- The four forms of PLACE CUE's place (R55). -/
inductive Place where
  | atPosition (job : Ref) (p : Nat)
  | atCapturePoint (job : Ref)
  | atTakePosition (take : Ref) (t : Nat)
  | atChannel (take : Ref)
  deriving DecidableEq, Repr

/-- The mode SET CAPTURE MODE names (R124, R44). -/
inductive ModeRequest where
  | append
  | insert (p : Nat)
  | overwrite (p : Nat)
  deriving DecidableEq, Repr

/-- A cue reference or a whole-frame position: the start of READBACK (R129) and the target of JUMP (R143). -/
inductive CueOrPos where
  | cue (c : Ref)
  | pos (p : Nat)
  deriving DecidableEq, Repr

/-- One window as SET BANK MAP carries it (R96). -/
structure WindowSpec where
  enable : Nat
  base : Nat
  mask : Nat
  deriving DecidableEq, Repr

/-- The action matrix of a channel: three enables for each of END and MATCH, and NOTIFY for HALT (R114, R117). -/
structure Matrix where
  endReload : Bool := false
  endChain : Bool := false
  endNotify : Bool := false
  matchReload : Bool := false
  matchChain : Bool := false
  matchNotify : Bool := false
  haltNotify : Bool := false
  deriving DecidableEq, Repr

/-- The selection of the nine play settings a PLAY SETUP directive carries (R147). -/
structure PlaySetup where
  pos : Option Nat := none
  base : Option Nat := none
  remaining : Option Nat := none
  baseCount : Option Nat := none
  pattern : Option (BitVec 20) := none
  mask : Option (BitVec 20) := none
  matrix : Option Matrix := none
  mode : Option Nat := none
  window : Option (Nat × Nat) := none
  deriving DecidableEq, Repr

/-- The selection of profile fields SET PROFILE carries, as codes (R160). -/
structure ProfileFields where
  rate : Option Nat := none
  backstep : Option Nat := none
  sealAct : Option Nat := none
  pace : Option Nat := none
  deriving DecidableEq, Repr

/-- The requests of section 12.3 with their operands, in the order of the kind codes. -/
inductive Request where
  -- Jobs
  | openJob (docket : BitVec 32) (cls : Nat) (due : BitVec 16)
  | createJob (reporter : Nat) (docket : BitVec 32) (cls : Nat) (due : BitVec 16) (follow : Nat)
  | attach (job : Ref)
  | detach (job : Ref)
  | closeDictation (job : Ref)
  | setJobAttributes (job : Ref) (attrs : JobAttrs)
  | readJob (job : Ref)
  | findJob (start : Nat) (pattern mask : JobKey)
  | hold (job : Ref)
  | unhold (job : Ref)
  | release (job : Ref)
  | retiringStatus
  -- Maps
  | readSegment (seg : Ref)
  | sealRange (job : Ref) (a b : Nat) (cls : Nat)
  | paceRange (job : Ref) (a b : Nat) (pace : Option Nat)
  -- Cues
  | placeCue (kind : Nat) (label : BitVec 16) (place : Place)
  | removeCue (cue : Ref)
  | readCue (cue : Ref)
  | cueAt (at_ : Option (Ref × Nat))
  | lastCue (record : Ref)
  | findCue (at_ : Option (Ref × Nat)) (dir : Nat) (pattern mask : BitVec 20) (start : Option Ref)
  -- Takes
  | claimNext
  | assign (take : Ref) (typist : Nat)
  | returnTake (take : Ref)
  | revoke (take : Ref)
  | rework (take : Ref) (typist : Option Nat)
  | readTake (take : Ref)
  | heldTakes
  | queueEntry (rank : Nat)
  -- Store
  | setBankMap (w0 w1 w2 w3 : WindowSpec)
  | format
  | setPoolThreshold (threshold : Nat)
  | setBulkPriority (placement mode14 burst14 mode15 burst15 : Nat)
  | readExtent (extent : Nat)
  | readPool
  -- Capture
  | setCaptureMode (mode : ModeRequest)
  | sealMode (cls : Nat)
  | captureSetup (remaining base : Nat) (reload chain notify : Bool)
  | record
  | pause
  | readback (label : BitVec 16) (start : CueOrPos)
  | readbackEnd
  -- Play
  | play
  | loadTake (take : Ref)
  | halt
  | rewind (count : Nat)
  | forward (count : Nat)
  | jump (target : CueOrPos)
  | returnPlay
  | playSetup (setup : PlaySetup)
  | setProfile (profile timing : Nat) (fields : ProfileFields)
  | readProfiles (chan : Option Nat)
  -- Channels and export
  | bindChannel (chan binding : Nat)
  | setFrameTimeout (chan timeout : Nat)
  | readChannel (chan : Option Nat)
  | exportJob (job : Ref) (chan choice notify : Nat)
  | exportStop (chan : Nat)
  -- Links
  | configureStation (link role person clearance : Nat) (elig : Byte)
  | readLink (link : Nat)
  | pedalMask (value : Nat)
  -- Port
  | readNotice
  | acknowledgeNotice (chan : Nat)
  | bulkRead (chan count : Nat)
  | warmReset
  deriving DecidableEq, Repr

/-- Where a request comes from: a station over its link, or the office controller over the console port. -/
inductive Port where
  | console
  | station (link : Fin 16)
  deriving DecidableEq, Repr

/-- The REWIND and FORWARD controls of a foot pedal (R136). -/
inductive ShuttleControl where
  | rewind
  | forward
  deriving DecidableEq, Repr

/-- An inbound envelope as the receiver counts it up to the next start symbol (section 12.2): the kind byte, the length
field, and the bytes that followed. -/
structure Envelope where
  kind : Byte
  length : BitVec 16
  body : List Byte
  deriving DecidableEq, Repr

/-- The commands: one constructor per row of spec/opcode_table.json. A row that is a request names the port it came
from where both ports may send it, the link where only a station may, and nothing where only the console may; its
execution is the owning block TAKING that request. INBOUND_REQUEST and CONSOLE_REQUEST are the arrival of a request at
its port. The other rows are events. -/
inductive Instr where
  -- Requests: jobs
  | openJob (link : Fin 16) (docket : BitVec 32) (cls : Nat) (due : BitVec 16)
  | createJob (reporter : Nat) (docket : BitVec 32) (cls : Nat) (due : BitVec 16) (follow : Nat)
  | attach (link : Fin 16) (job : Ref)
  | detach (link : Fin 16) (job : Ref)
  | closeDictation (port : Port) (job : Ref)
  | setJobAttributes (job : Ref) (attrs : JobAttrs)
  | readJob (port : Port) (job : Ref)
  | findJob (port : Port) (start : Nat) (pattern mask : JobKey)
  | hold (job : Ref)
  | unhold (job : Ref)
  | release (port : Port) (job : Ref)
  | retiringStatus
  -- Requests: maps
  | readSegment (port : Port) (seg : Ref)
  | sealRange (job : Ref) (a b : Nat) (cls : Nat)
  | paceRange (job : Ref) (a b : Nat) (pace : Option Nat)
  -- Requests: cues
  | placeCue (port : Port) (kind : Nat) (label : BitVec 16) (place : Place)
  | removeCue (port : Port) (cue : Ref)
  | readCue (port : Port) (cue : Ref)
  | cueAt (port : Port) (at_ : Option (Ref × Nat))
  | lastCue (port : Port) (record : Ref)
  | findCue (port : Port) (at_ : Option (Ref × Nat)) (dir : Nat) (pattern mask : BitVec 20) (start : Option Ref)
  -- Requests: takes
  | claimNext (link : Fin 16)
  | assign (take : Ref) (typist : Nat)
  | returnTake (link : Fin 16) (take : Ref)
  | revoke (take : Ref)
  | rework (take : Ref) (typist : Option Nat)
  | readTake (port : Port) (take : Ref)
  | heldTakes (link : Fin 16)
  | queueEntry (rank : Nat)
  -- Requests: store
  | setBankMap (w0 w1 w2 w3 : WindowSpec)
  | format
  | setPoolThreshold (threshold : Nat)
  | setBulkPriority (placement mode14 burst14 mode15 burst15 : Nat)
  | readExtent (extent : Nat)
  | readPool
  -- Requests: capture
  | setCaptureMode (link : Fin 16) (mode : ModeRequest)
  | sealMode (link : Fin 16) (cls : Nat)
  | captureSetup (link : Fin 16) (remaining base : Nat) (reload chain notify : Bool)
  | record (link : Fin 16)
  | pause (link : Fin 16)
  | readback (link : Fin 16) (label : BitVec 16) (start : CueOrPos)
  | readbackEnd (link : Fin 16)
  -- Requests: play
  | play (link : Fin 16)
  | loadTake (link : Fin 16) (take : Ref)
  | halt (link : Fin 16)
  | rewind (link : Fin 16) (count : Nat)
  | forward (link : Fin 16) (count : Nat)
  | jump (link : Fin 16) (target : CueOrPos)
  | returnPlay (link : Fin 16)
  | playSetup (link : Fin 16) (setup : PlaySetup)
  | setProfile (link : Fin 16) (profile timing : Nat) (fields : ProfileFields)
  | readProfiles (port : Port) (chan : Option Nat)
  -- Requests: channels and export
  | bindChannel (chan binding : Nat)
  | setFrameTimeout (chan timeout : Nat)
  | readChannel (port : Port) (chan : Option Nat)
  | exportJob (job : Ref) (chan choice notify : Nat)
  | exportStop (chan : Nat)
  -- Requests: links
  | configureStation (link role person clearance : Nat) (elig : Byte)
  | readLink (link : Nat)
  | pedalMask (link : Fin 16) (value : Nat)
  -- Requests: console port
  | readNotice
  | acknowledgeNotice (chan : Nat)
  | bulkRead (chan count : Nat)
  | warmReset
  -- Messages and pedals from a station
  | malformedMessage (port : Port) (envelope : Envelope)
  | noticeAck (link : Fin 16)
  | frameArrival (link : Fin 16) (frame : Frame)
  | recordPress (link : Fin 16)
  | recordRelease (link : Fin 16)
  | playPress (link : Fin 16)
  | playRelease (link : Fin 16)
  | rewindPress (link : Fin 16)
  | forwardPress (link : Fin 16)
  | shuttleRelease (link : Fin 16) (control : ShuttleControl)
  -- Events of the part itself
  | framePeriod (chan : Fin 16)
  | frameTimeout (chan : Fin 16)
  | linkDown (link : Fin 16)
  | linkUp (link : Fin 16)
  | reset
  | captureWriteCompletion (check : Bool)
  | playReadCompletion (check : Bool)
  | exportReadCompletion (check : Bool)
  | scrubWriteCompletion (check : Bool)
  | bulkClaim (chan : Fin 16)
  | completionReport
  | sweepStep
  -- Arrival of a request at its port
  | inboundRequest (link : Fin 16) (tag : Byte) (request : Request)
  | consoleRequest (tag : Byte) (request : Request)
  deriving DecidableEq, Repr

end Sys2Proof
end

