-- ==== Sys2Proof/Decode.lean ====
section
/-! DEFINITION. The command that a word spells by the bits of spec/opcode_table.json. The table gives no row any bits: the
commands are messages and events, not words (assumption 28). -/

namespace Sys2Proof

/-- No word spells a command. -/
def decodeTableWord (_nbits _w : Nat) : Option Instr := none

end Sys2Proof
end

