-- ==== Sys2Proof/Config.lean ====
section
/-! DEFINITION. What the manual fixes for every part (capacities, limits) and the free values: results that the manual
does not state, each an opaque constant with no body, applied to the plain counter `State.freeCount`. -/

namespace Sys2Proof.Config

/-- Job records (R1). -/
abbrev jobSlots : Nat := 512
/-- Segment records (R23). -/
abbrev segRecords : Nat := 16384
/-- Cue records (R51). -/
abbrev cueRecords : Nat := 8192
/-- Take records (R70). -/
abbrev takeRecords : Nat := 1024
/-- Extents of the store (R97). -/
abbrev extents : Nat := 4096
/-- Frames in one extent (introduction, section 4.1). -/
abbrev extentFrames : Nat := 4096
/-- Bytes in one frame (R94). -/
abbrev frameBytes : Nat := 64
/-- The largest length of a job, in frames (R15, R35). -/
abbrev maxLength : Nat := 16777215
/-- The largest value of a channel count field (introduction, section 4.6). -/
abbrev maxCount : Nat := 1048575
/-- The smallest capture count other than 0 (R125). -/
abbrev minCaptureCount : Nat := 6000
/-- Takes one typist may hold (R82). -/
abbrev holdLimit : Nat := 4
/-- Entries of a placement record's in-flight list (R34). -/
abbrev inFlightLimit : Nat := 4
/-- Entries of a return stack (R143). -/
abbrev stackLimit : Nat := 4
/-- Entries of the console notice queue (R197). -/
abbrev noticeLimit : Nat := 32
/-- Places of the export buffer (R150, R200). -/
abbrev bufferPlaces : Nat := 32
/-- BULK claims one export channel may have outstanding (R150). -/
abbrev exportClaims : Nat := 16
/-- Frames a held shuttle moves at each frame period (R136). -/
abbrev shuttleFrames : Nat := 8

/-- FREE VALUE. The bytes that stand in a frame of the store after a write to it ended in an uncorrectable check or was
abandoned by the RESET pin: the manual does not state them (assumption 12). -/
opaque freeFrame : Nat → Frame

/-- FREE VALUE. The label of the TAKE cue a capture channel places when a count ends with CHAIN enabled: R61 and R126
give the cue its kind, anchor and placer and no label (assumption 13). -/
opaque freeLabel : Nat → BitVec 16

end Sys2Proof.Config
end

