-- ==== Sys2Proof/Machine/State.lean ====
section
/-! DEFINITION. The state of the part: every record, list, counter, mark and buffer the manual names, as plain data, and
its value after power-on (`State.reset`). A collection of records is a list of (index, record) pairs in one canonical
form (rising index, no pair whose record equals the value an unlisted index has). What another field already decides
(queue links, list links, the presence word, SECOND-NOTICE, WAITING-FOR-STORE, the attention line) is computed, not
stored twice (assumption 9). -/

namespace Sys2Proof.Machine

/-! ### Names -/

/-- Job states (section 1.2). -/
inductive JobState where
  | vacant | live | setAside | closed | complete | releasing | retiring
  deriving DecidableEq, Repr

/-- Priority classes (introduction, section 4.4). -/
inductive Cls where
  | daily | expedited | ordinary
  deriving DecidableEq, Repr

/-- The two release parties (R168). -/
inductive ReleaseParty where
  | reporter | console
  deriving DecidableEq, Repr

/-- Phases of the retirement sweep (R171). -/
inductive Phase where
  | segments | cues | takes
  deriving DecidableEq, Repr

/-- Cue kinds (R51). -/
inductive CueKind where
  | take | speaker | exhibit | objection | readback | note | recess | mark
  deriving DecidableEq, Repr

/-- The party that placed a cue (R51). -/
inductive Placer where
  | reporter (n : Nat)
  | typist (n : Nat)
  | console
  deriving DecidableEq, Repr

/-- An anchor: a frame of a segment, or the job end (R30). -/
inductive Anchor where
  | frame (seg : Ref) (off : Nat)
  | jobEnd
  deriving DecidableEq, Repr

/-- Take states (section 4.2). -/
inductive TakeState where
  | opened | following | ready | claimed | returned
  deriving DecidableEq, Repr

/-- Extent states (R97). -/
inductive ExtState where
  | absent | free | inUse | scrub | damaged
  deriving DecidableEq, Repr

/-- The direction a STORE-ERROR notice names (R109, R110). -/
inductive StoreDir where
  | read | write | scrub
  deriving DecidableEq, Repr

/-- Capture modes, also the placement of an in-flight entry (R34, R114). -/
inductive CapMode where
  | append | insert | overwrite
  deriving DecidableEq, Repr

/-- Status of an in-flight entry (R34). -/
inductive WriteStatus where
  | writing | written
  deriving DecidableEq, Repr

/-- Bulk modes (R107). -/
inductive BulkMode where
  | hog | interleave
  deriving DecidableEq, Repr

/-- Seal actions (R152). -/
inductive SealAction where
  | mute | skip
  deriving DecidableEq, Repr

/-- The two profiles of a channel (R152). -/
inductive ProfId where
  | a | b
  deriving DecidableEq, Repr

/-- Shuttle held (R133). -/
inductive Shuttle where
  | none | rewind | forward
  deriving DecidableEq, Repr

/-- Running states of a typist play channel (R115). -/
inductive PlayRun where
  | running | paused | followWait
  deriving DecidableEq, Repr

/-- Channel bindings (R116). -/
inductive Binding where
  | link | bulk
  deriving DecidableEq, Repr

/-- Link roles (R182). -/
inductive Role where
  | vacant | reporter | typist
  deriving DecidableEq, Repr

/-- Causes of a channel notice (R118, section 12.4). -/
inductive Cause where
  | ended | matched | halt | revoked | storeFull | segmentFull | frameTimeout | jobHeld | enteredInsert | chainAbort
  deriving DecidableEq, Repr

/-- Actions of a channel notice (R117, section 12.4). -/
inductive Action where
  | reloaded | chained | continued | stopped
  deriving DecidableEq, Repr

/-- Reply codes (introduction, section 5). -/
inductive ReplyCode where
  | done | busy | stale | notPermitted | state | frozen | held | directoryFull | segmentFull | cueFull | takeFull
  | storeFull | empty | limit | range | already | none | noticePending | stackFull | stackEmpty | unformatted
  | emptyTake | malformed
  deriving DecidableEq, Repr

/-! ### Records -/

/-- A job's one partly filled extent (R15). -/
structure Tail where
  extent : Nat
  fill : Nat
  deriving DecidableEq, Repr

/-- Sweep progress of a RETIRING job (R171). -/
structure Sweep where
  phase : Phase
  freed : Nat
  deriving DecidableEq, Repr

/-- A job record (R1). The default values are those of a VACANT slot at issue 0. -/
structure Job where
  issue : Byte := 0
  state : JobState := .vacant
  held : Bool := false
  follow : Bool := false
  docket : BitVec 32 := 0
  reporter : Nat := 0
  cls : Cls := .daily
  due : BitVec 16 := 0
  length : Nat := 0
  segHead : Option Ref := none
  tail : Option Tail := none
  firstCue : Option Ref := none
  takeHead : Option Ref := none
  takeCount : Nat := 0
  release : Option ReleaseParty := none
  chan : Option Nat := none
  exportBusy : Bool := false
  sweep : Option Sweep := none
  deriving DecidableEq, Repr

/-- The fields of a segment record in use (R23). SEAL, PACE and CUE are the optional parts; the presence word is which of
them are present (R24). -/
structure SegBody where
  job : Ref
  extent : Nat
  first : Nat
  count : Nat
  next : Option Ref := none
  sealPart : Option Nat := none
  pace : Option Nat := none
  cue : Option Ref := none
  deriving DecidableEq, Repr

/-- A segment record: free (no body) or in use (R23). -/
structure Seg where
  issue : Byte := 0
  body : Option SegBody := none
  deriving DecidableEq, Repr

/-- The fields of a cue record in use (R51). -/
structure CueBody where
  job : Ref
  kind : CueKind
  label : BitVec 16
  anchor : Anchor
  placer : Placer
  next : Option Ref := none
  deriving DecidableEq, Repr

/-- A cue record: free or in use (R51). -/
structure Cue where
  issue : Byte := 0
  body : Option CueBody := none
  deriving DecidableEq, Repr

/-- The fields of a take record in use (R70); the queue links are computed from `State.ready`. The resume position is in
units of 1/64 frame. -/
structure TakeBody where
  job : Ref
  start : Option Ref := none
  next : Option Ref := none
  state : TakeState := .opened
  typist : Option Nat := none
  seq : Option (BitVec 32) := none
  resume : Option Nat := none
  deriving DecidableEq, Repr

/-- A take record: free or in use (R70). -/
structure Take where
  issue : Byte := 0
  body : Option TakeBody := none
  deriving DecidableEq, Repr

/-- An extent table entry (R97); the list link is computed from the free list and the scrub list. -/
structure Ext where
  state : ExtState := .absent
  refs : Nat := 0
  taint : Bool := false
  deriving DecidableEq, Repr

/-- One bank map window (R95). -/
structure Window where
  enable : Bool := false
  base : Nat := 0
  mask : Nat := 0
  deriving DecidableEq, Repr

/-- The four windows of the bank map (R95). -/
structure BankMap where
  w0 : Window := {}
  w1 : Window := {}
  w2 : Window := {}
  w3 : Window := {}
  deriving DecidableEq, Repr

/-- Bulk mode and burst of channel 14 or 15 (R107). -/
structure BulkSetting where
  mode : BulkMode := .interleave
  burst : Nat := 1
  deriving DecidableEq, Repr

/-- The channel served last in each class of the arbiter (R106). -/
structure Served where
  class1 : Nat := 15
  class2 : Nat := 15
  class3 : Nat := 15
  class4 : Nat := 15
  deriving DecidableEq, Repr

/-- What a claim is for: its claimant, its direction and its class follow from it (R94, R105). -/
inductive Purpose where
  | capture (chan : Nat) (job : Ref) (data : Frame)
  | play (chan : Nat)
  | bulk (chan : Nat) (pos : Nat)
  | scrub
  deriving DecidableEq, Repr

/-- A claim for one frame access (R94, R105). -/
structure Claim where
  extent : Nat
  frame : Nat
  use : Purpose
  deriving DecidableEq, Repr

/-- The access in progress (R105). `live` is clear once its claimant has stopped (R108). `burst` counts the accesses of a
hog burst, 0 outside one (R107). `place` is set while the access of an export still holds its reserved place (R150). -/
structure Access where
  claim : Claim
  live : Bool := true
  burst : Nat := 0
  place : Bool := false
  deriving DecidableEq, Repr

/-- What an access drives on the store interface (R94): its direction, its store byte address, the bank line of its extent
(R95), the channel that claimed it (none for the Maintenance Engine), and the bytes a WRITE carries. -/
structure StoreSignals where
  write : Bool
  address : Nat
  line : Option Nat
  claimant : Option Nat
  data : Option Frame := none
  deriving DecidableEq, Repr

/-- An in-flight entry of a placement record (R34). `mode` is the placement the frame will receive; `changed` is set when
it was given OVERWRITE and R39 has changed it. The frame's bytes stand here until the frame is placed (R41). -/
structure Entry where
  extent : Nat
  frame : Nat
  mode : CapMode
  status : WriteStatus := .writing
  changed : Bool := false
  data : Frame
  deriving DecidableEq, Repr

/-- A placement record of the Map Editor (R34). -/
structure Placement where
  inflight : List Entry := []
  runStart : Option Anchor := none
  deriving DecidableEq, Repr

/-- A channel notice record (R118). The position is in units of 1/64 frame. -/
structure Notice where
  chan : Nat
  cause : Cause
  action : Action
  job : Ref
  take : Option Ref := none
  pos : Nat
  cue : Option Ref := none
  superseded : Bool := false
  deriving DecidableEq, Repr

/-- One profile's four fields (R152). -/
structure Profile where
  rate : Nat := 64
  backstep : Nat := 150
  sealAct : SealAction := .mute
  pace : Bool := false
  deriving DecidableEq, Repr

/-- A profile's active copy, stored copy and four pending-reload marks (R152). -/
structure ProfilePair where
  active : Profile := {}
  stored : Profile := {}
  rateMark : Bool := false
  backstepMark : Bool := false
  sealMark : Bool := false
  paceMark : Bool := false
  deriving DecidableEq, Repr

/-- Capture fields, which a parked capture also keeps (R114, R129). -/
structure CapCtx where
  point : Anchor := .jobEnd
  mode : CapMode := .append
  sealClass : Nat := 0
  remaining : Nat := 0
  base : Nat := 0
  deriving DecidableEq, Repr

/-- A capture (R114): RUNNING or PAUSED, with the frame timeout counter (R127). -/
structure Capture where
  job : Ref
  ctx : CapCtx := {}
  running : Bool := false
  counter : Nat := 0
  deriving DecidableEq, Repr

/-- The frame a read outstanding is to bring (R133), with the profile and the PACE part found when it was chosen (R153,
R157). -/
structure Chosen where
  extent : Nat
  frame : Nat
  prof : ProfId
  pace : Option Nat := none
  deriving DecidableEq, Repr

/-- Typist play (R114, R133). Positions are in units of 1/64 frame, `base` in whole frames. -/
structure Play where
  job : Ref
  take : Ref
  pos : Nat := 0
  base : Nat := 0
  remaining : Nat := 0
  baseCount : Nat := 0
  run : PlayRun := .paused
  stack : List Nat := []
  shuttle : Shuttle := .none
  matched : Option Ref := none
  read : Option Chosen := none
  lastSeg : Option Ref := none
  deriving DecidableEq, Repr

/-- Read-back: direction PLAY with the capture parked (R129, R130). The position is in units of 1/64 frame. -/
structure Readback where
  job : Ref
  parked : CapCtx
  pos : Nat
  read : Option Chosen := none
  lastSeg : Option Ref := none
  deriving DecidableEq, Repr

/-- Export (R133, R149): the position is a job position in whole frames. -/
structure Exporting where
  job : Ref
  pos : Nat := 0
  excludeSealed : Bool := false
  outstanding : Nat := 0
  deriving DecidableEq, Repr

/-- What a channel carries. The direction and the state (the underlying state while SUSPENDED) follow from it (R115). -/
inductive Stream where
  | idle
  | capture (c : Capture)
  | play (p : Play)
  | readback (r : Readback)
  | exporting (e : Exporting)
  deriving DecidableEq, Repr

/-- A channel context (R114, R133, R152). `suspended` is the state SUSPENDED, the stream then being its underlying state
(R120). The default values are those after power-on (R132, R164). -/
structure Channel where
  binding : Binding := .link
  stream : Stream := .idle
  suspended : Bool := false
  pattern : BitVec 20 := 0
  mask : BitVec 20 := 0
  matrix : Matrix := {}
  winStart : Nat := 0
  winEnd : Nat := 0
  profA : ProfilePair := {}
  profB : ProfilePair := {}
  mode : Nat := 0
  active : ProfId := .a
  chainAbort : Bool := false
  noContinuation : Bool := false
  slot : Option Notice := none
  second : Option Notice := none
  timeout : Nat := 50
  deriving DecidableEq, Repr

/-! ### Messages -/

/-- One result field of a reply, in an encoding of section 12.1: a number of so many bytes, a reference, or a reference
field in which index 65,535 says the reference is absent. -/
inductive Item where
  | num (bytes : Nat) (value : Nat)
  | ref (r : Ref)
  | refOrAbsent (r : Option Ref)
  deriving DecidableEq, Repr

/-- An entry of the export buffer (R150). -/
structure BufEntry where
  chan : Nat
  pos : Nat
  data : Frame
  damaged : Bool
  deriving DecidableEq, Repr

/-- The results of a reply (R203): the fixed ones in the order the rule names them, then the optional ones, one place of
the presence word each, then the fields that follow the optional ones, and the entries a BULK READ sends behind the
reply on the bulk path. -/
structure Result where
  fixed : List Item := []
  optional : List (Option (List Item)) := []
  rest : List Item := []
  bulk : List BufEntry := []
  deriving DecidableEq, Repr

/-- Console notices (R197). -/
inductive ConsoleNotice where
  | poolLow (free threshold : Nat)
  | storeError (extent : Nat) (dir : StoreDir)
  | linkDown (link : Nat) (role : Role) (person : Nat) (job take : Option Ref)
  | linkUp (link : Nat) (role : Role) (person : Nat)
  | captureEnded (job : Ref) (cause : Cause)
  | jobComplete (job : Ref)
  | retired (job : Ref) (docket : BitVec 32) (reporter : Nat)
  | channel (chan : Nat) (notice : Notice)
  deriving DecidableEq, Repr

/-- A message the part sends on a link (R185). The sequence number of a frame is written as it is sent (R190). -/
inductive LinkMsg where
  | reply (kind : Nat) (tag : Byte) (code : ReplyCode) (result : Result)
  | notice (n : Notice)
  | frame (silent damaged : Bool) (data : Frame)
  deriving DecidableEq, Repr

/-- A reply on the console port (R195, section 12.2). -/
structure ConsoleMsg where
  kind : Nat
  tag : Byte
  code : ReplyCode
  result : Result
  deriving DecidableEq, Repr

/-- A link's outstanding request, routed and not yet taken by its owner, with the role and the person number stamped on it
at arrival (R186). -/
structure Outstanding where
  request : Request
  tag : Byte
  role : Role
  person : Nat
  deriving DecidableEq, Repr

/-- The console's outstanding request (R195). -/
structure ConsoleOutstanding where
  request : Request
  tag : Byte
  deriving DecidableEq, Repr

/-- A link record (R182), with the messages handed over and not yet sent (R191) and the message on the transmit pair with
its frame sequence number. Class eligibility is bit c for class code c. -/
structure Link where
  up : Bool := false
  role : Role := .vacant
  person : Nat := 0
  clearance : Nat := 0
  elig : BitVec 3 := 0
  pedalMask : Bool := false
  outstanding : Option Outstanding := none
  sequence : Byte := 0
  unsent : List LinkMsg := []
  line : Option (LinkMsg × Byte) := none
  deriving DecidableEq, Repr

/-! ### The state -/

/-- The state of the part. -/
structure State where
  /-- The commands waiting, first in, first out. -/
  pending : List Instr := []
  -- Job Directory
  jobs : List (Nat × Job) := []
  -- Map Editor
  segs : List (Nat × Seg) := []
  segFree : Nat := 16384
  places : List (Nat × Placement) := []
  -- Cue Table
  cues : List (Nat × Cue) := []
  cueFree : Nat := 8192
  -- Hand-off Unit
  takes : List (Nat × Take) := []
  takeFree : Nat := 1024
  ready : List Nat := []
  readiness : BitVec 32 := 0
  holds : List (Nat × Nat) := []
  reports : List Ref := []
  -- Store Controller
  bank : BankMap := {}
  exts : List (Nat × Ext) := []
  formatted : Bool := false
  freeList : List Nat := []
  scrubList : List Nat := []
  scrubNext : Nat := 0
  formatLeft : Nat := 0
  threshold : Nat := 64
  lowArmed : Bool := false
  bulkAbove : Bool := false
  bulk14 : BulkSetting := {}
  bulk15 : BulkSetting := {}
  served : Served := {}
  waiting : List Claim := []
  port : Option Access := none
  mem : List Host.Cell := []
  -- Maintenance Engine
  retiring : List Nat := []
  -- Stream Channels and Station Links
  chans : List (Nat × Channel) := []
  links : List (Nat × Link) := []
  -- Console Port
  conOutstanding : Option ConsoleOutstanding := none
  conUnsent : List ConsoleMsg := []
  conLine : Option ConsoleMsg := none
  notices : List ConsoleNotice := []
  overflowed : Bool := false
  buffer : List BufEntry := []
  reserved : Nat := 0
  /-- The counter the free values of Config are applied to (the model's own). -/
  freeCount : Nat := 0
  deriving DecidableEq, Repr

/-- The part right after power-on: every slot VACANT and every record free at issue 0 (R21, R50, R69, R93), the store
unformatted and every window disabled (R113), every channel IDLE with its default profiles (R132, R164), every link
DOWN and VACANT (R194), the console port empty (R201). -/
def State.reset : State := {}

/-- Faults. The manual gives the part no stop, so there is none (assumption 29). -/
inductive Fault where
  deriving DecidableEq, Repr

/-- Refusals. -/
inductive Refusal where
  /-- Raised by `exec` alone, for a command that has no meaning yet; safe: nothing can be proved of a run through it. No
  arm raises it (assumption 29). -/
  | notModelled (mnemonic : String)
  deriving DecidableEq, Repr

end Sys2Proof.Machine
end

