-- ==== Sys2Proof/Machine/Ops.lean ====
section
/-! DEFINITION. The shared operations over the state: tables in canonical form, one accessor and one setter for each kind
of record, the bytes of the store, reference resolution, the messages the part hands to its ports, the console notice
queue, and the taking of a routed request with its reply. -/

namespace Sys2Proof.Machine

/-! ### Tables -/

/-- The record at an index of a table; `d` is the record an unlisted index has. -/
def Table.get {α : Type} (d : α) : List (Nat × α) → Nat → α
  | [], _ => d
  | (k, v) :: t, n => if n = k then v else Table.get d t n

/-- A table without an index. -/
def Table.erase {α : Type} (n : Nat) : List (Nat × α) → List (Nat × α)
  | [] => []
  | (k, v) :: t => if n = k then Table.erase n t else (k, v) :: Table.erase n t

/-- A table with a record put at its index, in rising order. -/
def Table.insert {α : Type} (n : Nat) (v : α) : List (Nat × α) → List (Nat × α)
  | [] => [(n, v)]
  | (k, w) :: t =>
    if n < k then (n, v) :: (k, w) :: t
    else if n = k then (n, v) :: t
    else (k, w) :: Table.insert n v t

/-- A table with a record written: the record an unlisted index has is not listed. -/
def Table.put {α : Type} [DecidableEq α] (d : α) (n : Nat) (v : α) (t : List (Nat × α)) : List (Nat × α) :=
  if v = d then Table.erase n t else Table.insert n v t

/-- The canonical form: indexes strictly rising from `lo`, and no record equal to `d`. -/
def Table.wfFrom {α : Type} [DecidableEq α] (d : α) : Nat → List (Nat × α) → Bool
  | _, [] => true
  | lo, (k, v) :: t => decide (lo ≤ k) && decide (v ≠ d) && Table.wfFrom d (k + 1) t

/-- The canonical form of a table. -/
def Table.wf {α : Type} [DecidableEq α] (d : α) (t : List (Nat × α)) : Bool := Table.wfFrom d 0 t

/-- The lowest index from `n` whose record satisfies `p`, in a table whose unlisted records satisfy it. -/
def Table.lowestFrom {α : Type} (p : α → Bool) : Nat → List (Nat × α) → Nat
  | n, [] => n
  | n, (k, v) :: t => if n < k then n else if p v then k else Table.lowestFrom p (k + 1) t

/-- `f` applied to the `n` records from index `k`, in canonical form (`t` lists nothing below `k`). -/
def Table.mapFrom {α : Type} [DecidableEq α] (d : α) (f : Nat → α → α) : Nat → Nat → List (Nat × α) → List (Nat × α)
  | 0, _, t => t
  | n + 1, k, [] =>
    let v := f k d
    if v = d then Table.mapFrom d f n (k + 1) [] else (k, v) :: Table.mapFrom d f n (k + 1) []
  | n + 1, k, (j, w) :: t =>
    if j = k then
      let v := f k w
      if v = d then Table.mapFrom d f n (k + 1) t else (k, v) :: Table.mapFrom d f n (k + 1) t
    else
      let v := f k d
      if v = d then Table.mapFrom d f n (k + 1) ((j, w) :: t)
      else (k, v) :: Table.mapFrom d f n (k + 1) ((j, w) :: t)

/-- `f` applied to every listed record; a record that becomes `d` is no longer listed. -/
def Table.mapListed {α : Type} [DecidableEq α] (d : α) (f : α → α) : List (Nat × α) → List (Nat × α)
  | [] => []
  | (k, v) :: t => if f v = d then Table.mapListed d f t else (k, f v) :: Table.mapListed d f t

/-! ### Records -/

namespace State

/-- The record of a job slot (R1). -/
def job (s : State) (i : Nat) : Job := Table.get {} s.jobs i
/-- A job record written. -/
def setJob (s : State) (i : Nat) (j : Job) : State := { s with jobs := Table.put {} i j s.jobs }
/-- A segment record (R23). -/
def seg (s : State) (i : Nat) : Seg := Table.get {} s.segs i
/-- A segment record written. -/
def setSeg (s : State) (i : Nat) (x : Seg) : State := { s with segs := Table.put {} i x s.segs }
/-- A cue record (R51). -/
def cue (s : State) (i : Nat) : Cue := Table.get {} s.cues i
/-- A cue record written. -/
def setCue (s : State) (i : Nat) (x : Cue) : State := { s with cues := Table.put {} i x s.cues }
/-- A take record (R70). -/
def take (s : State) (i : Nat) : Take := Table.get {} s.takes i
/-- A take record written. -/
def setTake (s : State) (i : Nat) (x : Take) : State := { s with takes := Table.put {} i x s.takes }
/-- A typist's hold count (R82). -/
def hold (s : State) (p : Nat) : Nat := Table.get 0 s.holds p
/-- A typist's hold count written. -/
def setHold (s : State) (p n : Nat) : State := { s with holds := Table.put 0 p n s.holds }
/-- An extent table entry (R97). -/
def ext (s : State) (e : Nat) : Ext := Table.get {} s.exts e
/-- An extent table entry written. -/
def setExt (s : State) (e : Nat) (x : Ext) : State := { s with exts := Table.put {} e x s.exts }
/-- A placement record (R34). -/
def placement (s : State) (c : Nat) : Placement := Table.get {} s.places c
/-- A placement record written. -/
def setPlacement (s : State) (c : Nat) (x : Placement) : State := { s with places := Table.put {} c x s.places }
/-- A channel context (R114). -/
def chan (s : State) (c : Nat) : Channel := Table.get {} s.chans c
/-- A channel context written. -/
def setChan (s : State) (c : Nat) (x : Channel) : State := { s with chans := Table.put {} c x s.chans }
/-- A link record (R182). -/
def link (s : State) (l : Nat) : Link := Table.get {} s.links l
/-- A link record written. -/
def setLink (s : State) (l : Nat) (x : Link) : State := { s with links := Table.put {} l x s.links }

/-- A job record changed. -/
def updJob (s : State) (i : Nat) (f : Job → Job) : State := s.setJob i (f (s.job i))
/-- A channel context changed. -/
def updChan (s : State) (c : Nat) (f : Channel → Channel) : State := s.setChan c (f (s.chan c))
/-- A link record changed. -/
def updLink (s : State) (l : Nat) (f : Link → Link) : State := s.setLink l (f (s.link l))
/-- A placement record changed. -/
def updPlacement (s : State) (c : Nat) (f : Placement → Placement) : State := s.setPlacement c (f (s.placement c))
/-- The body of a segment record in use changed. -/
def updSegBody (s : State) (i : Nat) (f : SegBody → SegBody) : State :=
  s.setSeg i { s.seg i with body := (s.seg i).body.map f }
/-- The body of a cue record in use changed. -/
def updCueBody (s : State) (i : Nat) (f : CueBody → CueBody) : State :=
  s.setCue i { s.cue i with body := (s.cue i).body.map f }
/-- The body of a take record in use changed. -/
def updTakeBody (s : State) (i : Nat) (f : TakeBody → TakeBody) : State :=
  s.setTake i { s.take i with body := (s.take i).body.map f }

/-! ### References (R2, R25, R52, R71) -/

/-- The reference of a job slot, with the issue it holds now (R2). -/
def jobRef (s : State) (i : Nat) : Ref := ⟨i, (s.job i).issue⟩
/-- The reference of a segment record, with the issue it holds now (R25). -/
def segRef (s : State) (i : Nat) : Ref := ⟨i, (s.seg i).issue⟩
/-- The reference of a cue record, with the issue it holds now (R52). -/
def cueRef (s : State) (i : Nat) : Ref := ⟨i, (s.cue i).issue⟩
/-- The reference of a take record, with the issue it holds now (R71). -/
def takeRef (s : State) (i : Nat) : Ref := ⟨i, (s.take i).issue⟩

/-- A job reference is current (R2). -/
def jobCurrent (s : State) (r : Ref) : Bool :=
  decide (r.idx < Config.jobSlots) && decide ((s.job r.idx).state ≠ .vacant) && decide (r.issue = (s.job r.idx).issue)
/-- A segment reference is current (R25). -/
def segCurrent (s : State) (r : Ref) : Bool :=
  decide (r.idx < Config.segRecords) && (s.seg r.idx).body.isSome && decide (r.issue = (s.seg r.idx).issue)
/-- A cue reference is current (R52). -/
def cueCurrent (s : State) (r : Ref) : Bool :=
  decide (r.idx < Config.cueRecords) && (s.cue r.idx).body.isSome && decide (r.issue = (s.cue r.idx).issue)
/-- A take reference is current (R71). -/
def takeCurrent (s : State) (r : Ref) : Bool :=
  decide (r.idx < Config.takeRecords) && (s.take r.idx).body.isSome && decide (r.issue = (s.take r.idx).issue)

/-! ### The store's bytes (R94) -/

/-- The byte at a store address; a byte nothing has written reads 0 (DESIGN CHOICE, assumption 10). -/
def byteAt (s : State) (a : Nat) : Byte := Table.get 0 s.mem a

end State

/-- The canonical form of the store's bytes: addresses strictly rising, no listed byte 0. -/
def Memory.wf (m : List Host.Cell) : Bool := Table.wf (0 : Byte) m

/-- The store byte address of a frame: extent × 262,144 + frame × 64 (R94). -/
def storeAddress (extent frame : Nat) : Nat := extent * 262144 + frame * 64

/-- The `n` bytes from an address as one number, the lowest address least significant. -/
def Memory.read (m : List Host.Cell) : Nat → Nat → Nat
  | 0, _ => 0
  | n + 1, a => (Table.get (0 : Byte) m a).toNat + 256 * Memory.read m n (a + 1)

/-- The `n` bytes of a number written from an address. -/
def Memory.write : Nat → Nat → Nat → List Host.Cell → List Host.Cell
  | 0, _, _, m => m
  | n + 1, a, v, m => Memory.write n (a + 1) (v / 256) (Table.put (0 : Byte) a (BitVec.ofNat 8 v) m)

namespace State

/-- The 64 bytes of a frame of the store (R94). -/
def readFrame (s : State) (extent frame : Nat) : Frame :=
  BitVec.ofNat 512 (Memory.read s.mem Config.frameBytes (storeAddress extent frame))

/-- A frame of the store written (R94). -/
def writeFrame (s : State) (extent frame : Nat) (f : Frame) : State :=
  { s with mem := Memory.write Config.frameBytes (storeAddress extent frame) f.toNat s.mem }

/-- A frame of the store after a write to it that ended in an uncorrectable check or was abandoned: its bytes are a free
value (assumption 12). -/
def spoilFrame (s : State) (extent frame : Nat) : State :=
  { s.writeFrame extent frame (Config.freeFrame s.freeCount) with freeCount := s.freeCount + 1 }

/-! ### Messages handed to the ports -/

/-- A message handed to a link. It is dropped unsent while the link is DOWN (R191), and nothing is handed to the link of
a bulk-bound channel (R193). -/
def handOver (s : State) (l : Nat) (m : LinkMsg) : State :=
  if (s.link l).up && decide ((s.chan l).binding = .link) then
    s.updLink l fun k => { k with unsent := k.unsent ++ [m] }
  else s

/-- A reply handed to the console port (R195). -/
def handConsole (s : State) (m : ConsoleMsg) : State := { s with conUnsent := s.conUnsent ++ [m] }

/-- A console notice offered to the queue: it joins the tail, or is dropped with OVERFLOWED set when the queue holds 32
(R197). -/
def raise (s : State) (n : ConsoleNotice) : State :=
  if s.notices.length < Config.noticeLimit then { s with notices := s.notices ++ [n] } else { s with overflowed := true }

/-- The attention line: asserted while the notice queue is not empty (R197). -/
def attention (s : State) : Bool := !s.notices.isEmpty

end State

/-! ### Taking a routed request -/

/-- A flag as a bit value. -/
def bit (b : Bool) : Nat := if b then 1 else 0

/-- The request kind code of section 12.3. -/
def requestKind : Request → Nat
  | .openJob .. => 1 | .createJob .. => 2 | .attach .. => 3 | .detach .. => 4 | .closeDictation .. => 5
  | .setJobAttributes .. => 6 | .readJob .. => 7 | .findJob .. => 8 | .hold .. => 9 | .unhold .. => 10
  | .release .. => 11 | .retiringStatus => 12
  | .readSegment .. => 16 | .sealRange .. => 17 | .paceRange .. => 18
  | .placeCue .. => 24 | .removeCue .. => 25 | .readCue .. => 26 | .cueAt .. => 27 | .lastCue .. => 28 | .findCue .. => 29
  | .claimNext => 32 | .assign .. => 33 | .returnTake .. => 34 | .revoke .. => 35 | .rework .. => 36
  | .readTake .. => 37 | .heldTakes => 38 | .queueEntry .. => 39
  | .setBankMap .. => 48 | .format => 49 | .setPoolThreshold .. => 50 | .setBulkPriority .. => 51
  | .readExtent .. => 52 | .readPool => 53
  | .setCaptureMode .. => 64 | .sealMode .. => 65 | .captureSetup .. => 66 | .record => 67 | .pause => 68
  | .readback .. => 69 | .readbackEnd => 70
  | .play => 72 | .loadTake .. => 73 | .halt => 74 | .rewind .. => 75 | .forward .. => 76 | .jump .. => 77
  | .returnPlay => 78 | .playSetup .. => 79 | .setProfile .. => 80 | .readProfiles .. => 81
  | .bindChannel .. => 88 | .setFrameTimeout .. => 89 | .readChannel .. => 90 | .exportJob .. => 91 | .exportStop .. => 92
  | .configureStation .. => 96 | .readLink .. => 97 | .pedalMask .. => 98
  | .readNotice => 104 | .acknowledgeNotice .. => 105 | .bulkRead .. => 106 | .warmReset => 107

/-- The requests that the channel of a link takes: those whose owner is the Stream Channels (R188), and OPEN JOB and ATTACH,
whose capture the channel takes up (R7, R9). -/
def forChannel : Request → Bool
  | .setCaptureMode .. | .sealMode .. | .captureSetup .. | .record | .readback .. | .readbackEnd | .play | .pause
  | .loadTake .. | .halt | .rewind .. | .forward .. | .jump .. | .returnPlay | .playSetup .. | .readChannel ..
  | .setProfile .. | .readProfiles .. | .openJob .. | .attach .. => true
  | .createJob .. | .detach .. | .closeDictation .. | .setJobAttributes .. | .readJob .. | .findJob .. | .hold ..
  | .unhold .. | .release .. | .retiringStatus | .readSegment .. | .sealRange .. | .paceRange .. | .placeCue ..
  | .removeCue .. | .readCue .. | .cueAt .. | .lastCue .. | .findCue .. | .claimNext | .assign .. | .returnTake ..
  | .revoke .. | .rework .. | .readTake .. | .heldTakes | .queueEntry .. | .setBankMap .. | .format
  | .setPoolThreshold .. | .setBulkPriority .. | .readExtent .. | .readPool | .bindChannel .. | .setFrameTimeout ..
  | .exportJob .. | .exportStop .. | .configureStation .. | .readLink .. | .pedalMask .. | .readNotice
  | .acknowledgeNotice .. | .bulkRead .. | .warmReset => false

/-- Who a request is judged for: the console, or the station with the role and the person stamped on the request at its
arrival (R186, R195). -/
inductive Party where
  | console
  | station (link : Nat) (role : Role) (person : Nat)
  deriving DecidableEq, Repr

/-- What an owner makes of a request: its reply code and results, the state, and a channel notice that the rule places
after the reply (R191: HALT hands its reply before its notice), with whether it may suspend the channel. -/
structure Ans where
  code : ReplyCode
  result : Result := {}
  state : State
  after : Option Notice := none

/-- A refusal: no record changes (introduction, section 5). -/
def refuse (c : ReplyCode) (s : State) : Ans := { code := c, state := s }

/-- A request carried out. -/
def done (s : State) (items : List Item := []) : Ans := { code := .done, result := { fixed := items }, state := s }

/-- The first failing check gives the reply (R6 and the orders of checks of the other chapters). -/
def firstFailing : List (Bool × ReplyCode) → Option ReplyCode
  | [] => none
  | (fails, c) :: rest => if fails then some c else firstFailing rest

/-- A request judged by its checks in order: refused by the first that fails, otherwise carried out. -/
def checked (s : State) (checks : List (Bool × ReplyCode)) (taken : Ans) : Ans :=
  match firstFailing checks with
  | some c => refuse c s
  | none => taken

namespace State

/-- The party and the tag of a request, when it is the one its port has routed and its owner has not yet taken (R186,
R195). A channel bound to BULK takes no request from its link (R116): one outstanding for it waits there (assumption
43). -/
def routed (s : State) (p : Port) (r : Request) : Option (Party × Byte) :=
  match p with
  | .console =>
    match s.conOutstanding with
    | some o => if o.request = r then some (.console, o.tag) else none
    | none => none
  | .station l =>
    if forChannel r && decide ((s.chan l.val).binding = .bulk) then none
    else
      match (s.link l.val).outstanding with
      | some o => if o.request = r then some (.station l.val o.role o.person, o.tag) else none
      | none => none

/-- An owner's reply handed to the port it goes to; the outstanding request becomes none (R186, R195). -/
def reply (s : State) (p : Port) (r : Request) (tag : Byte) (c : ReplyCode) (res : Result) : State :=
  match p with
  | .console => { s with conOutstanding := none }.handConsole ⟨requestKind r, tag, c, res⟩
  | .station l =>
    (s.updLink l.val fun k => { k with outstanding := none }).handOver l.val (.reply (requestKind r) tag c res)

end State

end Sys2Proof.Machine
end

