-- ==== Sys2Proof/Machine/StoreOps.lean ====
section
/-! DEFINITION. Shared operations of the Store Controller (chapter 5): the bank map, reference counts and the disposal of
extents, allocation, the low mark, the store arbiter with its round robin and hog bursts, the scrub claim of the
Maintenance Engine, and the DAMAGED state. -/

namespace Sys2Proof.Machine

/-! ### The bank map (R95) -/

/-- A window matches an extent group: it is enabled and, at every bit where its mask holds 1, the group holds the same bit
as the base group (R95). -/
def Window.covers (w : Window) (group : Nat) : Bool :=
  w.enable && decide ((BitVec.ofNat 4 group ^^^ BitVec.ofNat 4 w.base) &&& BitVec.ofNat 4 w.mask = 0)

/-- The bank line of an extent: the lowest-numbered matching window; none for an absent extent (R95). -/
def BankMap.line (b : BankMap) (extent : Nat) : Option Nat :=
  let g := extent / 256
  if b.w0.covers g then some 0
  else if b.w1.covers g then some 1
  else if b.w2.covers g then some 2
  else if b.w3.covers g then some 3
  else none

/-- An extent is present when at least one window matches its group (R95). -/
def BankMap.present (b : BankMap) (extent : Nat) : Bool := (b.line extent).isSome

/-! ### Claims (R94, R105) -/

/-- The channel a claim belongs to; none for the Maintenance Engine. -/
def Purpose.chan? : Purpose → Option Nat
  | .capture c _ _ => some c
  | .play c => some c
  | .bulk c _ => some c
  | .scrub => none

/-- A claim is a BULK claim. -/
def Purpose.isBulk : Purpose → Bool
  | .bulk .. => true
  | .capture .. | .play .. | .scrub => false

/-- A claim is the Maintenance Engine's. -/
def Purpose.isScrub : Purpose → Bool
  | .scrub => true
  | .capture .. | .play .. | .bulk .. => false

/-- The bytes a claim's access writes: a captured frame, or the silent content of a scrub; none for a READ (R94, R104). -/
def Purpose.writes : Purpose → Option Frame
  | .capture _ _ data => some data
  | .scrub => some silentFrame
  | .play _ | .bulk .. => none

/-- What the access of a claim drives on the store interface under a bank map (R94, R95). -/
def Claim.signals (b : BankMap) (c : Claim) : StoreSignals :=
  { write := c.use.writes.isSome, address := storeAddress c.extent c.frame, line := b.line c.extent
    claimant := c.use.chan?, data := c.use.writes }

/-- The claim class, 1 to 4; the placement of the bulk class decides 3 and 4 (R105). -/
def claimClass (bulkAbove : Bool) : Purpose → Nat
  | .capture .. => 1
  | .play .. => 2
  | .bulk .. => if bulkAbove then 3 else 4
  | .scrub => if bulkAbove then 4 else 3

/-- The channel served last in a class (R106). -/
def Served.get (v : Served) (k : Nat) : Nat :=
  if k = 1 then v.class1 else if k = 2 then v.class2 else if k = 3 then v.class3 else v.class4

/-- The channel served last in a class, recorded (R106). -/
def Served.set (v : Served) (k c : Nat) : Served :=
  if k = 1 then { v with class1 := c } else if k = 2 then { v with class2 := c }
  else if k = 3 then { v with class3 := c } else { v with class4 := c }

/-- The channels in circle order, from the one after the channel served last (R106). -/
def circleFrom (last : Nat) : List Nat := (List.range 16).map fun i => (last + 1 + i) % 16

namespace State

/-- The bulk mode and burst of channel 14 or 15 (R107). -/
def bulkSetting (s : State) (c : Nat) : BulkSetting := if c = 14 then s.bulk14 else s.bulk15

/-- The highest-ranking class that has a claim waiting (R105, step 2). -/
def topClass (s : State) : Option Nat :=
  [1, 2, 3, 4].find? fun k => s.waiting.any fun c => claimClass s.bulkAbove c.use == k

/-- The oldest claim waiting of one claimant in one class. -/
def oldestOf (s : State) (k : Nat) (who : Option Nat) : Option Claim :=
  s.waiting.find? fun c => claimClass s.bulkAbove c.use == k && c.use.chan? == who

/-- The claim the arbiter grants within a class: the Maintenance Engine's, which is alone in its class, or the oldest
claim of the first claiming channel in the circle (R105, step 3; R106). -/
def pickIn (s : State) (k : Nat) : Option Claim :=
  match s.oldestOf k none with
  | some c => some c
  | none => (circleFrom (s.served.get k)).findSome? fun ch => s.oldestOf k (some ch)

/-- The port given to a claim: it leaves its waiting list and its access begins. -/
def startAccess (s : State) (c : Claim) (burst : Nat) : State :=
  { s with waiting := s.waiting.erase c
           port := some { claim := c, live := true, burst := burst, place := c.use.isBulk } }

/-- The store interface: what the access in progress drives from its grant to its completion; nothing while the port is free.
The bank map stands while accesses are made, so the line is that of the grant (R94 to R96). -/
def storeWire (s : State) : Option StoreSignals := s.port.map fun a => a.claim.signals s.bank

/-- The burst count a grant made by arbitration starts with: 1 for a channel in HOG mode, otherwise none (R107). The count is
fixed by the mode at the grant: an access granted in INTERLEAVE begins no burst, even when SET BULK PRIORITY makes its channel
HOG before it completes (the model's choice, assumption 52). -/
def firstBurst (s : State) (u : Purpose) : Nat :=
  match u with
  | .bulk c _ => if (s.bulkSetting c).mode = .hog then 1 else 0
  | .capture .. | .play .. | .scrub => 0

/-- A grant by steps 2 and 3 of R105, which moves the round robin of its class (R106). -/
def grantNext (s : State) : State :=
  match s.topClass with
  | none => s
  | some k =>
    match s.pickIn k with
    | none => s
    | some c =>
      let s' := s.startAccess c (s.firstBurst c.use)
      match c.use.chan? with
      | some ch => { s' with served := s'.served.set k ch }
      | none => s'

/-- The claim that continues a hog burst: the burst's channel is in HOG mode, has a claim waiting, and the count is below
its burst setting (R107). -/
def burstClaim (s : State) (a : Access) : Option Claim :=
  match a.claim.use with
  | .bulk c _ =>
    if 0 < a.burst ∧ (s.bulkSetting c).mode = .hog ∧ a.burst < (s.bulkSetting c).burst then
      s.waiting.find? fun w => w.use.isBulk && w.use.chan? == some c
    else none
  | .capture .. | .play .. | .scrub => none

/-- The access in progress ends: the port is free and the arbiter makes its grant, among the claims waiting at that moment
(R105; before the completion's own effect, assumption 6). -/
def endAccess (s : State) (a : Access) : State :=
  let s' := { s with port := none }
  match s'.burstClaim a with
  | some c => s'.startAccess c (a.burst + 1)
  | none => s'.grantNext

/-- A claim made: it joins the waiting claims, and is granted at once when no access is in progress (R105). -/
def makeClaim (s : State) (c : Claim) : State :=
  let s' := { s with waiting := s.waiting ++ [c] }
  if s'.port.isNone then s'.grantNext else s'

/-- The claims of a channel leave: waiting ones are withdrawn, and a granted one runs to its completion unwanted (R108). A
withdrawn BULK claim frees its reserved place (R150). -/
def withdraw (s : State) (ch : Nat) : State :=
  { s with
    waiting := s.waiting.filter fun c => c.use.chan? != some ch
    reserved := s.reserved - s.waiting.countP fun c => c.use.isBulk && c.use.chan? == some ch
    port := s.port.map fun a => if a.claim.use.chan? = some ch then { a with live := false } else a }

/-- One frame's write claim of a channel leaves, waiting or granted (R41). -/
def withdrawWrite (s : State) (ch extent frame : Nat) : State :=
  let mine : Claim → Bool := fun c => c.use.chan? == some ch && c.extent == extent && c.frame == frame
  { s with
    waiting := s.waiting.filter fun c => !mine c
    port := s.port.map fun a => if mine a.claim then { a with live := false } else a }

/-- WAITING-FOR-STORE: the channel has at least one claim waiting and none of its claims is granted (R105, R121). -/
def waitingForStore (s : State) (ch : Nat) : Bool :=
  (s.waiting.any fun c => c.use.chan? == some ch) &&
    !(match s.port with | some a => a.claim.use.chan? == some ch | none => false)

/-- A channel has a read waiting at the arbiter, not granted: WAITING (R133). -/
def readWaiting (s : State) (ch : Nat) : Bool := s.waiting.any fun c => c.use.chan? == some ch

/-! ### The low mark (R101) -/

/-- The free count (R100). -/
def freeExtents (s : State) : Nat := s.freeList.length

/-- The low mark tested after a change of the free count (R101). -/
def testLow (s : State) : State :=
  if s.lowArmed then
    if s.freeExtents < s.threshold then { s with lowArmed := false }.raise (.poolLow s.freeExtents s.threshold) else s
  else if s.threshold ≤ s.freeExtents then { s with lowArmed := true } else s

/-! ### Scrubbing (R104) -/

/-- The Maintenance Engine has a claim waiting, or one granted that it still wants. -/
def scrubClaimed (s : State) : Bool :=
  (s.waiting.any fun c => c.use.isScrub) ||
    (match s.port with | some a => a.claim.use.isScrub && a.live | none => false)

/-- While the scrub list is not empty, the engine holds one MAINTENANCE write claim at the scrub position (R104). -/
def claimScrub (s : State) : State :=
  match s.scrubList with
  | [] => s
  | e :: _ => if s.scrubClaimed then s else s.makeClaim { extent := e, frame := s.scrubNext, use := .scrub }

/-- A scrub in progress is abandoned: its waiting claim leaves, a granted write completes and its result is ignored, and
the scrub position returns to frame 0 (R103, R108, R113). -/
def abandonScrub (s : State) : State :=
  { s with
    waiting := s.waiting.filter fun c => !c.use.isScrub
    port := s.port.map fun a => if a.claim.use.isScrub then { a with live := false } else a
    scrubNext := 0 }

/-- An extent leaves the scrub list wherever it stands: the format remaining count falls when it is among those FORMAT
placed that have not yet left (R103, R110), and when it stood at the head the next extent begins at frame 0. -/
def leaveScrub (s : State) (e : Nat) : State :=
  let atHead := decide (s.scrubList.head? = some e)
  let s1 := if s.scrubList.idxOf e < s.formatLeft then { s with formatLeft := s.formatLeft - 1 } else s
  let s2 := if atHead then s1.abandonScrub else s1
  { s2 with scrubList := s2.scrubList.erase e }.claimScrub

/-! ### Reference counts (R28, R98), allocation (R100) and taint (R99) -/

/-- A reference to an extent reported: its count rises by one (R28, R98). -/
def refUp (s : State) (e : Nat) : State := s.setExt e { s.ext e with refs := (s.ext e).refs + 1 }

/-- The disposal of an extent whose count has reached 0 (R98). -/
def dispose (s : State) (e : Nat) : State :=
  let x := s.ext e
  match x.state with
  | .inUse =>
    if x.taint then
      { s.setExt e { x with state := .scrub } with scrubList := s.scrubList ++ [e] }.claimScrub
    else
      { s.setExt e { x with state := .free } with freeList := s.freeList ++ [e] }.testLow
  | .absent | .free | .scrub | .damaged => s

/-- The end of a reference to an extent reported: its count falls by one, and at 0 the extent is disposed of (R28, R98). -/
def refDown (s : State) (e : Nat) : State :=
  let s' := s.setExt e { s.ext e with refs := (s.ext e).refs - 1 }
  if (s'.ext e).refs = 0 then s'.dispose e else s'

/-- Allocation of the extent at the head of the free list (R100); none is STORE-FULL. -/
def allocate (s : State) : Option (Nat × State) :=
  match s.freeList with
  | [] => none
  | e :: rest =>
    some (e, { s.setExt e { s.ext e with state := .inUse, refs := 1 } with freeList := rest }.testLow)

/-- Taint reported for an extent: its flag is set (R28, R99). -/
def taintExt (s : State) (e : Nat) : State := s.setExt e { s.ext e with taint := true }

/-! ### DAMAGED (R109, R110) -/

/-- An extent marked DAMAGED, its count and taint kept; one that stood on the free list or the scrub list leaves it
(R97, R110). The manual does not order POOL-LOW and STORE-ERROR when a FREE extent is so lost: the low mark is tested here,
so POOL-LOW is offered first (assumptions 21 and 46). -/
def markDamaged (s : State) (e : Nat) : State :=
  let x := s.ext e
  let s' := s.setExt e { x with state := .damaged }
  match x.state with
  | .free => { s' with freeList := s'.freeList.erase e }.testLow
  | .scrub => s'.leaveScrub e
  | .absent | .inUse | .damaged => s'

end State

end Sys2Proof.Machine
end

