-- ==== Sys2Proof/Machine/Flags.lean ====
section
/-! DEFINITION. Status marks, pending-reload marks and channel notices: what a channel becomes when its stream stops, the
two notice slots with SUSPENDED (R117 to R121), and the search key and permission flags of a job. -/

namespace Sys2Proof.Machine

/-! ### Pending-reload marks (R152, R159, R162) -/

/-- A boundary crossing: every marked field is copied from the stored copy into the active copy, and the marks are cleared
(R159). -/
def ProfilePair.cross (p : ProfilePair) : ProfilePair :=
  { active :=
      { rate := if p.rateMark then p.stored.rate else p.active.rate
        backstep := if p.backstepMark then p.stored.backstep else p.active.backstep
        sealAct := if p.sealMark then p.stored.sealAct else p.active.sealAct
        pace := if p.paceMark then p.stored.pace else p.active.pace }
    stored := p.stored }

/-- The pending marks cleared without a crossing: the stored copy takes back the active copy's values (R162). -/
def ProfilePair.drop (p : ProfilePair) : ProfilePair := { active := p.active, stored := p.active }

/-- A boundary crossing applied to both profiles (R159). -/
def Channel.cross (c : Channel) : Channel := { c with profA := c.profA.cross, profB := c.profB.cross }

/-- The active copy of a profile (R152). -/
def Channel.activeCopy (c : Channel) : ProfId → Profile
  | .a => c.profA.active
  | .b => c.profB.active

/-! ### Channel state (R114, R115) -/

/-- The stream is none: the state, or the underlying state while SUSPENDED, is IDLE. -/
def Stream.isIdle : Stream → Bool
  | .idle => true
  | .capture _ | .play _ | .readback _ | .exporting _ => false

/-- The channel is IDLE; a SUSPENDED channel is not, even when its underlying state is IDLE (R183). -/
def Channel.isIdle (c : Channel) : Bool := c.stream.isIdle && !c.suspended

/-- SECOND-NOTICE: the second notice slot holds a notice (R120). -/
def Channel.secondNotice (c : Channel) : Bool := c.second.isSome

/-- The take loaded on a channel (R134). -/
def Channel.loaded (c : Channel) : Option Ref :=
  match c.stream with
  | .play p => some p.take
  | .idle | .capture _ | .readback _ | .exporting _ => none

/-- A channel whose stream has stopped: the fields of its direction are absent, CHAIN-ABORT and NO-CONTINUATION are clear,
pending marks are dropped and the active profile is A (R114, R121, R133, R152, R162). A SUSPENDED channel stays so, with
IDLE as its underlying state (R120, assumption 14). -/
def Channel.stopped (c : Channel) : Channel :=
  { c with
    stream := .idle, chainAbort := false, noContinuation := false, active := .a
    profA := c.profA.drop, profB := c.profB.drop }

/-- A channel become IDLE outright. -/
def Channel.idled (c : Channel) : Channel := { c.stopped with suspended := false }

/-- What a stream becomes as its channel becomes SUSPENDED: a read outstanding is discarded, a shuttle held ends, and no
claim stays outstanding (R120, R136). -/
def Stream.suspend : Stream → Stream
  | .idle => .idle
  | .capture c => .capture c
  | .play p => .play { p with read := none, shuttle := .none }
  | .readback r => .readback { r with read := none }
  | .exporting e => .exporting { e with outstanding := 0 }

namespace State

/-- A channel's stream stops (R133): its waiting claims are withdrawn, a granted read completes and is discarded, and its
fields are cleared. -/
def stopStream (s : State) (ch : Nat) : State := (s.withdraw ch).updChan ch Channel.stopped

/-- A channel becomes SUSPENDED, with the state the raising event left it in as its underlying state (R120). -/
def suspend (s : State) (ch : Nat) : State :=
  (s.withdraw ch).updChan ch fun c => { c with suspended := true, stream := c.stream.suspend }

/-! ### Channel notices (R119, R120, R192, R199) -/

/-- A notice that has entered the current slot is sent on the link, or offered to the console notice queue for a
bulk-bound channel (R119, R192, R199). -/
def sendNotice (s : State) (n : Notice) : State :=
  match (s.chan n.chan).binding with
  | .link => s.handOver n.chan (.notice n)
  | .bulk => s.raise (.channel n.chan n)

/-- A channel notice placed (R119, R120). `suspends` says that the notice is one of a play or export channel, which a
second notice suspends; a capture goes on. -/
def placeNotice (s : State) (n : Notice) (suspends : Bool) : State :=
  let c := s.chan n.chan
  match c.slot, c.second with
  | none, _ => (s.setChan n.chan { c with slot := some n }).sendNotice n
  | some _, none =>
    let s' := s.setChan n.chan { c with second := some n }
    if suspends then s'.suspend n.chan else s'
  | some _, some _ => s.setChan n.chan { c with second := some { n with superseded := true } }

/-- An acknowledgement taken by a channel (R119, R120): the current slot is emptied, a second notice moves up and is sent,
and a SUSPENDED channel takes its underlying state. It is ignored while the current slot is empty. -/
def acknowledge (s : State) (ch : Nat) : State :=
  let c := s.chan ch
  match c.slot, c.second with
  | none, _ => s
  | some _, none => s.setChan ch { c with slot := none }
  | some _, some n => (s.setChan ch { c with slot := some n, second := none, suspended := false }).sendNotice n

/-- Both notice slots emptied and SECOND-NOTICE cleared (R116, R119, R183). -/
def emptySlots (s : State) (ch : Nat) : State := s.updChan ch fun c => { c with slot := none, second := none }

end State

/-- The reply of a request and then the notice its rule places after it (R145, R191). -/
def finish (p : Port) (r : Request) (tag : Byte) (a : Ans) : State :=
  let s := a.state.reply p r tag a.code a.result
  match a.after with
  | none => s
  | some n => s.placeNotice n true

/-- An owner takes a request: when its port has routed it, the owner makes its checks and changes in one event and its
reply is handed back with the request's tag (R186, R195). A request that is not outstanding (never routed, withdrawn by
a link going DOWN, answered BUSY by WARM RESET) is never taken and changes nothing (R180, R194; assumption 1). -/
def serve (p : Port) (r : Request) (s : State) (owner : Party → State → Ans) : Host.Outcome State Fault Refusal :=
  match s.routed p r with
  | none => .next s
  | some (party, tag) => .next (finish p r tag (owner party s))

/-! ### Flags of a job -/

/-- The class a code names (introduction, section 4.4). -/
def clsOf : Nat → Cls
  | 0 => .daily
  | 1 => .expedited
  | _ => .ordinary

/-- The code of a class. -/
def Cls.code : Cls → Nat
  | .daily => 0 | .expedited => 1 | .ordinary => 2

/-- The code of a job state (section 1.2). -/
def JobState.code : JobState → Nat
  | .vacant => 0 | .live => 1 | .setAside => 2 | .closed => 3 | .complete => 4 | .releasing => 5 | .retiring => 6

/-- The search key of a job slot (R20). -/
def Job.key (j : Job) : JobKey :=
  { docket := j.docket
    reporter := BitVec.ofNat 6 j.reporter
    cls := BitVec.ofNat 2 j.cls.code
    state := BitVec.ofNat 3 j.state.code
    held := if j.held then 1 else 0 }

/-- A key agrees with a pattern: at every bit where the mask holds 1 both hold the same bit (R20). -/
def keyAgrees (k pattern mask : JobKey) : Bool :=
  decide ((k.docket ^^^ pattern.docket) &&& mask.docket = 0) &&
  decide ((k.reporter ^^^ pattern.reporter) &&& mask.reporter = 0) &&
  decide ((k.cls ^^^ pattern.cls) &&& mask.cls = 0) &&
  decide ((k.state ^^^ pattern.state) &&& mask.state = 0) &&
  decide ((k.held ^^^ pattern.held) &&& mask.held = 0)

/-- A party owns a job: the console may act on any, a reporter on those with its number (R6, check 5). -/
def Party.owns (p : Party) (j : Job) : Bool :=
  match p with
  | .console => true
  | .station _ .reporter n => decide (j.reporter = n)
  | .station _ .typist _ => false
  | .station _ .vacant _ => false

/-- The person number stamped on a request; 0 for the console. -/
def Party.person : Party → Nat
  | .console => 0
  | .station _ _ n => n

/-- The request comes from a typist's station. -/
def Party.isTypist : Party → Bool
  | .station _ .typist _ => true
  | .station _ .reporter _ | .station _ .vacant _ | .console => false

/-- The request comes from a reporter's station. -/
def Party.isReporter : Party → Bool
  | .station _ .reporter _ => true
  | .station _ .typist _ | .station _ .vacant _ | .console => false

end Sys2Proof.Machine
end

