-- ==== Sys2Proof/Machine/Operands.lean ====
section
/-! DEFINITION. Positions and the records they lead to: a job's segment, cue and take lists, job positions and anchors
(R29, R30), take starts and ends (R70), the editable test (R43), the bound of a cue search (R65), and frame lookups
(R49). -/

namespace Sys2Proof.Machine
namespace State

/-! ### Lists of a job -/

/-- The segments from a reference in play order, with their fields (R27). The number bounds the walk. -/
def segsFrom (s : State) : Nat → Option Ref → List (Nat × SegBody)
  | 0, _ => []
  | _ + 1, none => []
  | n + 1, some r =>
    match (s.seg r.idx).body with
    | none => []
    | some b => (r.idx, b) :: segsFrom s n b.next

/-- A job's segments in play order (R27). -/
def jobSegs (s : State) (j : Nat) : List (Nat × SegBody) := s.segsFrom Config.segRecords (s.job j).segHead

/-- The cues from a reference in cue order, with their fields (R53). -/
def cuesFrom (s : State) : Nat → Option Ref → List (Nat × CueBody)
  | 0, _ => []
  | _ + 1, none => []
  | n + 1, some r =>
    match (s.cue r.idx).body with
    | none => []
    | some b => (r.idx, b) :: cuesFrom s n b.next

/-- A job's cues in cue order (R53). -/
def jobCues (s : State) (j : Nat) : List (Nat × CueBody) := s.cuesFrom Config.cueRecords (s.job j).firstCue

/-- The takes from a reference in list order, with their fields (R72). -/
def takesFrom (s : State) : Nat → Option Ref → List (Nat × TakeBody)
  | 0, _ => []
  | _ + 1, none => []
  | n + 1, some r =>
    match (s.take r.idx).body with
    | none => []
    | some b => (r.idx, b) :: takesFrom s n b.next

/-- A job's takes in list order (R72). -/
def jobTakes (s : State) (j : Nat) : List (Nat × TakeBody) := s.takesFrom Config.takeRecords (s.job j).takeHead

end State

/-- The seal class of a segment: its SEAL part, or 0 when absent (R24). -/
def SegBody.sealClass (b : SegBody) : Nat := b.sealPart.getD 0

/-! ### Positions (R29, R30) -/

/-- The segment of a list that holds the frame at a position, with its fields and the offset (R29). -/
def locateIn : List (Nat × SegBody) → Nat → Option (Nat × SegBody × Nat)
  | [], _ => none
  | (i, b) :: rest, p => if p < b.count then some (i, b, p) else locateIn rest (p - b.count)

/-- The frames of a list that stand before a segment (R30). -/
def framesBefore : List (Nat × SegBody) → Nat → Nat
  | [], _ => 0
  | (i, b) :: rest, q => if i = q then 0 else b.count + framesBefore rest q

/-- The segment linked before a segment of a list (R37). -/
def segBefore : List (Nat × SegBody) → Nat → Option Nat
  | (i, _) :: (k, b) :: rest, q => if k = q then some i else segBefore ((k, b) :: rest) q
  | _, _ => none

/-- The segments of a list with the job position at which each begins. -/
def withStarts : Nat → List (Nat × SegBody) → List (Nat × SegBody × Nat)
  | _, [] => []
  | p, (i, b) :: rest => (i, b, p) :: withStarts (p + b.count) rest

namespace State

/-- Locating a job position: the segment that holds the frame and the offset; none at or beyond the length (R29). -/
def locate (s : State) (j p : Nat) : Option (Nat × SegBody × Nat) := locateIn (s.jobSegs j) p

/-- The job position of an anchor (R30). -/
def anchorPos (s : State) (j : Nat) : Anchor → Nat
  | .frame r k => framesBefore (s.jobSegs j) r.idx + k
  | .jobEnd => (s.job j).length

/-- The anchor at a job position: the frame there, or END (R55). -/
def anchorAt (s : State) (j p : Nat) : Anchor :=
  match s.locate j p with
  | some (i, _, k) => .frame (s.segRef i) k
  | none => .jobEnd

/-- The job position of a cue (R53). -/
def cuePos (s : State) (i : Nat) : Nat :=
  match (s.cue i).body with
  | some b => s.anchorPos b.job.idx b.anchor
  | none => 0

/-! ### Takes (R70) -/

/-- The job position at which a take begins: 0, or its TAKE cue's (R70). -/
def takeStart (s : State) (t : TakeBody) : Nat :=
  match t.start with
  | none => 0
  | some c => s.cuePos c.idx

/-- The job position at which a take ends: the start of the next take, or the job's length (R70). -/
def takeEnd (s : State) (t : TakeBody) : Nat :=
  match t.next with
  | none => (s.job t.job.idx).length
  | some n =>
    match (s.take n.idx).body with
    | some b => s.takeStart b
    | none => (s.job t.job.idx).length

/-- The frame count of a take (R70). -/
def takeFrames (s : State) (t : TakeBody) : Nat := s.takeEnd t - s.takeStart t

/-- The job's last take (R72). -/
def lastTake (s : State) (j : Nat) : Option (Nat × TakeBody) := (s.jobTakes j).getLast?

/-- The take that contains the frame at a position below the length: the last take that begins at or before it (R72). -/
def containingTake (s : State) (j p : Nat) : Option (Nat × TakeBody) :=
  ((s.jobTakes j).filter fun t => decide (s.takeStart t.2 ≤ p)).getLast?

/-- The receiving take of a capture point or a position (R43): the last take at the end of the job, the take that ends
there where a TAKE cue is anchored, otherwise the take that contains the frame. -/
def receivingTake (s : State) (j p : Nat) : Option (Nat × TakeBody) :=
  if (s.job j).length ≤ p then s.lastTake j
  else if p = 0 then s.containingTake j 0
  else ((s.jobTakes j).filter fun t => decide (s.takeStart t.2 < p)).getLast?

/-- The editable test (R43): the receiving take is OPEN with no typist, or READY. -/
def editable (s : State) (j p : Nat) : Bool :=
  match s.receivingTake j p with
  | some (_, t) => decide (t.state = .opened) || decide (t.state = .ready)
  | none => false

/-- A TAKE cue is anchored at the frame an anchor names (R39, R43). -/
def takeCueAt (s : State) (j : Nat) (a : Anchor) : Bool :=
  (s.jobCues j).any fun c => decide (c.2.kind = .take) && decide (c.2.anchor = a)

/-- A take is held by a typist: CLAIMED or FOLLOWING with that typist number. -/
def heldBy (t : TakeBody) (person : Nat) : Bool :=
  (decide (t.state = .claimed) || decide (t.state = .following)) && decide (t.typist = some person)

/-- A typist holds a take of a job CLAIMED or FOLLOWING (R19, R48). -/
def holdsTakeOf (s : State) (j person : Nat) : Bool := (s.jobTakes j).any fun t => heldBy t.2 person

/-- The held take of a typist in which a cue of a job lies (R62, R64). -/
def heldTakeWith (s : State) (j pos person : Nat) : Option (Nat × TakeBody) :=
  (s.jobTakes j).find? fun t => heldBy t.2 person && decide (s.takeStart t.2 ≤ pos) && decide (pos < s.takeEnd t.2)

/-! ### Jobs -/

/-- The lowest-numbered VACANT slot (R7). -/
def lowestVacant (s : State) : Nat := Table.lowestFrom (fun j : Job => decide (j.state = .vacant)) 0 s.jobs

/-- A reporter owns a LIVE job (R5). -/
def ownsLive (s : State) (person : Nat) : Bool :=
  s.jobs.any fun p => decide (p.2.state = .live) && decide (p.2.reporter = person)

/-- The lowest-numbered free segment record (R26). -/
def lowestFreeSeg (s : State) : Nat := Table.lowestFrom (fun x : Seg => x.body.isNone) 0 s.segs
/-- The lowest-numbered free cue record (R52). -/
def lowestFreeCue (s : State) : Nat := Table.lowestFrom (fun x : Cue => x.body.isNone) 0 s.cues
/-- The lowest-numbered free take record (R71). -/
def lowestFreeTake (s : State) : Nat := Table.lowestFrom (fun x : Take => x.body.isNone) 0 s.takes

/-! ### Streams -/

/-- The capture of a channel. -/
def captureOf (s : State) (ch : Nat) : Option Capture :=
  match (s.chan ch).stream with
  | .capture c => some c
  | .idle | .play _ | .readback _ | .exporting _ => none

/-- The typist play of a channel. -/
def playOf (s : State) (ch : Nat) : Option Play :=
  match (s.chan ch).stream with
  | .play p => some p
  | .idle | .capture _ | .readback _ | .exporting _ => none

/-- The read-back of a channel. -/
def readbackOf (s : State) (ch : Nat) : Option Readback :=
  match (s.chan ch).stream with
  | .readback r => some r
  | .idle | .capture _ | .play _ | .exporting _ => none

/-- The export of a channel. -/
def exportOf (s : State) (ch : Nat) : Option Exporting :=
  match (s.chan ch).stream with
  | .exporting e => some e
  | .idle | .capture _ | .play _ | .readback _ => none

/-- The job of a channel's capture or parked capture, with its capture fields (R55). -/
def captureFields (s : State) (ch : Nat) : Option (Ref × CapCtx) :=
  match (s.chan ch).stream with
  | .capture c => some (c.job, c.ctx)
  | .readback r => some (r.job, r.parked)
  | .idle | .play _ | .exporting _ => none

/-- The frame count of the take loaded on a play channel (R138). -/
def playFrames (s : State) (p : Play) : Nat :=
  match (s.take p.take.idx).body with
  | some t => s.takeFrames t
  | none => 0

/-- The job position at which the take loaded on a play channel begins. -/
def playStart (s : State) (p : Play) : Nat :=
  match (s.take p.take.idx).body with
  | some t => s.takeStart t
  | none => 0

/-- A segment is over clearance for the typist bound to a link (R154). -/
def overClearance (s : State) (l : Nat) (b : SegBody) : Bool := decide ((s.link l).clearance < b.sealClass)

/-! ### The bound of CUE AT, LAST CUE and FIND CUE (R65) -/

end State

/-- A range of job positions in one job, from `lo` up to but not including `hi`, with the take start that take positions
are counted from for a typist (R65). -/
structure Bound where
  job : Nat
  lo : Nat
  hi : Nat
  takeFrom : Option Nat := none
  deriving DecidableEq, Repr

namespace State

/-- The bound of a whole job, END cues included (R65). -/
def wholeJob (s : State) (j : Nat) : Bound := { job := j, lo := 0, hi := (s.job j).length + 1 }

/-- The bound of a take: from its start up to but not including its end (R65). -/
def takeBound (s : State) (t : TakeBody) : Bound :=
  { job := t.job.idx, lo := s.takeStart t, hi := s.takeEnd t, takeFrom := some (s.takeStart t) }

/-- The cues in a bound, in cue order, with their positions (R65). -/
def cuesIn (s : State) (b : Bound) : List (Nat × CueBody × Nat) :=
  ((s.jobCues b.job).map fun c => (c.1, c.2, s.anchorPos b.job c.2.anchor)).filter fun c =>
    decide (b.lo ≤ c.2.2) && decide (c.2.2 < b.hi)

end State

/-- The code of a cue kind (R51). -/
def CueKind.code : CueKind → Nat
  | .take => 1 | .speaker => 2 | .exhibit => 3 | .objection => 4 | .readback => 5 | .note => 6 | .recess => 7 | .mark => 8

/-- The cue kind a code names, for the codes 1 to 8 (R51). -/
def kindOf : Nat → Option CueKind
  | 1 => some .take | 2 => some .speaker | 3 => some .exhibit | 4 => some .objection
  | 5 => some .readback | 6 => some .note | 7 => some .recess | 8 => some .mark
  | _ => none

/-- The descriptor of a cue: the kind code in the upper 4 bits and the label in the lower 16 (R51). -/
def CueBody.descriptor (b : CueBody) : BitVec 20 := BitVec.ofNat 4 b.kind.code ++ b.label

/-- A descriptor agrees with a pattern: at every bit where the mask holds 1 both hold the same bit (R67). -/
def agrees (d pattern mask : BitVec 20) : Bool := decide ((d ^^^ pattern) &&& mask = 0)

namespace State

/-- A passage query (R68): the first cue in cue order whose position lies in the range and whose descriptor agrees, passing
over one cue (R140). -/
def passage (s : State) (j lo hi : Nat) (pattern mask : BitVec 20) (skip : Option Ref) : Option (Nat × CueBody × Nat) :=
  (s.cuesIn { job := j, lo := lo, hi := hi }).find? fun c =>
    agrees c.2.1.descriptor pattern mask && decide (some (s.cueRef c.1) ≠ skip)

end State

end Sys2Proof.Machine
end

