-- ==== Sys2Proof/Machine/Edits.lean ====
section
/-! DEFINITION. Shared edits of the segment table (chapter 2), the cue table (chapter 3) and the take table with the ready
queue (chapter 4): taking and freeing records, splitting, joining a frame, moving anchors, linking cues in cue order,
making, closing, splitting and merging takes, claiming. -/

namespace Sys2Proof.Machine
namespace State

/-! ### Segment records (R26, R27) -/

/-- The lowest-numbered free segment record taken (R26). -/
def newSeg (s : State) (b : SegBody) : State × Nat :=
  let i := s.lowestFreeSeg
  ({ s.setSeg i { s.seg i with body := some b } with segFree := s.segFree - 1 }, i)

/-- A segment record freed: its extent's reference count falls, its issue rises by one and its fields are cleared (R26,
R28). -/
def freeSeg (s : State) (i : Nat) : State :=
  match (s.seg i).body with
  | none => s
  | some b =>
    let s' := s.refDown b.extent
    { s'.setSeg i { issue := (s'.seg i).issue + 1, body := none } with segFree := s'.segFree + 1 }

/-- A segment linked before `next` and after `pred`, or as the list head (R27, R36, R37). -/
def linkSeg (s : State) (j : Nat) (pred : Option Nat) (i : Nat) : State :=
  match pred with
  | none => s.updJob j fun x => { x with segHead := some (s.segRef i) }
  | some p => s.updSegBody p fun b => { b with next := some (s.segRef i) }

/-! ### Anchors (R31, R32) -/

/-- Every cue anchor changed. -/
def mapCueAnchors (s : State) (f : Anchor → Anchor) : State :=
  { s with cues := Table.mapListed {} (fun c => { c with body := c.body.map fun b => { b with anchor := f b.anchor } }) s.cues }

end State

/-- A stream with its capture point, or its parked capture point, changed (R31). -/
def Stream.mapPoint (f : Anchor → Anchor) : Stream → Stream
  | .idle => .idle
  | .capture c => .capture { c with ctx := { c.ctx with point := f c.ctx.point } }
  | .play p => .play p
  | .readback r => .readback { r with parked := { r.parked with point := f r.parked.point } }
  | .exporting e => .exporting e

namespace State

/-- Every capture point and every run start changed (R31). -/
def mapPoints (s : State) (f : Anchor → Anchor) : State :=
  { s with
    chans := Table.mapListed {} (fun c => { c with stream := c.stream.mapPoint f }) s.chans
    places := Table.mapListed {} (fun p => { p with runStart := p.runStart.map f }) s.places }

/-- The cues of a job anchored at END moved onto a frame that has joined the job (R31, R36). -/
def moveEndCues (s : State) (j : Nat) (a : Anchor) : State :=
  { s with
    cues := Table.mapListed {} (fun c =>
      { c with body := c.body.map fun b => if b.job.idx = j ∧ b.anchor = .jobEnd then { b with anchor := a } else b })
      s.cues }

/-- The first cue, in cue order, anchored in a segment (R32). -/
def firstCueIn (s : State) (cues : List (Nat × CueBody)) (i : Nat) : Option Ref :=
  (cues.find? fun c => match c.2.anchor with | .frame r _ => r.idx == i | .jobEnd => false).map fun c => s.cueRef c.1

/-- The CUE parts of a job's segments recomputed (R32). -/
def refreshParts (s : State) (j : Nat) : State :=
  let cues := s.jobCues j
  (s.jobSegs j).foldl (fun t x => t.updSegBody x.1 fun b => { b with cue := s.firstCueIn cues x.1 }) s

/-! ### Splitting (R33) -/

end State

/-- Anchors on a split segment at the offset and above move onto the new record (R31). -/
def splitAnchor (i k : Nat) (r2 : Ref) : Anchor → Anchor
  | .frame r o => if r.idx = i ∧ k ≤ o then .frame r2 (o - k) else .frame r o
  | .jobEnd => .jobEnd

namespace State

/-- Segment `i` divided at an offset above 0 (R33). -/
def splitSeg (s : State) (i k : Nat) : State :=
  match (s.seg i).body with
  | none => s
  | some b =>
    let (s1, i2) := s.newSeg { b with first := b.first + k, count := b.count - k, cue := none }
    let r2 := s1.segRef i2
    let s2 := s1.updSegBody i fun b => { b with count := k, next := some r2 }
    let s3 := (s2.mapCueAnchors (splitAnchor i k r2)).mapPoints (splitAnchor i k r2)
    (s3.refreshParts b.job.idx).refUp b.extent

/-- The segment that holds a position split there, when the position falls at an offset above 0 within it (R33). -/
def splitAt (s : State) (j p : Nat) : State :=
  match s.locate j p with
  | some (i, _, k) => if 0 < k then s.splitSeg i k else s
  | none => s

/-! ### Joining a captured frame (R36, R37) -/

/-- A placed frame extends the segment before it: the segment names the frame's extent and ends at its frame number, has
the capture seal class, and carries no PACE (R36). -/
def extends_ (b : SegBody) (extent frame sealClass : Nat) : Bool :=
  decide (b.extent = extent) && decide (b.first + b.count = frame) && decide (b.sealClass = sealClass) && b.pace.isNone

/-- A written frame joins a job after `pred`, or at its front: it extends that segment or takes a new record, and the
length rises by one. The answer carries the anchor of the frame; none is SEGMENT-FULL (R36, R37). -/
def joinFrame (s : State) (j : Nat) (pred : Option Nat) (extent frame sealClass : Nat) : Option (State × Anchor) :=
  let grow : State → State := fun t => t.updJob j fun x => { x with length := x.length + 1 }
  let fresh : Option Ref → Option (State × Anchor) := fun next =>
    if s.segFree = 0 then none
    else
      let (s1, i) := s.newSeg
        { job := s.jobRef j, extent := extent, first := frame, count := 1, next := next
          sealPart := if sealClass = 0 then none else some sealClass }
      let s2 := (s1.linkSeg j pred i).refUp extent
      let s3 := if sealClass = 0 then s2 else s2.taintExt extent
      some (grow s3, .frame (s3.segRef i) 0)
  match pred with
  | none => fresh (s.job j).segHead
  | some p =>
    match (s.seg p).body with
    | none => fresh none
    | some b =>
      if extends_ b extent frame sealClass then
        some (grow (s.updSegBody p fun b => { b with count := b.count + 1 }), .frame (s.segRef p) b.count)
      else fresh b.next

/-! ### Cue records (R52, R53, R58, R62) -/

/-- The next cue fields of a job's cues written so that they stand in an order. -/
def linkCues : List Nat → State → State
  | [], s => s
  | [i], s => s.updCueBody i fun b => { b with next := none }
  | i :: k :: rest, s => linkCues (k :: rest) (s.updCueBody i fun b => { b with next := some (s.cueRef k) })

/-- A job's cue list put in an order: the first cue field and every next cue field (R53). -/
def orderCues (s : State) (j : Nat) (order : List Nat) : State :=
  linkCues order (s.updJob j fun x => { x with firstCue := order.head?.map s.cueRef })

/-- A cue placed at an anchor: a record is taken, linked after every cue at or below its position and before every cue at
a higher one, and the CUE parts follow (R58, steps 1 to 4). -/
def addCue (s : State) (j : Nat) (kind : CueKind) (label : BitVec 16) (a : Anchor) (placer : Placer) : State × Nat :=
  let i := s.lowestFreeCue
  let pos := s.anchorPos j a
  let at_ : Nat × CueBody → Bool := fun c => decide (s.anchorPos j c.2.anchor ≤ pos)
  let before := ((s.jobCues j).takeWhile at_).map Prod.fst
  let after := ((s.jobCues j).dropWhile at_).map Prod.fst
  let s1 := { s.setCue i { s.cue i with
      body := some { job := s.jobRef j, kind := kind, label := label, anchor := a, placer := placer } }
    with cueFree := s.cueFree - 1 }
  ((s1.orderCues j (before ++ i :: after)).refreshParts j, i)

/-- A cue record freed: its issue rises by one and its fields are cleared (R52). -/
def freeCue (s : State) (i : Nat) : State :=
  { s.setCue i { issue := (s.cue i).issue + 1, body := none } with cueFree := s.cueFree + 1 }

/-- A cue unlinked from its job's list, with the CUE parts (R62, steps 1 and 2). -/
def unlinkCue (s : State) (i : Nat) : State :=
  match (s.cue i).body with
  | none => s
  | some b =>
    let order := ((s.jobCues b.job.idx).map Prod.fst).filter fun k => k != i
    (s.orderCues b.job.idx order).refreshParts b.job.idx

/-! ### The ready queue (R74 to R76) -/

/-- The four keys of a queued take: class code, due minute, readiness sequence, record index (R75). -/
def queueKey (s : State) (t : Nat) : Nat × Nat × Nat × Nat :=
  match (s.take t).body with
  | some b =>
    let j := s.job b.job.idx
    (j.cls.code, j.due.toNat, (b.seq.getD 0).toNat, t)
  | none => (0, 0, 0, t)

end State

/-- The order of the four keys, each compared only when those before it are equal (R75). -/
def keyBefore (a b : Nat × Nat × Nat × Nat) : Bool :=
  decide (a.1 < b.1) || (decide (a.1 = b.1) &&
    (decide (a.2.1 < b.2.1) || (decide (a.2.1 = b.2.1) &&
      (decide (a.2.2.1 < b.2.2.1) || (decide (a.2.2.1 = b.2.2.1) && decide (a.2.2.2 < b.2.2.2))))))

namespace State

/-- A take's place in a queue: before the first take whose keys come after its own (R75). -/
def insertByKey (s : State) (t : Nat) : List Nat → List Nat
  | [] => [t]
  | q :: rest => if keyBefore (s.queueKey t) (s.queueKey q) then t :: q :: rest else q :: insertByKey s t rest

/-- A take enters the ready queue at the place its keys give it, with the readiness counter's value when it has no sequence
(R74, R75). A take already queued keeps its place. -/
def enterQueue (s : State) (t : Nat) : State :=
  if s.ready.contains t then s
  else
    let fresh := match (s.take t).body with | some b => b.seq.isNone | none => false
    let s1 := if fresh then
        { s.updTakeBody t fun b => { b with seq := some s.readiness } with readiness := s.readiness + 1 }
      else s
    { s1 with ready := s1.insertByKey t s1.ready }

/-- A take leaves the ready queue, keeping its sequence (R74, R76). -/
def leaveQueue (s : State) (t : Nat) : State := { s with ready := s.ready.filter fun q => q != t }

/-- A job's queued takes re-placed under its class and due minute, each with its sequence (R17). -/
def replaceQueued (s : State) (j : Nat) : State :=
  let mine : Nat → Bool := fun t => match (s.take t).body with | some b => b.job.idx == j | none => false
  let moved := s.ready.filter mine
  moved.foldl (fun t i => { t with ready := t.insertByKey i t.ready }) { s with ready := s.ready.filter fun t => !mine t }

/-! ### Take records (R71, R77 to R81) -/

/-- The lowest-numbered free take record taken (R71). -/
def newTake (s : State) (b : TakeBody) : State × Nat :=
  let i := s.lowestFreeTake
  ({ s.setTake i { s.take i with body := some b } with takeFree := s.takeFree - 1 }, i)

/-- A take record freed: it leaves the queue, its issue rises by one and its fields are cleared (R71). -/
def freeTake (s : State) (i : Nat) : State :=
  let s' := s.leaveQueue i
  { s'.setTake i { issue := (s'.take i).issue + 1, body := none } with takeFree := s'.takeFree + 1 }

/-- The job's first take, OPEN, queued when the job's follow-behind flag is set (R77). -/
def firstTake (s : State) (j : Nat) : State :=
  let (s1, i) := s.newTake { job := s.jobRef j }
  let s2 := s1.updJob j fun x => { x with takeHead := some (s1.takeRef i), takeCount := 1 }
  if (s2.job j).follow then s2.enterQueue i else s2

/-- The last take closed at the present length: OPEN becomes READY and stands in the queue, FOLLOWING becomes CLAIMED
(R78, step 2; R79). -/
def closeTake (s : State) (t : Nat) : State :=
  match (s.take t).body with
  | none => s
  | some b =>
    match b.state with
    | .opened => (s.updTakeBody t fun b => { b with state := .ready }).enterQueue t
    | .following => s.updTakeBody t fun b => { b with state := .claimed }
    | .ready | .claimed | .returned => s

/-- A new OPEN or READY take with a start boundary linked directly after a take; the take count rises by one (R78, R80). -/
def linkNewTake (s : State) (j prev : Nat) (b : TakeBody) : State × Nat :=
  let (s1, n) := s.newTake b
  let s2 := s1.updTakeBody prev fun x => { x with next := some (s1.takeRef n) }
  (s2.updJob j fun x => { x with takeCount := x.takeCount + 1 }, n)

/-- A TAKE cue at the capture head: the last take is closed and a new OPEN take begins at the cue (R78). -/
def headTake (s : State) (j cue : Nat) : State :=
  match s.lastTake j with
  | none => s
  | some (l, _) =>
    let (s1, n) := s.linkNewTake j l { job := s.jobRef j, start := some (s.cueRef cue) }
    let s2 := s1.closeTake l
    if (s2.job j).follow then s2.enterQueue n else s2

/-- A TAKE cue inside a READY or OPEN take divides it: the earlier part keeps the record, the later part is a new take that
begins at the cue (R80). -/
def splitTake (s : State) (j c cue : Nat) : State :=
  match (s.take c).body with
  | none => s
  | some b =>
    let (s1, n) := s.linkNewTake j c { job := b.job, start := some (s.cueRef cue), next := b.next, state := b.state }
    let frames := s1.cuePos cue - s1.takeStart b
    let s2 := s1.updTakeBody c fun x =>
      { x with resume := match x.resume with | some p => if frames ≤ p / 64 then none else some p | none => none }
    match b.state with
    | .opened =>
      let s3 := s2.closeTake c
      if (s3.job j).follow then s3.enterQueue n else s3
    | .ready => s2.enterQueue n
    | .following | .claimed | .returned => s2

/-- The two takes a TAKE cue divides: the one that ends at it and the one it starts (R63). -/
def takesAround (s : State) (j cue : Nat) : Option ((Nat × TakeBody) × (Nat × TakeBody)) :=
  let ts := s.jobTakes j
  (ts.zip ts.tail).find? fun p => decide (p.2.2.start = some (s.cueRef cue))

/-- Removal of a TAKE cue merges the later take into the earlier (R81). -/
def mergeTakes (s : State) (j e f : Nat) : State :=
  match (s.take f).body with
  | none => s
  | some fb =>
    let s1 := (s.leaveQueue f).updTakeBody e fun b => { b with next := fb.next }
    let s2 := (s1.updJob j fun x => { x with takeCount := x.takeCount - 1 }).freeTake f
    match fb.state with
    | .opened =>
      let s3 := s2.updTakeBody e fun b => { b with state := .opened }
      if (s3.job j).follow then s3 else s3.leaveQueue e
    | .following | .ready | .claimed | .returned => s2

/-! ### Claims (R82 to R85) -/

/-- A take given to a typist: it leaves the queue, READY becomes CLAIMED and OPEN becomes FOLLOWING, the typist number is
set and the hold count rises by one (R83, steps 1 to 3; R85). -/
def giveTake (s : State) (t person : Nat) : State :=
  let s1 := (s.leaveQueue t).updTakeBody t fun b =>
    { b with typist := some person, state := if b.state = .opened then .following else .claimed }
  s1.setHold person (s1.hold person + 1)

/-- A class lies in an eligibility set (R83). -/
def eligible (elig : BitVec 3) (c : Cls) : Bool := elig.getLsbD c.code

/-- The first take of the ready queue whose job's class lies in an eligibility set (R83). -/
def firstEligible (s : State) (elig : BitVec 3) : Option Nat :=
  s.ready.find? fun t =>
    match (s.take t).body with
    | some b => eligible elig (s.job b.job.idx).cls
    | none => false

/-! ### Stopping the channels that have a take loaded (R79, R88, R146) -/

/-- A take's resume position written (R73). -/
def writeResume (s : State) (t : Ref) (pos : Nat) : State := s.updTakeBody t.idx fun b => { b with resume := some pos }

/-- One channel stopped with cause REVOKED when it has the take loaded; a revoke writes the resume position (R88, R146). -/
def revokeOn (t : Ref) (resume : Bool) (s : State) (ch : Nat) : State :=
  match s.playOf ch with
  | none => s
  | some p =>
    if p.take = t then
      let s1 := if resume then s.writeResume t p.pos else s
      (s1.stopStream ch).placeNotice
        { chan := ch, cause := .revoked, action := .stopped, job := p.job, take := some t, pos := p.pos } true
    else s

/-- Every play channel that has a take loaded stops with cause REVOKED (R79, R88, R146). -/
def revokeLoaded (s : State) (t : Ref) (resume : Bool) : State := (List.range 16).foldl (revokeOn t resume) s

/-- Any play channel has a take loaded (R87). -/
def anyLoaded (s : State) (t : Ref) : Bool := (List.range 16).any fun ch => (s.chan ch).loaded == some t

/-- The typist of a FOLLOWING take that is deleted: its hold count falls, and channels that have the take loaded stop (R79,
step 2). -/
def freeHolder (s : State) (l : Nat) (b : TakeBody) : State :=
  match b.state, b.typist with
  | .following, some p => (s.setHold p (s.hold p - 1)).revokeLoaded (s.takeRef l) false
  | _, _ => s

/-- A job's last take unlinked; the take count falls by one (R79, step 3). -/
def unlinkLast (s : State) (j l : Nat) : State :=
  let s1 := match ((s.jobTakes j).find? fun t => decide (t.2.next = some (s.takeRef l))).map Prod.fst with
    | some p => s.updTakeBody p fun x => { x with next := none }
    | none => s.updJob j fun x => { x with takeHead := none }
  s1.updJob j fun x => { x with takeCount := x.takeCount - 1 }

/-- The TAKE cue of a deleted take freed (R79, step 4). -/
def freeStart (s : State) (b : TakeBody) : State :=
  match b.start with
  | some c => (s.unlinkCue c.idx).freeCue c.idx
  | none => s

/-- CLOSE DICTATION closes a job's last take with no new take, or deletes it with its TAKE cue when it has no frames
(R79). -/
def closeLastTake (s : State) (j : Nat) : State :=
  match s.lastTake j with
  | none => s
  | some (l, b) =>
    if 0 < s.takeFrames b then s.closeTake l
    else ((((s.leaveQueue l).freeHolder l b).unlinkLast j l).freeStart b).freeTake l

/-- Every take of a job is RETURNED (R13, R91). -/
def allReturned (s : State) (j : Nat) : Bool := (s.jobTakes j).all fun t => decide (t.2.state = .returned)

end State
end Sys2Proof.Machine
end

