-- ==== Sys2Proof/Machine/CaptureOps.lean ====
section
/-! DEFINITION. Shared operations of capture: the ends of a capture (R42, R128), the tail extent and destinations (R35),
re-destining after a check (R41, R111), the placement of a written frame (R36 to R40), and the count END with its chain
(R126). -/

namespace Sys2Proof.Machine
namespace State

/-! ### Ends of a capture (R42, R128) -/

/-- A capture, or a parked capture with its read-back, ends: its in-flight list is emptied, its claims leave, the channel
becomes IDLE, and the job's attached capture channel is cleared. A LIVE job becomes SET-ASIDE (R128). A read-back already
SUSPENDED becomes IDLE too, with its second notice kept (assumption 50). -/
def endCapture (s : State) (ch : Nat) : State :=
  match s.captureFields ch with
  | none => s
  | some (job, _) =>
    (((s.withdraw ch).setPlacement ch {}).updChan ch Channel.idled).updJob job.idx fun j =>
      { j with chan := none, state := if j.state = .live then .setAside else j.state }

/-- The notice of a capture at its capture point, as the channel stands (R118). -/
def captureNotice (s : State) (ch : Nat) (job : Ref) (point : Anchor) (cause : Cause) (action : Action) : Notice :=
  { chan := ch, cause := cause, action := action, job := job, pos := s.anchorPos job.idx point * 64 }

/-- A capture ends abnormally: STORE-FULL, SEGMENT-FULL or FRAME-TIMEOUT, with its channel notice and CAPTURE-ENDED
(R117, R128). -/
def abnormalEnd (s : State) (ch : Nat) (cause : Cause) : State :=
  match s.captureFields ch with
  | none => s
  | some (job, ctx) =>
    let n := s.captureNotice ch job ctx.point cause .stopped
    ((s.endCapture ch).placeNotice n false).raise (.captureEnded job cause)

/-! ### Destinations (R35) -/

/-- A job drops its tail extent (R15, R28). -/
def dropTail (s : State) (j : Nat) : State :=
  match (s.job j).tail with
  | none => s
  | some t => (s.updJob j fun x => { x with tail := none }).refDown t.extent

/-- A job drops its tail extent when it is this extent (R41, R110, R111). -/
def dropTailIf (s : State) (j extent : Nat) : State :=
  match (s.job j).tail with
  | none => s
  | some t => if t.extent = extent then s.dropTail j else s

/-- A full tail extent is dropped (R35). -/
def dropFullTail (s : State) (j : Nat) : State :=
  match (s.job j).tail with
  | some t => if Config.extentFrames ≤ t.fill then s.dropTail j else s
  | none => s

/-- A fill point reserved in the job's tail extent, which is allocated when the job has none; no destination is STORE-FULL
(R35). -/
def reserveFill (s : State) (j : Nat) : State × Option (Nat × Nat) :=
  match (s.job j).tail with
  | some t => (s.updJob j fun x => { x with tail := some { t with fill := t.fill + 1 } }, some (t.extent, t.fill))
  | none =>
    match s.allocate with
    | none => (s, none)
    | some (e, s1) => (s1.updJob j fun x => { x with tail := some { extent := e, fill := 1 } }, some (e, 0))

/-- The tail extent steps of R35; a tail dropped on the way stays dropped. -/
def newDest (s : State) (j : Nat) : State × Option (Nat × Nat) := (s.dropFullTail j).reserveFill j

/-- The entries of an in-flight list that will raise the length (R35). -/
def raising (es : List Entry) : Nat := es.countP fun e => decide (e.mode ≠ .overwrite)

/-- The placement a frame is given at arrival: the capture mode, INSERT only while the capture point is an anchor (R35,
R37). -/
def arrivalMode (ctx : CapCtx) : CapMode :=
  match ctx.mode, ctx.point with
  | .insert, .jobEnd => .append
  | m, _ => m

/-- A frame that a RUNNING capture presents: discarded when the list holds 4 entries, otherwise given a destination and a
write claim, or the capture ends STORE-FULL (R34, R35, R123). -/
def presentFrame (s : State) (ch : Nat) (c : Capture) (data : Frame) : State :=
  let es := (s.placement ch).inflight
  let mode := arrivalMode c.ctx
  if Config.inFlightLimit ≤ es.length then s
  else if mode ≠ .overwrite ∧ Config.maxLength ≤ (s.job c.job.idx).length + raising es then
    s.abnormalEnd ch .storeFull
  else
    match s.newDest c.job.idx with
    | (s1, none) => s1.abnormalEnd ch .storeFull
    | (s1, some (e, f)) =>
      (s1.updPlacement ch fun p =>
        { p with inflight := p.inflight ++ [{ extent := e, frame := f, mode := mode, data := data }] }).makeClaim
        { extent := e, frame := f, use := .capture ch c.job data }

/-! ### Re-destining (R41, R111) -/

/-- The entries of a list that are destined for an extent given new destinations in list order, each back to WRITING with
a new claim; the first that finds no extent ends the capture STORE-FULL. `kept` holds, last first, the entries before. -/
def redestine (ch : Nat) (job : Ref) (extent : Nat) : List Entry → List Entry → State → State
  | kept, [], s => s.updPlacement ch fun p => { p with inflight := kept.reverse }
  | kept, e :: rest, s =>
    if e.extent = extent then
      match (s.withdrawWrite ch e.extent e.frame).newDest job.idx with
      | (s1, none) => s1.abnormalEnd ch .storeFull
      | (s1, some (x, f)) =>
        redestine ch job extent ({ e with extent := x, frame := f, status := .writing } :: kept) rest
          (s1.makeClaim { extent := x, frame := f, use := .capture ch job e.data })
    else redestine ch job extent (e :: kept) rest s

/-- A capture write that ended in a check while its capture goes on: the failed entry and those behind it that are destined
for its extent are re-destined (R41). -/
def redestineFailed (s : State) (ch : Nat) (job : Ref) (extent frame : Nat) : State :=
  let other : Entry → Bool := fun e => !(e.extent == extent && e.frame == frame)
  let es := (s.placement ch).inflight
  redestine ch job extent (es.takeWhile other).reverse (es.dropWhile other) s

/-- The job that has an extent as its tail (R15). -/
def tailOwner (s : State) (extent : Nat) : Option Nat :=
  (s.jobs.find? fun p => match p.2.tail with | some t => t.extent == extent | none => false).map Prod.fst

/-- An extent that has become DAMAGED stops being a job's tail extent: the job whose tail it is drops it, and the entries of
the job's in-flight list that are destined for it are re-destined (R111, R41). -/
def loseTail (s : State) (extent : Nat) : State :=
  match s.tailOwner extent with
  | none => s
  | some j =>
    let s1 := s.dropTail j
    match (s1.job j).chan with
    | none => s1
    | some ch => redestine ch (s1.jobRef j) extent [] (s1.placement ch).inflight s1

/-- A READ that completed with an uncorrectable check: the extent becomes DAMAGED with STORE-ERROR, unless it already was,
and stops being a tail extent (R109, R111). -/
def damageByRead (s : State) (extent : Nat) : State :=
  if (s.ext extent).state = .damaged then s
  else ((s.markDamaged extent).raise (.storeError extent .read)).loseTail extent

/-! ### TAKE cues at the capture head (R59, R61, R126) -/

/-- The last take of a job has no placed frames (R59). -/
def emptyHead (s : State) (j : Nat) : Bool :=
  match s.lastTake j with
  | some (_, t) => decide ((s.job j).length = 0) || decide (s.takeFrames t = 0)
  | none => true

/-- The Cue Table's answer to a TAKE cue at the capture head: EMPTY-TAKE, CUE-FULL, TAKE-FULL, or none (R57, R59, R61). -/
def headRefusal (s : State) (j : Nat) : Option ReplyCode :=
  firstFailing [(s.emptyHead j, .emptyTake), (decide (s.cueFree = 0), .cueFull), (decide (s.takeFree = 0), .takeFull)]

/-- A TAKE cue placed at the capture head and the take change it makes (R58, R59, R78). -/
def placeHeadTake (s : State) (j : Nat) (label : BitVec 16) (placer : Placer) : State × Nat :=
  let (s1, i) := s.addCue j .take label .jobEnd placer
  (s1.headTake j i, i)

/-! ### Count END (R126) -/

/-- The capture fields of a channel's capture changed. -/
def updCapture (s : State) (ch : Nat) (f : Capture → Capture) : State :=
  match s.captureOf ch with
  | none => s
  | some c => s.updChan ch fun x => { x with stream := .capture (f c) }

/-- The chain of a count END: a TAKE cue at the capture head, with CHAIN-ABORT clear; or no change but CHAIN-ABORT set
(R126, step 1). The cue's label is a free value (assumption 13). -/
def tryChain (s : State) (ch : Nat) (c : Capture) : State × Bool :=
  if c.ctx.mode ≠ .append ∨ (s.headRefusal c.job.idx).isSome then
    (s.updChan ch fun x => { x with chainAbort := true }, false)
  else
    let label := Config.freeLabel s.freeCount
    let s1 := { s with freeCount := s.freeCount + 1 }
    let (s2, _) := s1.placeHeadTake c.job.idx label (.reporter (s.job c.job.idx).reporter)
    (s2.updChan ch fun x => { x with chainAbort := false }, true)

/-- CHAIN tried when it is enabled (R126, step 1). -/
def chainStep (s : State) (ch : Nat) (c : Capture) (m : Matrix) : State × Bool :=
  if m.endChain then s.tryChain ch c else (s, false)

/-- RELOAD when it is enabled (R126, step 2). -/
def reloadStep (s : State) (ch : Nat) (m : Matrix) : State :=
  if m.endReload then s.updCapture ch fun c => { c with ctx := { c.ctx with remaining := c.ctx.base } } else s

/-- With neither enabled, PAUSED with NO-CONTINUATION set (R126, step 3). -/
def stopStep (s : State) (ch : Nat) (m : Matrix) : State :=
  if !m.endReload && !m.endChain then
    (s.updCapture ch fun c => { c with running := false, counter := 0 }).updChan ch fun x =>
      { x with noContinuation := true }
  else s

/-- The notice of a count END (R126). -/
def countNotice (s : State) (ch : Nat) (c : Capture) (m : Matrix) (made : Bool) : State :=
  let notice := fun cause action => s.placeNotice (s.captureNotice ch c.job c.ctx.point cause action) false
  if m.endChain && !made then notice .chainAbort (if m.endReload then .reloaded else .continued)
  else if m.endNotify then notice .ended (if made then .chained else if m.endReload then .reloaded else .stopped)
  else s

/-- END raised for a capture whose remaining count has reached 0 (R126). -/
def countEnd (s : State) (ch : Nat) : State :=
  match s.captureOf ch with
  | none => s
  | some c =>
    let m := (s.chan ch).matrix
    let q := s.chainStep ch c m
    ((q.1.reloadStep ch m).stopStep ch m).countNotice ch c m q.2

/-- A frame has been placed: a remaining count above 0 falls by one, and END is raised as it reaches 0 (R126). -/
def countPlaced (s : State) (ch : Nat) : State :=
  match s.captureOf ch with
  | none => s
  | some c =>
    if c.ctx.remaining = 0 then s
    else
      let s1 := s.updCapture ch fun c => { c with ctx := { c.ctx with remaining := c.ctx.remaining - 1 } }
      if c.ctx.remaining = 1 then s1.countEnd ch else s1

/-! ### Placement (R36 to R40) -/

/-- A frame placed at the end of the job (R36); none is SEGMENT-FULL. -/
def placeAppend (s : State) (c : Capture) (e : Entry) : Option State :=
  let j := c.job.idx
  match s.joinFrame j ((s.jobSegs j).getLast?.map Prod.fst) e.extent e.frame c.ctx.sealClass with
  | none => none
  | some (s1, a) => some ((s1.moveEndCues j a).refreshParts j)

/-- A frame placed before the capture point's segment (R37); none is SEGMENT-FULL. -/
def placeInsert (s : State) (c : Capture) (q : Ref) (e : Entry) : Option (State × Anchor) :=
  let j := c.job.idx
  s.joinFrame j (segBefore (s.jobSegs j) q.idx) e.extent e.frame c.ctx.sealClass

/-- A segment of no frames unlinked: the segment before it takes its next segment, or the job's list head does (R38). -/
def unlinkSeg (s : State) (j i : Nat) : State :=
  match (s.seg i).body with
  | none => s
  | some b =>
    match segBefore (s.jobSegs j) i with
    | some p => s.updSegBody p fun x => { x with next := b.next }
    | none => s.updJob j fun x => { x with segHead := b.next }

end State

/-- Anchors on the dropped first frame of a segment become `moved`, and higher ones fall by one (R31, R38). -/
def dropAnchor (i : Nat) (moved : Anchor) : Anchor → Anchor
  | .frame r k => if r.idx = i then (if k = 0 then moved else .frame r (k - 1)) else .frame r k
  | .jobEnd => .jobEnd

namespace State

/-- Cues anchored at the overwritten frame re-linked after the last cue already at or before the run start (R54). -/
def relinkMoved (s : State) (j : Nat) (dropped runStart : Anchor) (t : State) : State :=
  let cues := s.jobCues j
  let runPos := s.anchorPos j runStart
  let isMoved : Nat × CueBody → Bool := fun c => decide (c.2.anchor = dropped)
  let isBefore : Nat × CueBody → Bool := fun c => decide (s.anchorPos j c.2.anchor ≤ runPos) && !isMoved c
  let isAfter : Nat × CueBody → Bool := fun c => !isMoved c && !isBefore c
  t.orderCues j (((cues.filter isBefore) ++ (cues.filter isMoved) ++ (cues.filter isAfter)).map Prod.fst)

/-- Steps 2 and 3 of R38: the first frame of the overwritten segment is dropped, and the cues anchored at it move to the
run start. -/
def dropFirst (s : State) (j : Nat) (q : Ref) (run : Anchor) : State :=
  s.relinkMoved j (.frame q 0) run
    (((s.updSegBody q.idx fun b => { b with first := b.first + 1, count := b.count - 1 }).updJob j fun x =>
      { x with length := x.length - 1 }).mapCueAnchors (dropAnchor q.idx run))

/-- Step 4 of R38: an overwritten segment of no frames is unlinked and freed, and points on it move to the first frame of
the following segment, or to END. -/
def retireEmpty (s : State) (j : Nat) (q : Ref) : State :=
  match (s.seg q.idx).body with
  | none => s
  | some b =>
    if b.count = 0 then
      let after : Anchor := match b.next with | some r => .frame r 0 | none => .jobEnd
      ((s.unlinkSeg j q.idx).freeSeg q.idx).mapPoints fun x =>
        match x with
        | .frame r k => if r = q then after else .frame r k
        | .jobEnd => .jobEnd
    else s

/-- A frame placed over the frame at the capture point (R38); none is SEGMENT-FULL. -/
def placeOverwrite (s : State) (ch : Nat) (c : Capture) (q : Ref) (e : Entry) : Option State :=
  let j := c.job.idx
  match s.placeInsert c q e with
  | none => none
  | some (s1, a) =>
    let run := (s1.placement ch).runStart.getD a
    let s2 := s1.updPlacement ch fun p => { p with runStart := some run }
    some (((s2.dropFirst j q run).retireEmpty j q).refreshParts j)

/-- A frozen placement: the list is discarded, waiting claims leave, and the capture becomes PAUSED in APPEND at END, with
its notice (R40). -/
def frozenPlacement (s : State) (ch : Nat) (c : Capture) : State :=
  let n := s.captureNotice ch c.job c.ctx.point .halt .stopped
  let s1 := ((s.withdraw ch).setPlacement ch {}).updCapture ch fun c =>
    { c with running := false, counter := 0, ctx := { c.ctx with mode := .append, point := .jobEnd } }
  s1.placeNotice n false

/-- The capture mode that an OVERWRITE placement changes to: APPEND at END, INSERT where a TAKE cue stands (R39). -/
def overwriteTurns (s : State) (c : Capture) : Option CapMode :=
  match c.ctx.point with
  | .jobEnd => some .append
  | .frame .. => if s.takeCueAt c.job.idx c.ctx.point then some .insert else none

/-- The overwrite changes: the capture mode, the later in-flight entries given OVERWRITE, the run start, and for INSERT the
notice ENTERED-INSERT (R39). -/
def turnOverwrite (s : State) (ch : Nat) (c : Capture) (m : CapMode) : State :=
  let turn : Entry → Entry := fun e => if e.mode = .overwrite then { e with mode := m, changed := true } else e
  let s1 := (s.updPlacement ch fun p => { inflight := p.inflight.map turn, runStart := none }).updCapture ch fun c =>
    { c with ctx := { c.ctx with mode := m } }
  if m = .insert then s1.placeNotice (s1.captureNotice ch c.job c.ctx.point .enteredInsert .continued) false else s1

/-- A placed frame, or the end SEGMENT-FULL (R36), followed by the count (R126). -/
def settle (s : State) (ch : Nat) : Option State → State
  | none => s.abnormalEnd ch .segmentFull
  | some t => t.countPlaced ch

/-- A frame placed by its placement: an INSERT or OVERWRITE first meets the editable test (R36 to R40). `e` has left the
list. -/
def placeAs (s : State) (ch : Nat) (c : Capture) (e : Entry) : State :=
  match e.mode, c.ctx.point with
  | .append, _ => s.settle ch (s.placeAppend c e)
  | .insert, .jobEnd => s.settle ch (s.placeAppend c e)
  | .overwrite, .jobEnd => s.settle ch (s.placeAppend c e)
  | .insert, .frame q _ =>
    if s.editable c.job.idx (s.anchorPos c.job.idx c.ctx.point) then
      s.settle ch ((s.placeInsert c q e).map Prod.fst)
    else s.frozenPlacement ch c
  | .overwrite, .frame q _ =>
    if s.editable c.job.idx (s.anchorPos c.job.idx c.ctx.point) then s.settle ch (s.placeOverwrite ch c q e)
    else s.frozenPlacement ch c

/-- The change of an overwrite applied, when there is one (R39). -/
def applyTurn (s : State) (ch : Nat) (c : Capture) : Option CapMode → State
  | some m => s.turnOverwrite ch c m
  | none => s

end State

/-- An entry whose overwrite has changed (R39). -/
def turnedEntry (e : Entry) : Option CapMode → Entry
  | some m => { e with mode := m, changed := true }
  | none => e

/-- A capture whose overwrite has changed (R39). -/
def turnedCapture (c : Capture) : Option CapMode → Capture
  | some m => { c with ctx := { c.ctx with mode := m } }
  | none => c

namespace State

/-- The head entry of a placement record, WRITTEN, placed: R39 first, then the length limit for an entry it changed, then
the placement (R34, R39; assumption 17). -/
def placeHead (s : State) (ch : Nat) (e : Entry) : State :=
  match s.captureOf ch with
  | none => s
  | some c =>
    let turns := if e.mode = .overwrite then s.overwriteTurns c else none
    let s1 := (s.updPlacement ch fun p => { p with inflight := p.inflight.tail }).applyTurn ch c turns
    if (turnedEntry e turns).changed && decide (Config.maxLength ≤ (s1.job c.job.idx).length) then
      s1.abnormalEnd ch .storeFull
    else s1.placeAs ch (turnedCapture c turns) (turnedEntry e turns)

/-- The entries at the head of a list that are WRITTEN placed one after another (R34). The number bounds the list. -/
def placeHeads (ch : Nat) : Nat → State → State
  | 0, s => s
  | n + 1, s =>
    match (s.placement ch).inflight with
    | e :: _ => if e.status = .written then placeHeads ch n (s.placeHead ch e) else s
    | [] => s

/-- The entry of a completed write marked WRITTEN. -/
def markWritten (s : State) (ch extent frame : Nat) : State :=
  s.updPlacement ch fun p =>
    { p with inflight := p.inflight.map fun e =>
        if e.extent = extent ∧ e.frame = frame then { e with status := .written } else e }

/-! ### Taking a channel into capture -/

/-- A channel takes up a capture, PAUSED in APPEND at the capture head (R7, R9). -/
def startCapture (s : State) (ch : Nat) (job : Ref) : State :=
  (s.updChan ch fun c => { c with stream := .capture { job := job } }).setPlacement ch {}

end State
end Sys2Proof.Machine
end

