-- ==== Sys2Proof/Machine/PlayOps.lean ====
section
/-! DEFINITION. Shared operations of play: the choice of a profile and a frame (R138, R153 to R156), the steps of a frame
sent (R139), MATCH (R140), END with its chain (R141), FOLLOW-WAIT (R142), positioning (R137), read-back (R130, R131), and
the ends of play and export streams (R146, R151). -/

namespace Sys2Proof.Machine
namespace State

/-! ### Fields of a play -/

/-- The fields of a channel's typist play changed. -/
def updPlay (s : State) (ch : Nat) (f : Play → Play) : State :=
  match s.playOf ch with
  | none => s
  | some p => s.updChan ch fun c => { c with stream := .play (f p) }

/-- The fields of a channel's read-back changed. -/
def updReadback (s : State) (ch : Nat) (f : Readback → Readback) : State :=
  match s.readbackOf ch with
  | none => s
  | some r => s.updChan ch fun c => { c with stream := .readback (f r) }

/-- The state of a take; none for a reference that is not current. -/
def takeState (s : State) (t : Ref) : Option TakeState :=
  if s.takeCurrent t then (s.take t.idx).body.map fun b => b.state else none

/-- A notice of a typist play at its present position (R118). -/
def playNotice (ch : Nat) (p : Play) (cause : Cause) (action : Action) (cue : Option Ref := none) : Notice :=
  { chan := ch, cause := cause, action := action, job := p.job, take := some p.take, pos := p.pos, cue := cue }

/-! ### Profiles (R153) -/

/-- The profile for the frame at an integer take position (R153). -/
def profileAt (s : State) (ch : Nat) (p : Play) (i : Nat) : ProfId :=
  let c := s.chan ch
  if c.mode = 1 then .b
  else if c.mode = 2 then
    if i < s.playFrames p then
      match s.locate p.job.idx (s.playStart p + i) with
      | some (_, b, _) => if s.overClearance ch b then .b else .a
      | none => .a
    else .a
  else if c.mode = 3 then
    if c.winStart ≤ i ∧ i < c.winEnd then .b else .a
  else .a

/-- The profile of a read-back: B in mode 1, otherwise A (R153). -/
def readbackProfile (s : State) (ch : Nat) : ProfId := if (s.chan ch).mode = 1 then .b else .a

/-- A profile selected becomes the active profile (R152). -/
def setActive (s : State) (ch : Nat) (prof : ProfId) : State := s.updChan ch fun c => { c with active := prof }

/-- A boundary crossing on a channel (R159). -/
def crossOn (s : State) (ch : Nat) : State := s.updChan ch Channel.cross

/-- The rate in force for a frame sent (R157). -/
def rateOf (s : State) (ch : Nat) (prof : ProfId) (pace : Option Nat) : Nat :=
  let copy := (s.chan ch).activeCopy prof
  if copy.pace then pace.getD copy.rate else copy.rate

/-! ### Positioning and the backstep (R135 to R137) -/

/-- The position of a typist play set by a positioning request: a read outstanding is discarded, NO-CONTINUATION and the
matched cue are cleared, and the segment of the last frame sent is cleared (R137, R158). -/
def setPosition (s : State) (ch pos : Nat) : State :=
  ((s.withdraw ch).updPlay ch fun p => { p with pos := pos, read := none, matched := none, lastSeg := none }).updChan ch
    fun c => { c with noContinuation := false }

/-- The backstep of a PLAY press or request: by the active profile that applies at the position before the step; the
matched cue is kept (R135, R153, R158). -/
def backstep (s : State) (ch : Nat) (p : Play) : State :=
  let prof := s.profileAt ch p (p.pos / 64)
  let back := ((s.chan ch).activeCopy prof).backstep
  (s.setActive ch prof).updPlay ch fun p => { p with pos := p.pos - back * 64, lastSeg := none }

/-- Play started: a shuttle held ends, the backstep follows, and the channel is RUNNING (R135). -/
def startPlay (s : State) (ch : Nat) (p : Play) : State :=
  (s.backstep ch p).updPlay ch fun p => { p with run := .running, shuttle := .none }

/-- Play paused where it stands: a read outstanding is discarded (R135). -/
def pausePlay (s : State) (ch : Nat) : State :=
  (s.withdraw ch).updPlay ch fun p => { p with run := .paused, read := none }

/-- The state after JUMP, RETURN or a PLAY SETUP that selects the take position: FOLLOW-WAIT becomes RUNNING, and a shuttle
ends (R143, R147). -/
def afterJump (s : State) (ch : Nat) : State :=
  s.updPlay ch fun p => { p with run := if p.run = .followWait then .running else p.run, shuttle := .none }

/-- A position moved by a number of frames, within take position 0 and the frame count (R136). -/
def movedPos (s : State) (p : Play) (dir : Shuttle) (frames : Nat) : Nat :=
  match dir with
  | .rewind => p.pos - frames * 64
  | .forward => min (p.pos + frames * 64) (s.playFrames p * 64)
  | .none => p.pos

/-! ### END of typist play (R141, R142) -/

/-- The take fed to a channel on END with CHAIN: the claim of R83 for the typist bound to the link; none is EMPTY or LIMIT
(R84). -/
def feedClaim (s : State) (ch : Nat) : Option (State × Nat) :=
  let l := s.link ch
  if Config.holdLimit ≤ s.hold l.person then none
  else
    match s.firstEligible l.elig with
    | none => none
    | some t => some (s.giveTake t l.person, t)

/-- A take loaded by a chain: at its resume position or at 0, with the remaining count at the base count (R141). -/
def chainInto (s : State) (ch : Nat) (p : Play) (t : Nat) : State :=
  match (s.take t).body with
  | none => s
  | some b =>
    (s.updPlay ch fun q =>
      { q with job := b.job, take := s.takeRef t, pos := b.resume.getD 0, base := 0, remaining := p.baseCount, stack := []
               matched := none, lastSeg := none, read := none, run := .running }).updChan ch fun c =>
      { c with chainAbort := false }

/-- The chain of END, made or not tried or failed (R141, step 1). -/
def tryFeed (s : State) (ch : Nat) (m : Matrix) : Option (State × Nat) := if m.endChain then s.feedClaim ch else none

/-- END with a chain made: the finished take keeps its resume position, the new one is loaded (R141). -/
def endChained (s : State) (ch : Nat) (p : Play) (t : Nat) (m : Matrix) : State :=
  let s1 := (s.writeResume p.take p.pos).chainInto ch p t
  if m.endNotify then s1.placeNotice (playNotice ch p .ended .chained) true else s1

end State

/-- A play after END with no chain made: RELOAD, or PAUSED where it stands (R141, steps 2 and 3). -/
def Play.afterEnd (p : Play) (m : Matrix) : Play :=
  if m.endReload then { p with pos := p.base * 64, remaining := p.baseCount, lastSeg := none, run := .running }
  else { p with run := .paused }

namespace State

/-- END with no chain made: CHAIN-ABORT when one was tried, RELOAD or PAUSED with NO-CONTINUATION, and the notice (R141). -/
def endUnchained (s : State) (ch : Nat) (p : Play) (m : Matrix) : State :=
  let s1 := (s.updPlay ch fun _ => p.afterEnd m).updChan ch fun c =>
    { c with chainAbort := c.chainAbort || m.endChain, noContinuation := c.noContinuation || !m.endReload }
  let action : Action := if m.endReload then .reloaded else .stopped
  if m.endChain then s1.placeNotice (playNotice ch (p.afterEnd m) .chainAbort action) true
  else if m.endNotify then s1.placeNotice (playNotice ch (p.afterEnd m) .ended action) true
  else s1

/-- END raised for a typist play channel: CHAIN, then RELOAD, then PAUSED with NO-CONTINUATION, with the notice of the
outcome (R141). -/
def raiseEnd (s : State) (ch : Nat) : State :=
  match s.playOf ch with
  | none => s
  | some p =>
    let m := (s.chan ch).matrix
    match s.tryFeed ch m with
    | some (s1, t) => s1.endChained ch p t m
    | none => s.endUnchained ch p m

/-- A position that has reached the take's frame count: a CLAIMED take raises END, a FOLLOWING take enters FOLLOW-WAIT
(R138, R139, R142). -/
def atTakeEnd (s : State) (ch : Nat) : State :=
  match s.playOf ch with
  | none => s
  | some p =>
    match s.takeState p.take with
    | some .claimed => s.raiseEnd ch
    | some .following => s.updPlay ch fun p => { p with run := .followWait }
    | some .opened | some .ready | some .returned | none => s

/-! ### MATCH (R140) -/

/-- A cue lies below an integer take position, or is gone. -/
def matchedPassed (s : State) (start i : Nat) (r : Ref) : Bool :=
  !s.cueCurrent r || decide (s.cuePos r.idx < start + i)

/-- The matched cue cleared once the position lies above it (R140, R156). -/
def clearMatched (s : State) (ch i : Nat) : State :=
  s.updPlay ch fun p =>
    { p with matched := match p.matched with
        | some r => if s.matchedPassed (s.playStart p) i r then none else some r
        | none => none }

/-- The cue that MATCH finds in an advance, with its job position (R140). -/
def matchFound (s : State) (ch : Nat) (p : Play) (iOld iNew : Nat) : Option (Nat × Nat) :=
  let c := s.chan ch
  let start := s.playStart p
  if c.matrix.matchReload || c.matrix.matchChain || c.matrix.matchNotify then
    (s.passage p.job.idx (start + iOld + 1) (min (start + iNew + 1) (start + s.playFrames p)) c.pattern c.mask p.matched).map
      fun x => (x.1, x.2.2)
  else none

/-- The outcome of a MATCH: CHAIN goes on, RELOAD returns to the base position, otherwise the channel stops at the cue
(R140). A CHAIN here leaves CHAIN-ABORT as it stands: it takes no feed (the model's choice, assumption 49). -/
def matchOutcome (s : State) (ch cue cueAt : Nat) (m : Matrix) : State :=
  if m.matchChain then s
  else if m.matchReload then s.updPlay ch fun p => { p with pos := p.base * 64, lastSeg := none }
  else s.updPlay ch fun p =>
    { p with run := .paused, pos := (cueAt - s.playStart p) * 64, matched := some (s.cueRef cue) }

/-- A MATCH taken, with its notice when MATCH NOTIFY is set (R140). -/
def takeMatch (s : State) (ch cue cueAt : Nat) : State :=
  let m := (s.chan ch).matrix
  let s1 := s.matchOutcome ch cue cueAt m
  let action : Action := if m.matchChain then .chained else if m.matchReload then .reloaded else .stopped
  match m.matchNotify, s1.playOf ch with
  | true, some p => s1.placeNotice (playNotice ch p .matched action (some (s.cueRef cue))) true
  | _, _ => s1

/-! ### A frame sent (R139) -/

/-- The segment that holds a job position, as a reference. -/
def segAt (s : State) (j p : Nat) : Option Ref := (s.locate j p).map fun x => s.segRef x.1

/-- Step 4 of R139: a boundary is crossed when the frame at the new position, below the end, lies in another segment than
the frame just sent (R158). -/
def crossAt (s : State) (ch j at_ : Nat) (below : Bool) (sent : Option Ref) : State :=
  if below ∧ s.segAt j at_ ≠ sent then s.crossOn ch else s

/-- Step 5 of R139: MATCH over the frames passed, and the matched cue cleared once passed (R140). -/
def passCues (s : State) (ch : Nat) (p : Play) (iOld iNew : Nat) : State :=
  match s.matchFound ch p iOld iNew with
  | some (c, at_) => (s.clearMatched ch iNew).takeMatch ch c at_
  | none => s.clearMatched ch iNew

/-- Step 6 of R139: END tested when the matrix has not stopped the channel. `hit` says that the remaining count has just
reached 0. -/
def testEnd (s : State) (ch : Nat) (hit : Bool) (n : Nat) : State :=
  match s.playOf ch with
  | none => s
  | some q =>
    if q.run ≠ .running then s
    else if hit then s.raiseEnd ch
    else if n * 64 ≤ q.pos then s.atTakeEnd ch
    else s

/-- Steps 1 to 6 of R139 for a typist play: the frame is sent, the count falls, the position advances, boundaries are
crossed, MATCH and END are tested. -/
def frameSent (s : State) (ch : Nat) (prof : ProfId) (pace : Option Nat) (silent damaged : Bool) (data : Frame) : State :=
  match s.playOf ch with
  | none => s
  | some p =>
    let n := s.playFrames p
    let start := s.playStart p
    let pos := min (p.pos + s.rateOf ch prof pace) (n * 64)
    let sent := s.segAt p.job.idx (start + p.pos / 64)
    let s1 := (s.handOver ch (.frame silent damaged data)).updPlay ch fun p =>
      { p with read := none, remaining := p.remaining - 1, pos := pos, lastSeg := sent }
    let s2 := s1.crossAt ch p.job.idx (start + pos / 64) (decide (pos / 64 < n)) sent
    (s2.passCues ch p (p.pos / 64) (pos / 64)).testEnd ch (decide (p.remaining = 1)) n

/-! ### The frame period (R138, R142, R155, R156) -/

/-- A PLAY read claim for a frame, the read outstanding becoming WAITING with it (R138). -/
def claimRead (s : State) (ch : Nat) (prof : ProfId) (b : SegBody) (off : Nat) : State × Chosen :=
  (s.makeClaim { extent := b.extent, frame := b.first + off, use := .play ch },
    { extent := b.extent, frame := b.first + off, prof := prof, pace := b.pace })

/-- The first segment after a segment whose seal class is within the clearance and whose first frame lies below the take's
end, with the job position of its first frame (R156). -/
def skipTarget (s : State) (ch : Nat) (p : Play) (after : Nat) : Option (SegBody × Nat) :=
  ((withStarts 0 (s.jobSegs p.job.idx)).find? fun x =>
    decide (after < x.2.2) && decide (x.2.2 < s.playStart p + s.playFrames p) && !s.overClearance ch x.2.1).map Prod.snd

/-- SKIP over the over-clearance material at a position (R156). R156 clears the matched cue when the skip lands above it; a
skip that finds no segment does not land, and keeps the matched cue (the model's choice, assumption 45). -/
def skipFrom (s : State) (ch : Nat) (p : Play) (at_ : Nat) : State :=
  match s.skipTarget ch p at_ with
  | none => (s.updPlay ch fun q => { q with pos := s.playFrames p * 64 }).atTakeEnd ch
  | some (b, q) =>
    let i := q - s.playStart p
    let s1 := ((s.updPlay ch fun x => { x with pos := i * 64 }).crossOn ch).clearMatched ch i
    let prof := s1.profileAt ch p i
    let (s2, r) := (s1.setActive ch prof).claimRead ch prof b 0
    s2.updPlay ch fun x => { x with read := some r }

/-- The frame at the integer position of a typist play chosen: a read claimed, a muted frame sent, or a skip (R138, R153 to
R156). `p` is the play as it stands. -/
def choose (s : State) (ch : Nat) (p : Play) : State :=
  let i := p.pos / 64
  let at_ := s.playStart p + i
  match s.locate p.job.idx at_ with
  | none => s
  | some (_, b, off) =>
    let prof := s.profileAt ch p i
    let s1 := s.setActive ch prof
    if s.overClearance ch b then
      match ((s.chan ch).activeCopy prof).sealAct with
      | .mute => s1.frameSent ch prof b.pace true false silentFrame
      | .skip => s1.skipFrom ch p at_
    else
      let (s2, r) := s1.claimRead ch prof b off
      s2.updPlay ch fun x => { x with read := some r }

/-- A crossing found on resuming from FOLLOW-WAIT: the first new frame's segment is not the segment of the last frame sent
(R158). The record kept is the one in which that frame lay at its advance: when a split has moved the frame into a new record
since, a new frame that joins that record is taken to lie in another (assumption 51). -/
def resumeCross (s : State) (ch : Nat) (p : Play) : State :=
  match p.lastSeg, s.segAt p.job.idx (s.playStart p + p.pos / 64) with
  | some a, some b => if a = b then s else s.crossOn ch
  | _, _ => s

/-- One frame period of a typist play channel that is not SUSPENDED: RUNNING, FOLLOW-WAIT, or a shuttle held (R136, R138,
R142). -/
def playPeriod (s : State) (ch : Nat) (p : Play) : State :=
  let n := s.playFrames p
  match p.run with
  | .paused => if p.shuttle = .none then s else s.setPosition ch (s.movedPos p p.shuttle Config.shuttleFrames)
  | .running =>
    if p.read.isSome then s
    else if n ≤ p.pos / 64 then s.atTakeEnd ch
    else s.choose ch p
  | .followWait =>
    match s.takeState p.take with
    | some .claimed => s.raiseEnd ch
    | some .following =>
      if n * 64 ≤ p.pos then s
      else
        let p' := { p with run := .running }
        ((s.updPlay ch fun _ => p').resumeCross ch p').choose ch p'
    | some .opened | some .ready | some .returned | none => s

/-! ### Read-back (R129 to R131) -/

/-- A read-back ended with its capture restored; a SUSPENDED read-back leaves a capture, which is not SUSPENDED (R131). -/
def restoreCapture (s : State) (ch : Nat) (r : Readback) (running : Bool) : State :=
  (s.withdraw ch).updChan ch fun c =>
    { c with stream := .capture { job := r.job, ctx := r.parked, running := running }, suspended := false }

/-- END of a read-back at the job end: the capture is restored, PAUSED, with its notice (R131; assumption 15). RELOAD and
CHAIN are not applied, so NO-CONTINUATION is set (R121; assumption 16). -/
def readbackEnded (s : State) (ch : Nat) (r : Readback) : State :=
  let s1 := (s.restoreCapture ch r false).updChan ch fun c => { c with noContinuation := true }
  if (s1.chan ch).matrix.endNotify then
    s1.placeNotice
      { chan := ch, cause := .ended, action := .stopped, job := r.job, pos := (s.job r.job.idx).length * 64 } false
  else s1

/-- One frame period of a read-back that is not SUSPENDED (R130, R138). -/
def readbackPeriod (s : State) (ch : Nat) (r : Readback) : State :=
  if r.read.isSome then s
  else
    match s.locate r.job.idx (r.pos / 64) with
    | none => s.readbackEnded ch r
    | some (_, b, off) =>
      let prof := s.readbackProfile ch
      let (s1, x) := (s.setActive ch prof).claimRead ch prof b off
      s1.updReadback ch fun r => { r with read := some x }

/-- The steps of R139 for a read-back: no count, no MATCH (R130). -/
def readbackSent (s : State) (ch : Nat) (prof : ProfId) (pace : Option Nat) (damaged : Bool) (data : Frame) : State :=
  match s.readbackOf ch with
  | none => s
  | some r =>
    let j := r.job.idx
    let n := (s.job j).length
    let pos := min (r.pos + s.rateOf ch prof pace) (n * 64)
    let sent := s.segAt j (r.pos / 64)
    let r' := { r with read := none, pos := pos, lastSeg := sent }
    let s1 := (s.handOver ch (.frame damaged damaged data)).updReadback ch fun _ => r'
    let s2 := s1.crossAt ch j (pos / 64) (decide (pos / 64 < n)) sent
    if n * 64 ≤ pos then s2.readbackEnded ch r' else s2

/-! ### Ends of play and export (R146, R151) -/

/-- A typist play stops without a notice, its position written into its take's resume position (R146). -/
def dropPlay (s : State) (ch : Nat) : State :=
  match s.playOf ch with
  | none => s
  | some p => (s.writeResume p.take p.pos).stopStream ch

/-- A notice of an export at its job position (R118). -/
def exportNotice (ch : Nat) (e : Exporting) (cause : Cause) (action : Action) : Notice :=
  { chan := ch, cause := cause, action := action, job := e.job, pos := e.pos * 64 }

/-- An export ends: its claims leave, the channel becomes IDLE and the job's export-busy flag is cleared (R151, R176). -/
def stopExport (s : State) (ch : Nat) : State :=
  match s.exportOf ch with
  | none => s
  | some e => (s.stopStream ch).updJob e.job.idx fun j => { j with exportBusy := false }

/-- An export ended by a cause, with its notice when `notify` (R151). -/
def endExport (s : State) (ch : Nat) (cause : Cause) (notify : Bool) : State :=
  match s.exportOf ch with
  | none => s
  | some e =>
    let s1 := s.stopExport ch
    if notify then s1.placeNotice (exportNotice ch e cause .stopped) true else s1

/-- The END of an export tested: its position has reached the job's length and it has no claim outstanding (R151). -/
def testExportEnd (s : State) (ch : Nat) : State :=
  match s.exportOf ch with
  | none => s
  | some e =>
    if (s.job e.job.idx).length ≤ e.pos ∧ e.outstanding = 0 then
      s.endExport ch .ended (s.chan ch).matrix.endNotify
    else s

/-- The position from which an export claims: under EXCLUDE-SEALED, past segments that carry SEAL (R150). -/
def exportFrom (s : State) (e : Exporting) : Nat :=
  if e.excludeSealed then
    match (withStarts 0 (s.jobSegs e.job.idx)).find? fun x =>
        decide (e.pos < x.2.2 + x.2.1.count) && x.2.1.sealPart.isNone with
    | some (_, _, at_) => max e.pos at_
    | none => (s.job e.job.idx).length
  else e.pos

/-! ### One channel stopped as its link goes DOWN or at WARM RESET (R93, R128, R146) -/

/-- The stream of a channel ended with no notice, and the channel IDLE: a capture ends, a typist play writes its resume
position, an export ends. -/
def quiet (s : State) (ch : Nat) : State :=
  let s1 := match (s.chan ch).stream with
    | .idle => s
    | .capture _ | .readback _ => s.endCapture ch
    | .play _ => s.dropPlay ch
    | .exporting _ => s.stopExport ch
  s1.updChan ch Channel.idled

end State
end Sys2Proof.Machine
end

