-- ==== Sys2Proof/Machine/Jobs.lean ====
section
/-! DEFINITION. The requests of the Job Directory (chapter 1, with the holds and releases of chapter 9): for each, the
checks in their order, the effect once they pass, and the meaning. -/

namespace Sys2Proof.Machine

/-! ### Results -/

/-- A field that is one number of so many bytes. -/
def Item.opt (bytes : Nat) (v : Option Nat) : Option (List Item) := v.map fun x => [.num bytes x]

/-- A reference field that may be absent. -/
def Item.optRef (r : Option Ref) : Option (List Item) := r.map fun x => [.ref x]

/-- The code of a release party in the job record readout (section 12.5). -/
def ReleaseParty.code : ReleaseParty → Nat
  | .reporter => 1 | .console => 2

/-- The code of a sweep phase (section 12.5). -/
def Phase.code : Phase → Nat
  | .segments => 1 | .cues => 2 | .takes => 3

/-- The job record readout (section 12.5). -/
def Job.readout (r : Ref) (j : Job) : Result :=
  { fixed := [.ref r, .num 1 j.state.code, .num 1 (bit j.held + 2 * bit j.follow + 4 * bit j.exportBusy),
      .num 4 j.docket.toNat, .num 1 j.reporter, .num 1 j.cls.code, .num 2 j.due.toNat, .num 3 j.length, .num 2 j.takeCount]
    optional := [Item.optRef j.segHead, j.tail.map fun t => [.num 2 t.extent, .num 2 t.fill], Item.optRef j.firstCue,
      Item.optRef j.takeHead, Item.opt 1 (j.release.map ReleaseParty.code), Item.opt 1 j.chan,
      j.sweep.map fun w => [.num 1 w.phase.code, .num 2 w.freed]] }

/-- The fields of a search key (R20; widths: assumption 20). -/
def keyItems (k : JobKey) : List Item :=
  [.num 4 k.docket.toNat, .num 1 k.reporter.toNat, .num 1 k.cls.toNat, .num 1 k.state.toNat, .num 1 k.held.toNat]

/-! ### Checks that a job reference meets (R2, R6) -/

/-- Checks 3 and 4 of R6 for a job reference. -/
def jobChecks (s : State) (r : Ref) : List (Bool × ReplyCode) :=
  [(decide (Config.jobSlots ≤ r.idx), .range), (!s.jobCurrent r, .stale)]

/-- The checks of a capture start on a link's channel: BUSY, NOTICE-PENDING, UNFORMATTED (R7, R9). -/
def startChecks (s : State) (l person : Nat) : List (Bool × ReplyCode) :=
  [(s.ownsLive person, .busy), (!(s.chan l).isIdle, .busy), ((s.chan l).secondNotice, .noticePending),
    (!s.formatted, .unformatted)]

/-- The checks for room: DIRECTORY-FULL, then TAKE-FULL (R6). -/
def roomChecks (s : State) : List (Bool × ReplyCode) :=
  [(decide (Config.jobSlots ≤ s.lowestVacant), .directoryFull), (decide (s.takeFree = 0), .takeFull)]

/-- A capture channel is RUNNING, or a read-back is in progress on it (R10, R12). -/
def State.captureBusy (s : State) (ch : Option Nat) : Bool :=
  match ch with
  | none => false
  | some c =>
    match (s.chan c).stream with
    | .capture x => x.running
    | .readback _ => true
    | .idle | .play _ | .exporting _ => false

/-! ### Opening and attaching -/

/-- OPEN JOB, taken (R7). -/
def openedJob (s : State) (l person : Nat) (docket : BitVec 32) (cls : Nat) (due : BitVec 16) : Ans :=
  let i := s.lowestVacant
  let s1 := s.setJob i
    { issue := (s.job i).issue, state := .live, docket := docket, reporter := person, cls := clsOf cls, due := due
      chan := some l }
  let s2 := (s1.firstTake i).startCapture l (s1.jobRef i)
  done s2 [.ref (s1.jobRef i)]

/-- OPEN JOB (R7). -/
def execOpenJob (l : Fin 16) (docket : BitVec 32) (cls : Nat) (due : BitVec 16) (s : State) :
    Host.Outcome State Fault Refusal :=
  serve (.station l) (.openJob docket cls due) s fun p s =>
    checked s ((decide (2 < cls), .range) :: startChecks s l p.person ++ roomChecks s)
      (openedJob s l p.person docket cls due)

/-- CREATE JOB, taken (R8). -/
def createdJob (s : State) (reporter : Nat) (docket : BitVec 32) (cls : Nat) (due : BitVec 16) (follow : Nat) : Ans :=
  let i := s.lowestVacant
  let s1 := s.setJob i
    { issue := (s.job i).issue, state := .setAside, follow := decide (follow = 1), docket := docket, reporter := reporter
      cls := clsOf cls, due := due }
  done (s1.firstTake i) [.ref (s1.jobRef i)]

/-- CREATE JOB (R8). -/
def execCreateJob (reporter : Nat) (docket : BitVec 32) (cls : Nat) (due : BitVec 16) (follow : Nat) (s : State) :
    Host.Outcome State Fault Refusal :=
  serve .console (.createJob reporter docket cls due follow) s fun _ s =>
    checked s
      ((decide (reporter = 0) || decide (63 < reporter) || decide (2 < cls) || decide (1 < follow), .range) ::
        roomChecks s)
      (createdJob s reporter docket cls due follow)

/-- ATTACH, taken (R9). -/
def attachedJob (s : State) (l : Nat) (r : Ref) : Ans :=
  done ((s.updJob r.idx fun j => { j with state := .live, chan := some l }).startCapture l r)

/-- ATTACH (R9). -/
def execAttach (l : Fin 16) (r : Ref) (s : State) : Host.Outcome State Fault Refusal :=
  serve (.station l) (.attach r) s fun p s =>
    let j := s.job r.idx
    checked s
      (jobChecks s r ++ [(!p.owns j, .notPermitted), (decide (j.state ≠ .setAside), .state), (j.held, .held)] ++
        startChecks s l p.person)
      (attachedJob s l r)

/-- The capture channel of a job released: its capture ends (R10, R12). -/
def State.releaseChannel (s : State) (j : Nat) : State :=
  match (s.job j).chan with
  | none => s
  | some ch => s.endCapture ch

/-- DETACH, taken (R10). -/
def detachedJob (s : State) (r : Ref) : Ans :=
  done ((s.releaseChannel r.idx).updJob r.idx fun j => { j with state := .setAside, chan := none })

/-- DETACH (R10). -/
def execDetach (l : Fin 16) (r : Ref) (s : State) : Host.Outcome State Fault Refusal :=
  serve (.station l) (.detach r) s fun p s =>
    let j := s.job r.idx
    checked s
      (jobChecks s r ++
        [(!p.owns j, .notPermitted), (decide (j.state ≠ .live), .state), (s.captureBusy j.chan, .busy)])
      (detachedJob s r)

/-! ### Closing (R12, R13) -/

/-- Step 1 of R13: a LIVE job's capture channel is released, with the notice HALT, STOPPED when the console closes (R12). -/
def State.releaseForClose (s : State) (p : Party) (r : Ref) : State :=
  match (s.job r.idx).state, (s.job r.idx).chan with
  | .live, some ch =>
    match s.captureFields ch, p with
    | some (job, ctx), .console => (s.endCapture ch).placeNotice (s.captureNotice ch job ctx.point .halt .stopped) false
    | _, _ => s.endCapture ch
  | _, _ => s

/-- The job becomes COMPLETE when every remaining take is RETURNED, and CLOSED otherwise (R13, step 4). -/
def State.closeState (s : State) (r : Ref) : State :=
  if s.allReturned r.idx then
    (s.updJob r.idx fun j => { j with state := .complete, chan := none }).raise (.jobComplete r)
  else s.updJob r.idx fun j => { j with state := .closed, chan := none }

/-- CLOSE DICTATION, taken (R13). -/
def closedDictation (s : State) (p : Party) (r : Ref) : Ans :=
  done ((((s.releaseForClose p r).closeLastTake r.idx).dropTail r.idx).closeState r)

/-- CLOSE DICTATION (R12, R13). -/
def execCloseDictation (p : Port) (r : Ref) (s : State) : Host.Outcome State Fault Refusal :=
  serve p (.closeDictation r) s fun p s =>
    let j := s.job r.idx
    checked s
      (jobChecks s r ++
        [(!p.owns j, .notPermitted), (decide (j.state ≠ .live) && decide (j.state ≠ .setAside), .state), (j.held, .held),
          (decide (p ≠ .console) && s.captureBusy j.chan, .busy)])
      (closedDictation s p r)

/-! ### Attributes (R16 to R18) -/

/-- The selected fields written into a job record (R16). -/
def writeAttrs (a : JobAttrs) (j : Job) : Job :=
  { j with
    docket := a.docket.getD j.docket
    cls := (a.cls.map clsOf).getD j.cls
    due := a.due.getD j.due
    follow := (a.follow.map fun f => decide (f = 1)).getD j.follow }

/-- The job's take in state OPEN (R18). -/
def State.openTake (s : State) (j : Nat) : Option Nat :=
  ((s.jobTakes j).find? fun t => decide (t.2.state = .opened)).map Prod.fst

/-- The OPEN take offered in the queue, or taken out of it, as the follow-behind flag now stands (R18). -/
def State.applyFollow (s : State) (j : Nat) : State :=
  match s.openTake j with
  | none => s
  | some t => if (s.job j).follow then s.enterQueue t else s.leaveQueue t

/-- SET JOB ATTRIBUTES, taken (R16 to R18). -/
def setAttributes (s : State) (r : Ref) (a : JobAttrs) : Ans :=
  let j := s.job r.idx
  let s1 := s.setJob r.idx (writeAttrs a j)
  let s2 := if (writeAttrs a j).cls ≠ j.cls ∨ (writeAttrs a j).due ≠ j.due then s1.replaceQueued r.idx else s1
  done (if a.follow.isSome then s2.applyFollow r.idx else s2)

/-- SET JOB ATTRIBUTES (R16). -/
def execSetJobAttributes (r : Ref) (a : JobAttrs) (s : State) : Host.Outcome State Fault Refusal :=
  serve .console (.setJobAttributes r a) s fun _ s =>
    let j := s.job r.idx
    checked s
      ((decide (2 < a.cls.getD 0) || decide (1 < a.follow.getD 0), .range) :: jobChecks s r ++
        [(decide (j.state = .retiring), .state), (decide (writeAttrs a j = j), .already)])
      (setAttributes s r a)

/-! ### Reading and searching (R19, R20) -/

/-- A party may read a job: the console any, a reporter its own, a typist those in which it holds a take (R19, R48). -/
def State.mayReadJob (s : State) (p : Party) (j : Nat) : Bool :=
  p.owns (s.job j) || (p.isTypist && s.holdsTakeOf j p.person)

/-- READ JOB (R19). -/
def execReadJob (p : Port) (r : Ref) (s : State) : Host.Outcome State Fault Refusal :=
  serve p (.readJob r) s fun p s =>
    checked s
      (jobChecks s r ++ [(!s.mayReadJob p r.idx, .notPermitted), (decide ((s.job r.idx).state = .retiring), .state)])
      { code := .done, result := (s.job r.idx).readout r, state := s }

/-- The first slot from the start whose key agrees, a reporter's search passing over other reporters' slots (R20). -/
def State.findSlot (s : State) (p : Party) (start : Nat) (pattern mask : JobKey) : Option Nat :=
  (List.range Config.jobSlots).find? fun i =>
    decide (start ≤ i) && keyAgrees (s.job i).key pattern mask && p.owns (s.job i)

/-- FIND JOB, taken (R20). -/
def foundJob (s : State) (p : Party) (start : Nat) (pattern mask : JobKey) : Ans :=
  match s.findSlot p start pattern mask with
  | some i => done s (.ref (s.jobRef i) :: keyItems (s.job i).key)
  | none => refuse .none s

/-- FIND JOB (R20). -/
def execFindJob (p : Port) (start : Nat) (pattern mask : JobKey) (s : State) : Host.Outcome State Fault Refusal :=
  serve p (.findJob start pattern mask) s fun p s =>
    checked s [(p.isTypist, .notPermitted), (decide (Config.jobSlots ≤ start), .range)] (foundJob s p start pattern mask)

/-! ### Holds and releases (R165 to R169) -/

/-- The channel on which an export of a job runs (R165). -/
def State.exportChannel (s : State) (r : Ref) : Option Nat :=
  [14, 15].find? fun ch => match s.exportOf ch with | some e => e.job == r | none => false

/-- HOLD, taken: the flag is set, a RELEASING job becomes COMPLETE with its release forgotten, and a running export ends
JOB-HELD (R165). -/
def heldJob (s : State) (r : Ref) : Ans :=
  let s1 := s.updJob r.idx fun j =>
    if j.state = .releasing then { j with held := true, state := .complete, release := none } else { j with held := true }
  done (if (s1.job r.idx).exportBusy then
      match s1.exportChannel r with
      | some ch => s1.endExport ch .jobHeld true
      | none => s1.updJob r.idx fun j => { j with exportBusy := false }
    else s1)

/-- HOLD (R165). -/
def execHold (r : Ref) (s : State) : Host.Outcome State Fault Refusal :=
  serve .console (.hold r) s fun _ s =>
    let j := s.job r.idx
    checked s
      (jobChecks s r ++ [(decide (j.state = .retiring), .state), (decide (j.state = .live), .busy), (j.held, .already)])
      (heldJob s r)

/-- UNHOLD, taken (R166). -/
def unheldJob (s : State) (r : Ref) : Ans := done (s.updJob r.idx fun j => { j with held := false })

/-- UNHOLD (R166). -/
def execUnhold (r : Ref) (s : State) : Host.Outcome State Fault Refusal :=
  serve .console (.unhold r) s fun _ s =>
    let j := s.job r.idx
    checked s (jobChecks s r ++ [(decide (j.state = .retiring), .state), (!j.held, .already)]) (unheldJob s r)

/-- The release party a request stands for (R168). -/
def Party.release : Party → ReleaseParty
  | .console => .console
  | .station .. => .reporter

/-- RELEASE, taken: the first makes the job RELEASING, the second RETIRING at the tail of the retiring list (R168,
R169). -/
def releasedJob (s : State) (p : Party) (r : Ref) : Ans :=
  if (s.job r.idx).state = .complete then
    done (s.updJob r.idx fun j => { j with state := .releasing, release := some p.release })
  else
    done { s.updJob r.idx fun j =>
        { j with state := .retiring, release := none, sweep := some { phase := .segments, freed := 0 } }
      with retiring := s.retiring ++ [r.idx] }

/-- RELEASE (R168). -/
def execRelease (p : Port) (r : Ref) (s : State) : Host.Outcome State Fault Refusal :=
  serve p (.release r) s fun p s =>
    let j := s.job r.idx
    checked s
      (jobChecks s r ++
        [(!p.owns j, .notPermitted), (decide (j.state ≠ .complete) && decide (j.state ≠ .releasing), .state),
          (j.held, .held), (j.exportBusy, .busy),
          (decide (j.state = .releasing) && decide (j.release = some p.release), .already)])
      (releasedJob s p r)

/-- RETIRING STATUS, taken (R175). The head job's reference, phase, records freed and length have one presence bit each
(R203); that the references of the other slots follow them is the model's choice (assumption 20). -/
def retiringReport (s : State) : Ans :=
  let head := s.retiring.head?
  let sweep := fun i => (s.job i).sweep.getD { phase := .segments, freed := 0 }
  { code := .done, state := s
    result :=
      { fixed := [.num 2 s.retiring.length]
        optional :=
          [head.map fun i => [.ref (s.jobRef i)], head.map fun i => [.num 1 (sweep i).phase.code],
            head.map fun i => [.num 2 (sweep i).freed], head.map fun i => [.num 3 (s.job i).length]]
        rest := s.retiring.tail.map fun i => .ref (s.jobRef i) } }

/-- RETIRING STATUS (R175). -/
def execRetiringStatus (s : State) : Host.Outcome State Fault Refusal :=
  serve .console .retiringStatus s fun _ s => retiringReport s

end Sys2Proof.Machine
end

