-- ==== Sys2Proof/Machine/Maps.lean ====
section
/-! DEFINITION. The requests of the Map Editor: READ SEGMENT, SEAL RANGE and PACE RANGE (R45 to R48). -/

namespace Sys2Proof.Machine

/-! ### READ SEGMENT (R48) -/

/-- The segment record readout (section 12.6). -/
def SegBody.readout (r : Ref) (b : SegBody) : Result :=
  { fixed := [.ref r, .ref b.job, .num 2 b.extent, .num 2 b.first, .num 2 b.count, .refOrAbsent b.next]
    optional := [Item.opt 1 b.sealPart, Item.opt 1 b.pace, Item.optRef b.cue] }

/-- READ SEGMENT, taken (R48). -/
def segmentRead (s : State) (r : Ref) : Ans :=
  match (s.seg r.idx).body with
  | some b => { code := .done, result := b.readout r, state := s }
  | none => refuse .stale s

/-- The job index of a segment in use. -/
def State.segJob (s : State) (i : Nat) : Nat :=
  match (s.seg i).body with
  | some b => b.job.idx
  | none => 0

/-- READ SEGMENT (R25, R48). -/
def execReadSegment (p : Port) (r : Ref) (s : State) : Host.Outcome State Fault Refusal :=
  serve p (.readSegment r) s fun p s =>
    checked s
      [(decide (Config.segRecords ≤ r.idx), .range), (!s.segCurrent r, .stale),
        (!s.mayReadJob p (s.segJob r.idx), .notPermitted),
        (decide ((s.job (s.segJob r.idx)).state = .retiring), .state)]
      (segmentRead s r)

/-! ### Ranges (R45, R46) -/

/-- What a range writes into a segment, and whether a segment already holds it. -/
structure RangeEdit where
  holds : SegBody → Bool
  write : SegBody → SegBody

/-- SEAL RANGE with a class: SEAL set, or cleared for class 0 (R45). -/
def sealEdit (c : Nat) : RangeEdit :=
  { holds := fun b => decide (b.sealClass = c)
    write := fun b => { b with sealPart := if c = 0 then none else some c } }

/-- PACE RANGE with a rate, or CLEAR (R46). -/
def paceEdit (pace : Option Nat) : RangeEdit :=
  { holds := fun b => decide (b.pace = pace)
    write := fun b => { b with pace := pace } }

namespace State

/-- A split is needed at a position: it falls at an offset above 0 within a segment that does not hold the value (R45). -/
def splitNeeded (s : State) (j p : Nat) (e : RangeEdit) : Bool :=
  match s.locate j p with
  | some (_, b, k) => decide (0 < k) && !e.holds b
  | none => false

/-- The splits a range needs (R45). -/
def splitsNeeded (s : State) (j a b : Nat) (e : RangeEdit) : Nat := bit (s.splitNeeded j a e) + bit (s.splitNeeded j b e)

/-- Every frame of a range already has the value (R45, R46). -/
def rangeHolds (s : State) (j a b : Nat) (e : RangeEdit) : Bool :=
  (withStarts 0 (s.jobSegs j)).all fun x =>
    decide (x.2.2 + x.2.1.count ≤ a) || decide (b ≤ x.2.2) || e.holds x.2.1

/-- A split made where it is needed (R33, R45). -/
def splitIf (s : State) (j p : Nat) (e : RangeEdit) : State := if s.splitNeeded j p e then s.splitAt j p else s

/-- The segments lying wholly within a range (R45). -/
def segsWithin (s : State) (j a b : Nat) : List (Nat × SegBody) :=
  ((withStarts 0 (s.jobSegs j)).filter fun x => decide (a ≤ x.2.2) && decide (x.2.2 + x.2.1.count ≤ b)).map fun x =>
    (x.1, x.2.1)

/-- A range written: the splits, then the value on every segment wholly within (R45, R46). -/
def writeRange (s : State) (j a b : Nat) (e : RangeEdit) : State :=
  let s1 := (s.splitIf j a e).splitIf j b e
  (s1.segsWithin j a b).foldl (fun t x => t.updSegBody x.1 e.write) s1

/-- A read of a sealed job still WAITING on a play or read-back channel is withdrawn, and its frame is chosen again (R154,
R47; assumption 35). -/
def withdrawWaitingRead (r : Ref) (s : State) (ch : Nat) : State :=
  match (s.chan ch).stream with
  | .play p =>
    if p.job = r ∧ s.readWaiting ch then (s.withdraw ch).updPlay ch fun p => { p with read := none } else s
  | .readback b =>
    if b.job = r ∧ s.readWaiting ch then (s.withdraw ch).updReadback ch fun b => { b with read := none } else s
  | .idle | .capture _ | .exporting _ => s

end State

/-- The checks of a range, after its value's own (R45, R46). -/
def rangeChecks (s : State) (r : Ref) (a b : Nat) (e : RangeEdit) : List (Bool × ReplyCode) :=
  let j := s.job r.idx
  jobChecks s r ++
    [(decide (j.state = .retiring), .state), (j.held, .held), (j.exportBusy, .busy),
      (decide (b ≤ a) || decide (j.length < b), .range), (s.rangeHolds r.idx a b e, .already),
      (decide (s.segFree < s.splitsNeeded r.idx a b e), .segmentFull)]

/-- SEAL RANGE, taken: the parts are written, and the extents of the sealed segments are tainted (R45, R28). -/
def sealedRange (s : State) (r : Ref) (a b c : Nat) : Ans :=
  let s1 := s.writeRange r.idx a b (sealEdit c)
  let s2 := if c = 0 then s1 else (s1.segsWithin r.idx a b).foldl (fun t x => t.taintExt x.2.extent) s1
  done ((List.range 16).foldl (State.withdrawWaitingRead r) s2)

/-- SEAL RANGE (R45). -/
def execSealRange (r : Ref) (a b c : Nat) (s : State) : Host.Outcome State Fault Refusal :=
  serve .console (.sealRange r a b c) s fun _ s =>
    checked s ((decide (3 < c), .range) :: rangeChecks s r a b (sealEdit c)) (sealedRange s r a b c)

/-- PACE RANGE, taken (R46). -/
def pacedRange (s : State) (r : Ref) (a b : Nat) (pace : Option Nat) : Ans :=
  done (s.writeRange r.idx a b (paceEdit pace))

/-- A pace rate lies outside 32 to 128 (R46). -/
def paceOut (pace : Option Nat) : Bool :=
  match pace with
  | some x => decide (x < 32) || decide (128 < x)
  | none => false

/-- PACE RANGE (R46). -/
def execPaceRange (r : Ref) (a b : Nat) (pace : Option Nat) (s : State) : Host.Outcome State Fault Refusal :=
  serve .console (.paceRange r a b pace) s fun _ s =>
    checked s ((paceOut pace, .range) :: rangeChecks s r a b (paceEdit pace)) (pacedRange s r a b pace)

end Sys2Proof.Machine
end

