-- ==== Sys2Proof/Machine/Cues.lean ====
section
/-! DEFINITION. The requests of the Cue Table: placing, removing, reading and searching cues (chapter 3). -/

namespace Sys2Proof.Machine

/-! ### PLACE CUE (R55 to R60) -/

/-- The role may use the place form (R56). -/
def Party.mayUse (p : Party) (f : Place) : Bool :=
  match f with
  | .atPosition .. => !p.isTypist
  | .atCapturePoint _ => p.isReporter
  | .atTakePosition .. | .atChannel _ => p.isTypist

/-- The station whose channel a place form or a search reads: the requester's link. -/
def Party.link : Party → Nat
  | .console => 0
  | .station l _ _ => l

namespace State

/-- The play of a channel when it has a take loaded (R55). -/
def playWith (s : State) (ch : Nat) (t : Ref) : Option Play :=
  match s.playOf ch with
  | some p => if p.take = t then some p else none
  | none => none

/-- The capture fields of a channel when the job named is the LIVE job attached to it (R55). -/
def captureAt (s : State) (ch : Nat) (job : Ref) : Option CapCtx :=
  match s.captureFields ch with
  | some (j, ctx) =>
    if j = job ∧ (s.job job.idx).state = .live ∧ (s.job job.idx).chan = some ch then some ctx else none
  | none => none

/-- The job a place names, once its reference is current. -/
def placeJob (s : State) : Place → Nat
  | .atPosition job _ => job.idx
  | .atCapturePoint job => job.idx
  | .atTakePosition take _ | .atChannel take =>
    match (s.take take.idx).body with
    | some b => b.job.idx
    | none => 0

/-- The job position a place gives (R55). -/
def placePos (s : State) (ch : Nat) : Place → Nat
  | .atPosition _ p => p
  | .atCapturePoint job =>
    match s.captureFields ch with
    | some (_, ctx) => s.anchorPos job.idx ctx.point
    | none => 0
  | .atTakePosition take t =>
    match (s.take take.idx).body with
    | some b => s.takeStart b + t
    | none => 0
  | .atChannel take =>
    match (s.take take.idx).body, s.playOf ch with
    | some b, some p => s.takeStart b + p.pos / 64
    | _, _ => 0

/-- The anchor a place gives (R55): the capture point as it stands, or the frame at the job position. -/
def placeAnchor (s : State) (ch : Nat) (f : Place) : Anchor :=
  match f with
  | .atCapturePoint _ =>
    match s.captureFields ch with
    | some (_, ctx) => ctx.point
    | none => .jobEnd
  | .atPosition .. | .atTakePosition .. | .atChannel _ => s.anchorAt (s.placeJob f) (s.placePos ch f)

end State

/-- RANGE for a slot index or a position outside its bounds (R57, check 3). A position is tested against a record only
while the reference to it is current (assumption 19). -/
def placeRange (s : State) (ch : Nat) : Place → Bool
  | .atPosition job p =>
    decide (Config.jobSlots ≤ job.idx) || (s.jobCurrent job && decide ((s.job job.idx).length < p))
  | .atCapturePoint job => decide (Config.jobSlots ≤ job.idx)
  | .atTakePosition take t =>
    decide (Config.takeRecords ≤ take.idx) ||
      (match (s.take take.idx).body with
        | some b => s.takeCurrent take && decide (s.takeFrames b ≤ t)
        | none => false)
  | .atChannel take =>
    decide (Config.takeRecords ≤ take.idx) ||
      (match (s.take take.idx).body, s.playWith ch take with
        | some b, some p => s.takeCurrent take && decide (s.takeFrames b ≤ p.pos / 64)
        | _, _ => false)

/-- STALE for the reference a place carries (R57, check 4). -/
def placeStale (s : State) : Place → Bool
  | .atPosition job _ | .atCapturePoint job => !s.jobCurrent job
  | .atTakePosition take _ | .atChannel take => !s.takeCurrent take

/-- NOT-PERMITTED on ownership (R57, check 5). -/
def placeForeign (s : State) (p : Party) : Place → Bool
  | .atPosition job _ | .atCapturePoint job => !p.owns (s.job job.idx)
  | .atTakePosition take _ | .atChannel take =>
    match (s.take take.idx).body with
    | some b => decide (b.typist ≠ some p.person)
    | none => true

/-- STATE (R57, check 6; R59). -/
def placeState (s : State) (p : Party) (kind : Nat) (f : Place) : Bool :=
  decide ((s.job (s.placeJob f)).state = .retiring) ||
    match f with
    | .atPosition .. => false
    | .atCapturePoint job =>
      match s.captureAt p.link job with
      | some ctx => decide (kind = 1) && decide (ctx.mode ≠ .append)
      | none => true
    | .atTakePosition take _ =>
      match (s.take take.idx).body with
      | some b => decide (b.state ≠ .claimed) && decide (b.state ≠ .following)
      | none => true
    | .atChannel take =>
      (match (s.take take.idx).body with
        | some b => decide (b.state ≠ .claimed) && decide (b.state ≠ .following)
        | none => true) || (s.playWith p.link take).isNone

/-- FROZEN for a TAKE cue by position (R57, check 8; R60). At the job's length no take contains the frame, so the check passes
in every state and EMPTY-TAKE follows, in COMPLETE and RELEASING too (the model's choice, assumption 47). -/
def placeFrozen (s : State) (kind : Nat) : Place → Bool
  | .atPosition job p =>
    decide (kind = 1) && decide (p < (s.job job.idx).length) &&
      (match s.containingTake job.idx p with
        | some (_, t) => decide (t.state ≠ .ready) && decide (t.state ≠ .opened)
        | none => true)
  | .atCapturePoint _ | .atTakePosition .. | .atChannel _ => false

/-- EMPTY-TAKE (R57, check 9; R59, R60). -/
def placeEmpty (s : State) (kind : Nat) : Place → Bool
  | .atPosition job p =>
    decide (kind = 1) &&
      (decide (p = (s.job job.idx).length) ||
        (match s.containingTake job.idx p with
          | some (_, t) => decide (p = s.takeStart t)
          | none => false))
  | .atCapturePoint job => decide (kind = 1) && s.emptyHead job.idx
  | .atTakePosition .. | .atChannel _ => false

/-- The placer a party is recorded as (R58). -/
def Party.placer : Party → Placer
  | .console => .console
  | .station _ .typist n => .typist n
  | .station _ .reporter n => .reporter n
  | .station _ .vacant n => .reporter n

/-- The take change a placed TAKE cue makes (R58, step 5): a new take at the capture head, or a split by position. -/
def State.takeChange (s : State) (f : Place) (containing : Option Nat) (cue : Nat) : State :=
  match f, containing with
  | .atPosition job _, some c => s.splitTake job.idx c cue
  | .atCapturePoint job, _ => s.headTake job.idx cue
  | _, _ => s

/-- PLACE CUE, taken (R58). -/
def placedCue (s : State) (p : Party) (kind : Nat) (label : BitVec 16) (f : Place) : Ans :=
  match kindOf kind with
  | none => refuse .range s
  | some k =>
    let j := s.placeJob f
    let (s1, i) := s.addCue j k label (s.placeAnchor p.link f) p.placer
    let containing := match f with
      | .atPosition job q => (s.containingTake job.idx q).map Prod.fst
      | .atCapturePoint _ | .atTakePosition .. | .atChannel _ => none
    let s2 := if k = .take then s1.takeChange f containing i else s1
    done s2 [.ref (s1.cueRef i), .num 3 (s1.cuePos i)]

/-- PLACE CUE (R55 to R60). -/
def execPlaceCue (p : Port) (kind : Nat) (label : BitVec 16) (f : Place) (s : State) : Host.Outcome State Fault Refusal :=
  serve p (.placeCue kind label f) s fun p s =>
    checked s
      [((p.isTypist && decide (kind ≠ 6)) || !p.mayUse f, .notPermitted),
        (decide (kind = 0) || decide (8 < kind) || placeRange s p.link f, .range),
        (placeStale s f, .stale), (placeForeign s p f, .notPermitted), (placeState s p kind f, .state),
        (!p.isTypist && (s.job (s.placeJob f)).held, .held), (placeFrozen s kind f, .frozen),
        (placeEmpty s kind f, .emptyTake), (decide (s.cueFree = 0), .cueFull),
        (decide (kind = 1) && decide (s.takeFree = 0), .takeFull)]
      (placedCue s p kind label f)

/-! ### REMOVE CUE (R62, R63) -/

namespace State

/-- The job index of a cue in use. -/
def cueJob (s : State) (i : Nat) : Nat :=
  match (s.cue i).body with
  | some b => b.job.idx
  | none => 0

/-- A cue is a cue of a kind. -/
def cueIs (s : State) (i : Nat) (k : CueKind) : Bool :=
  match (s.cue i).body with
  | some b => decide (b.kind = k)
  | none => false

/-- A cue lies inside a take its typist holds (R62, R64). -/
def cueHeldBy (s : State) (i person : Nat) : Bool := (s.heldTakeWith (s.cueJob i) (s.cuePos i) person).isSome

/-- A party may read a cue (R64). -/
def mayReadCue (s : State) (p : Party) (i : Nat) : Bool :=
  p.owns (s.job (s.cueJob i)) || (p.isTypist && s.cueHeldBy i p.person)

/-- A party may remove a cue (R62). -/
def mayRemove (s : State) (p : Party) (i : Nat) : Bool :=
  p.owns (s.job (s.cueJob i)) || (p.isTypist && s.cueIs i .note && s.cueHeldBy i p.person)

/-- R63 forbids the removal of a TAKE cue. -/
def removalFrozen (s : State) (i : Nat) : Bool :=
  s.cueIs i .take &&
    (match s.takesAround (s.cueJob i) i with
      | some ((_, e), (_, f)) =>
        !(decide (e.state = .ready) && (decide (f.state = .ready) || decide (f.state = .opened)))
      | none => true)

end State

/-- REMOVE CUE, taken (R62, R81). -/
def removedCue (s : State) (r : Ref) : Ans :=
  let around := if s.cueIs r.idx .take then s.takesAround (s.cueJob r.idx) r.idx else none
  let s1 := s.unlinkCue r.idx
  let s2 := match around with
    | some ((e, _), (f, _)) => s1.mergeTakes (s.cueJob r.idx) e f
    | none => s1
  done (s2.freeCue r.idx)

/-- The checks a cue reference meets (R52). -/
def cueChecks (s : State) (r : Ref) : List (Bool × ReplyCode) :=
  [(decide (Config.cueRecords ≤ r.idx), .range), (!s.cueCurrent r, .stale)]

/-- REMOVE CUE (R62). -/
def execRemoveCue (p : Port) (r : Ref) (s : State) : Host.Outcome State Fault Refusal :=
  serve p (.removeCue r) s fun p s =>
    let j := s.job (s.cueJob r.idx)
    checked s
      (cueChecks s r ++
        [(!s.mayRemove p r.idx, .notPermitted), (decide (j.state = .retiring), .state),
          (!p.isTypist && j.held, .held), (s.removalFrozen r.idx, .frozen)])
      (removedCue s r)

/-! ### READ CUE (R64) -/

/-- The code of a placer (section 12.7). -/
def Placer.items : Placer → List Item
  | .reporter n => [.num 1 1, .num 1 n]
  | .typist n => [.num 1 2, .num 1 n]
  | .console => [.num 1 3, .num 1 0]

/-- The anchor fields of a cue readout (section 12.7). -/
def Anchor.items : Anchor → List Item
  | .frame r k => [.refOrAbsent (some r), .num 2 k]
  | .jobEnd => [.refOrAbsent none, .num 2 0]

/-- READ CUE, taken (R64, section 12.7). -/
def cueRead (s : State) (p : Party) (r : Ref) : Ans :=
  match (s.cue r.idx).body with
  | none => refuse .stale s
  | some b =>
    let pos := s.cuePos r.idx
    let inTake := if p.isTypist then
        (s.heldTakeWith b.job.idx pos p.person).map fun t => [Item.ref (s.takeRef t.1), .num 3 (pos - s.takeStart t.2)]
      else none
    { code := .done, state := s
      result :=
        { fixed := [.ref r, .ref b.job, .num 1 b.kind.code, .num 2 b.label.toNat] ++ b.placer.items ++ b.anchor.items ++
            [.num 3 pos]
          optional := [Item.optRef b.next, inTake] } }

/-- READ CUE (R64). -/
def execReadCue (p : Port) (r : Ref) (s : State) : Host.Outcome State Fault Refusal :=
  serve p (.readCue r) s fun p s =>
    checked s
      (cueChecks s r ++
        [(!s.mayReadCue p r.idx, .notPermitted), (decide ((s.job (s.cueJob r.idx)).state = .retiring), .state)])
      (cueRead s p r)

/-! ### CUE AT, LAST CUE, FIND CUE (R65 to R67) -/

/-- The bound and the reference position of CUE AT and FIND CUE, or the refusal (R65). -/
def boundOf (s : State) (p : Party) (at_ : Option (Ref × Nat)) : Except ReplyCode (Bound × Nat) :=
  match p, at_ with
  | .console, none => .error .malformed
  | .console, some (r, q) =>
    match firstFailing
        [(decide (Config.jobSlots ≤ r.idx) || (s.jobCurrent r && decide ((s.job r.idx).length < q)), .range),
          (!s.jobCurrent r, .stale), (decide ((s.job r.idx).state = .retiring), .state)] with
    | some c => .error c
    | none => .ok (s.wholeJob r.idx, q)
  | .station l .typist _, _ =>
    match s.playOf l with
    | none => .error .state
    | some x =>
      match (s.take x.take.idx).body with
      | none => .error .state
      | some b =>
        if (s.job x.job.idx).state = .retiring then .error .state
        else .ok (s.takeBound b, s.takeStart b + x.pos / 64)
  | .station l _ _, _ =>
    match (s.chan l).stream with
    | .capture c =>
      if (s.job c.job.idx).state = .retiring then .error .state
      else .ok (s.wholeJob c.job.idx, s.anchorPos c.job.idx c.ctx.point)
    | .readback r =>
      if (s.job r.job.idx).state = .retiring then .error .state else .ok (s.wholeJob r.job.idx, r.pos / 64)
    | .idle | .play _ | .exporting _ => .error .state

/-- The reply that names a cue found, with its take position for a typist; NONE when there is none (R66). -/
def cueAnswer (s : State) (p : Party) (b : Bound) (found : Option (Nat × CueBody × Nat)) : Ans :=
  match found with
  | none => refuse .none s
  | some (i, c, pos) =>
    { code := .done, state := s
      result :=
        { fixed := [.ref (s.cueRef i), .num 3 c.descriptor.toNat, .num 3 pos]
          optional := [if p.isTypist then b.takeFrom.map fun t => [.num 3 (pos - t)] else none] } }

/-- CUE AT: the last cue of the bound at or below the reference position (R66). -/
def cueAtAnswer (s : State) (p : Party) (at_ : Option (Ref × Nat)) : Ans :=
  match boundOf s p at_ with
  | .error c => refuse c s
  | .ok (b, q) => cueAnswer s p b (((s.cuesIn b).filter fun c => decide (c.2.2 ≤ q)).getLast?)

/-- CUE AT (R65, R66). -/
def execCueAt (p : Port) (at_ : Option (Ref × Nat)) (s : State) : Host.Outcome State Fault Refusal :=
  serve p (.cueAt at_) s fun p s => cueAtAnswer s p at_

/-- LAST CUE: the last cue of the bound of the take, or of the job, named (R65, R66). The manual does not order
NOT-PERMITTED and STATE for a RETIRING job: NOT-PERMITTED comes first (assumption 37). -/
def lastCueAnswer (s : State) (p : Party) (r : Ref) : Ans :=
  if p.isTypist then
    match (s.take r.idx).body with
    | none => refuse (if Config.takeRecords ≤ r.idx then .range else .stale) s
    | some t =>
      checked s
        [(decide (Config.takeRecords ≤ r.idx), .range), (!s.takeCurrent r, .stale), (!State.heldBy t p.person, .notPermitted),
          (decide ((s.job t.job.idx).state = .retiring), .state)]
        (cueAnswer s p (s.takeBound t) (s.cuesIn (s.takeBound t)).getLast?)
  else
    checked s
      (jobChecks s r ++
        [(!p.owns (s.job r.idx), .notPermitted), (decide ((s.job r.idx).state = .retiring), .state)])
      (cueAnswer s p (s.wholeJob r.idx) (s.cuesIn (s.wholeJob r.idx)).getLast?)

/-- LAST CUE (R65, R66). -/
def execLastCue (p : Port) (r : Ref) (s : State) : Host.Outcome State Fault Refusal :=
  serve p (.lastCue r) s fun p s => lastCueAnswer s p r

/-- The agreeing cue a search finds in a bound (R67). Direction code 0 is FORWARD. -/
def searchCue (s : State) (b : Bound) (q dir : Nat) (pattern mask : BitVec 20) (start : Option Ref) :
    Option (Nat × CueBody × Nat) :=
  let cues := s.cuesIn b
  let ok : Nat × CueBody × Nat → Bool := fun c => agrees c.2.1.descriptor pattern mask
  let isStart : Nat × CueBody × Nat → Bool := fun c => start == some (s.cueRef c.1)
  match dir, start with
  | 0, none => cues.find? fun c => ok c && decide (q < c.2.2)
  | 0, some _ => ((cues.dropWhile fun c => !isStart c).drop 1).find? ok
  | _, none => (cues.filter fun c => ok c && decide (c.2.2 < q)).getLast?
  | _, some _ => ((cues.takeWhile fun c => !isStart c).filter ok).getLast?

/-- A start cue lies outside the bound (R67). -/
def startOutside (s : State) (b : Bound) (start : Option Ref) : Bool :=
  match start with
  | none => false
  | some r => !(s.cuesIn b).any fun c => c.1 == r.idx

/-- FIND CUE's answer (R67). The manual does not order its checks: RANGE for an index or a direction comes first, then the
refusals of the bound (STATE among them), then STALE for the start cue (assumption 34). -/
def findCueAnswer (s : State) (p : Party) (at_ : Option (Ref × Nat)) (dir : Nat) (pattern mask : BitVec 20)
    (start : Option Ref) : Ans :=
  let far := match start with | some r => decide (Config.cueRecords ≤ r.idx) | none => false
  let stale := match start with | some r => !s.cueCurrent r | none => false
  if far || decide (1 < dir) then refuse .range s
  else
    match boundOf s p at_ with
    | .error c => refuse c s
    | .ok (b, q) =>
      checked s [(stale, .stale), (startOutside s b start, .range)]
        (cueAnswer s p b (searchCue s b q dir pattern mask start))

/-- FIND CUE (R65, R67). -/
def execFindCue (p : Port) (at_ : Option (Ref × Nat)) (dir : Nat) (pattern mask : BitVec 20) (start : Option Ref)
    (s : State) : Host.Outcome State Fault Refusal :=
  serve p (.findCue at_ dir pattern mask start) s fun p s => findCueAnswer s p at_ dir pattern mask start

end Sys2Proof.Machine
end

