-- ==== Sys2Proof/Machine/Capture.lean ====
section
/-! DEFINITION. The requests and pedal messages of a capture channel: SET CAPTURE MODE, SEAL MODE, CAPTURE SETUP, RECORD,
PAUSE, READBACK, READBACK END, the RECORD control, and FRAME_ARRIVAL (chapter 6, R44). -/

namespace Sys2Proof.Machine

namespace State

/-- The channel is capture (R124). -/
def isCapture (s : State) (ch : Nat) : Bool := (s.captureOf ch).isSome

/-- A read-back is in progress on the channel. -/
def isReadback (s : State) (ch : Nat) : Bool := (s.readbackOf ch).isSome

/-- The capture of the channel is RUNNING. -/
def isRecording (s : State) (ch : Nat) : Bool :=
  match s.captureOf ch with
  | some c => c.running
  | none => false

/-- NO-CONTINUATION cleared. -/
def clearNoContinuation (s : State) (ch : Nat) : State := s.updChan ch fun c => { c with noContinuation := false }

end State

/-! ### SET CAPTURE MODE and SEAL MODE (R124, R44) -/

/-- Checks 2 to 4 of R124. -/
def modeChecks (s : State) (ch : Nat) : List (Bool × ReplyCode) :=
  [(!s.isCapture ch && !s.isReadback ch, .state), (s.isRecording ch || s.isReadback ch, .busy),
    (!(s.placement ch).inflight.isEmpty, .busy)]

/-- The edit point a mode names below the job's length; none for APPEND and for the length itself (R44). -/
def editPoint (length : Nat) : ModeRequest → Option Nat
  | .append => none
  | .insert p | .overwrite p => if p < length then some p else none

/-- The Map Editor's checks of an edit point (R44). -/
def editChecks (s : State) (j : Nat) (m : ModeRequest) : List (Bool × ReplyCode) :=
  let length := (s.job j).length
  let beyond := match m with | .append => false | .insert p | .overwrite p => decide (length < p)
  let frozen := match editPoint length m with | some p => !s.editable j p | none => false
  let full := match editPoint length m with
    | some p => (match s.locate j p with | some (_, _, k) => decide (0 < k) | none => false) && decide (s.segFree = 0)
    | none => false
  [(beyond, .range), (frozen, .frozen), (full, .segmentFull)]

/-- The capture mode a request names once its point is an anchor. -/
def requestedMode : ModeRequest → CapMode
  | .append => .append
  | .insert _ => .insert
  | .overwrite _ => .overwrite

/-- SET CAPTURE MODE, taken (R44, R124). -/
def capturedMode (s : State) (ch : Nat) (job : Ref) (m : ModeRequest) : Ans :=
  let clear := fun t : State => (t.updPlacement ch fun p => { p with runStart := none }).clearNoContinuation ch
  match editPoint (s.job job.idx).length m with
  | none =>
    done (clear (s.updCapture ch fun c => { c with ctx := { c.ctx with point := .jobEnd, mode := .append } }))
  | some p =>
    let s1 := s.splitAt job.idx p
    let a := s1.anchorAt job.idx p
    done (clear (s1.updCapture ch fun c => { c with ctx := { c.ctx with point := a, mode := requestedMode m } }))

/-- SET CAPTURE MODE's answer (R124, then R44). -/
def setModeAnswer (s : State) (ch : Nat) (m : ModeRequest) : Ans :=
  match s.captureOf ch with
  | none => checked s (modeChecks s ch) (refuse .state s)
  | some c => checked s (modeChecks s ch ++ editChecks s c.job.idx m) (capturedMode s ch c.job m)

/-- SET CAPTURE MODE (R124, R44). -/
def execSetCaptureMode (l : Fin 16) (m : ModeRequest) (s : State) : Host.Outcome State Fault Refusal :=
  serve (.station l) (.setCaptureMode m) s fun _ s => setModeAnswer s l m

/-- SEAL MODE, taken (R124). -/
def sealModeSet (s : State) (ch c : Nat) : Ans :=
  done ((s.updCapture ch fun x => { x with ctx := { x.ctx with sealClass := c } }).clearNoContinuation ch)

/-- SEAL MODE (R124). -/
def execSealMode (l : Fin 16) (c : Nat) (s : State) : Host.Outcome State Fault Refusal :=
  serve (.station l) (.sealMode c) s fun _ s =>
    checked s ((decide (3 < c), .range) :: modeChecks s l) (sealModeSet s l c)

/-! ### CAPTURE SETUP (R125) -/

/-- A count is neither 0 nor within 6,000 to 1,048,575 (R125). -/
def countOut (n : Nat) : Bool :=
  decide (n ≠ 0) && (decide (n < Config.minCaptureCount) || decide (Config.maxCount < n))

/-- CAPTURE SETUP, taken (R125). -/
def setupCapture (s : State) (ch remaining base : Nat) (reload chain notify : Bool) : Ans :=
  done ((s.updCapture ch fun x => { x with ctx := { x.ctx with remaining := remaining, base := base } }).updChan ch fun c =>
    { c with
      noContinuation := false, chainAbort := false
      matrix := { c.matrix with endReload := reload, endChain := chain, endNotify := notify } })

/-- CAPTURE SETUP (R125). -/
def execCaptureSetup (l : Fin 16) (remaining base : Nat) (reload chain notify : Bool) (s : State) :
    Host.Outcome State Fault Refusal :=
  serve (.station l) (.captureSetup remaining base reload chain notify) s fun _ s =>
    checked s
      [(countOut remaining || countOut base, .range), (!s.isCapture l && !s.isReadback l, .state), (s.isReadback l, .busy)]
      (setupCapture s l remaining base reload chain notify)

/-! ### RECORD and PAUSE (R122, R131) -/

namespace State

/-- A capture becomes RUNNING, its frame timeout counter at 0 (R122). -/
def runCapture (s : State) (ch : Nat) : State := s.updCapture ch fun c => { c with running := true, counter := 0 }

/-- A capture becomes PAUSED, its counter stopped (R122). -/
def pauseCapture (s : State) (ch : Nat) : State := s.updCapture ch fun c => { c with running := false, counter := 0 }

end State

/-- RECORD request's answer (R122; during read-back R131). -/
def recordAnswer (s : State) (ch : Nat) : Ans :=
  match (s.chan ch).stream with
  | .capture c =>
    checked s [(c.running, .already), ((s.chan ch).secondNotice, .noticePending)]
      (done ((s.clearNoContinuation ch).runCapture ch))
  | .readback r =>
    checked s [((s.chan ch).secondNotice, .noticePending)]
      (done ((s.restoreCapture ch r true).clearNoContinuation ch))
  | .idle | .play _ | .exporting _ => refuse .state s

/-- RECORD request (R122, R131). -/
def execRecord (l : Fin 16) (s : State) : Host.Outcome State Fault Refusal :=
  serve (.station l) .record s fun _ s => recordAnswer s l

/-- PAUSE request's answer: on capture by R122, on typist play by R135. -/
def pauseAnswer (s : State) (ch : Nat) : Ans :=
  match (s.chan ch).stream with
  | .capture c => checked s [(!c.running, .already)] (done (s.pauseCapture ch))
  | .play p => checked s [(decide (p.run = .paused), .already)] (done (s.pausePlay ch))
  | .idle | .readback _ | .exporting _ => refuse .state s

/-- PAUSE request (R122, R135). -/
def execPause (l : Fin 16) (s : State) : Host.Outcome State Fault Refusal :=
  serve (.station l) .pause s fun _ s => pauseAnswer s l

/-! ### READBACK and READBACK END (R129, R131) -/

/-- The start of a read-back lies outside its range: a position not below the length (R129), or a cue index above 8,191
(R52; assumption 33). -/
def startRange (s : State) (j : Nat) : CueOrPos → Bool
  | .pos p => decide ((s.job j).length ≤ p)
  | .cue r => decide (Config.cueRecords ≤ r.idx)

/-- The start cue is not current (R129, check 4). -/
def startStale (s : State) : CueOrPos → Bool
  | .pos _ => false
  | .cue r => !s.cueCurrent r

/-- The start cue belongs to another job (R129, check 5). -/
def startForeign (s : State) (j : Nat) : CueOrPos → Bool
  | .pos _ => false
  | .cue r => decide (s.cueJob r.idx ≠ j)

/-- The start cue is anchored at END (R129, check 6). -/
def startAtEnd (s : State) : CueOrPos → Bool
  | .pos _ => false
  | .cue r => match (s.cue r.idx).body with | some b => decide (b.anchor = .jobEnd) | none => false

/-- The job position of a start (R129). -/
def startPos (s : State) : CueOrPos → Nat
  | .pos p => p
  | .cue r => s.cuePos r.idx

/-- READBACK, taken: a READBACK cue at the capture point, the capture parked, play RUNNING from the start, or SUSPENDED
while SECOND-NOTICE is set (R129, R61). -/
def startedReadback (s : State) (ch : Nat) (c : Capture) (label : BitVec 16) (start : CueOrPos) : Ans :=
  let (s1, i) := s.addCue c.job.idx .readback label c.ctx.point (.reporter (s.job c.job.idx).reporter)
  let s2 := s1.updPlacement ch fun p => { p with runStart := none }
  let s3 := s2.updChan ch fun x =>
    { x with stream := .readback { job := c.job, parked := c.ctx, pos := startPos s1 start * 64 }
             suspended := x.secondNotice }
  done s3 [.ref (s1.cueRef i)]

/-- READBACK's answer (R129). -/
def readbackAnswer (s : State) (ch : Nat) (label : BitVec 16) (start : CueOrPos) : Ans :=
  match s.captureOf ch with
  | none => refuse .state s
  | some c =>
    let j := c.job.idx
    checked s
      [(startRange s j start, .range), (c.running || !(s.placement ch).inflight.isEmpty, .busy),
        (startStale s start, .stale), (startForeign s j start, .notPermitted), (startAtEnd s start, .range),
        (decide (s.cueFree = 0), .cueFull)]
      (startedReadback s ch c label start)

/-- READBACK (R129). -/
def execReadback (l : Fin 16) (label : BitVec 16) (start : CueOrPos) (s : State) : Host.Outcome State Fault Refusal :=
  serve (.station l) (.readback label start) s fun _ s => readbackAnswer s l label start

/-- READBACK END's answer (R131). -/
def readbackEndAnswer (s : State) (ch : Nat) : Ans :=
  match s.readbackOf ch with
  | none => refuse .state s
  | some r => done (s.restoreCapture ch r false)

/-- READBACK END (R131). -/
def execReadbackEnd (l : Fin 16) (s : State) : Host.Outcome State Fault Refusal :=
  serve (.station l) .readbackEnd s fun _ s => readbackEndAnswer s l

/-! ### The RECORD control (R122, R131, R189) -/

namespace State

/-- A pedal message of a role reaches the link's channel: the link is UP, the channel is bound to it, the role is the one
the control acts for, and the pedal mask is clear (R189, R193). -/
def pedalReaches (s : State) (l : Nat) (role : Role) : Bool :=
  (s.link l).up && decide ((s.chan l).binding = .link) && decide ((s.link l).role = role) && !(s.link l).pedalMask

/-- A RECORD press that has reached its channel (R122, R131). -/
def recordPressed (s : State) (ch : Nat) : State :=
  let c := s.chan ch
  if c.noContinuation || c.secondNotice || c.suspended then s
  else
    match c.stream with
    | .capture x => if x.running then s else s.runCapture ch
    | .readback r => s.restoreCapture ch r true
    | .idle | .play _ | .exporting _ => s

/-- A RECORD release that has reached its channel (R122). -/
def recordReleased (s : State) (ch : Nat) : State := if s.isRecording ch then s.pauseCapture ch else s

/-- A frame that has reached its channel: captured while the capture is RUNNING, otherwise discarded (R123). -/
def frameArrived (s : State) (ch : Nat) (data : Frame) : State :=
  match s.captureOf ch with
  | none => s
  | some c =>
    if c.running then (s.updCapture ch fun x => { x with counter := 0 }).presentFrame ch c data else s

end State

/-- RECORD_PRESS (R122, R131). -/
def execRecordPress (l : Fin 16) (s : State) : Host.Outcome State Fault Refusal :=
  .next (if s.pedalReaches l .reporter then s.recordPressed l else s)

/-- RECORD_RELEASE (R122). -/
def execRecordRelease (l : Fin 16) (s : State) : Host.Outcome State Fault Refusal :=
  .next (if s.pedalReaches l .reporter then s.recordReleased l else s)

/-- FRAME_ARRIVAL: a frame on the link of a reporter goes to the channel, any other is discarded (R123, R185, R193). -/
def execFrameArrival (l : Fin 16) (data : Frame) (s : State) : Host.Outcome State Fault Refusal :=
  .next (if (s.link l).up && decide ((s.chan l).binding = .link) && decide ((s.link l).role = .reporter) then
      s.frameArrived l data
    else s)

end Sys2Proof.Machine
end

