-- ==== Sys2Proof/Machine/Takes.lean ====
section
/-! DEFINITION. The requests of the Hand-off Unit: claiming, assigning, returning, revoking, reworking and reading takes
(chapter 4). -/

namespace Sys2Proof.Machine

/-- The code of a take state (R70). -/
def TakeState.code : TakeState → Nat
  | .opened => 0 | .following => 1 | .ready => 2 | .claimed => 3 | .returned => 4

/-- The checks a take reference meets (R71). -/
def takeChecks (s : State) (r : Ref) : List (Bool × ReplyCode) :=
  [(decide (Config.takeRecords ≤ r.idx), .range), (!s.takeCurrent r, .stale)]

/-- The fields of a take in use; those of a take of no job for a free record. -/
def State.takeBody (s : State) (i : Nat) : TakeBody := ((s.take i).body).getD { job := ⟨Config.jobSlots, 0⟩ }

/-- A typist number lies outside 1 to 63. -/
def personOut (n : Nat) : Bool := decide (n = 0) || decide (63 < n)

/-! ### CLAIM NEXT and ASSIGN (R83, R85) -/

/-- CLAIM NEXT for a typist with its link's eligibility, taken (R83). -/
def claimedNext (s : State) (person : Nat) (elig : BitVec 3) : Ans :=
  match s.firstEligible elig with
  | none => refuse .empty s
  | some t =>
    let s1 := s.giveTake t person
    done s1 [.ref (s.takeRef t), .ref (s.takeBody t).job, .num 1 (s1.takeBody t).state.code]

/-- CLAIM NEXT (R83). -/
def execClaimNext (l : Fin 16) (s : State) : Host.Outcome State Fault Refusal :=
  serve (.station l) .claimNext s fun p s =>
    checked s [(decide (Config.holdLimit ≤ s.hold p.person), .limit)] (claimedNext s p.person (s.link l).elig)

/-- ASSIGN, taken (R85). -/
def assignedTake (s : State) (r : Ref) (person : Nat) : Ans := done (s.giveTake r.idx person)

/-- ASSIGN (R85). -/
def execAssign (r : Ref) (person : Nat) (s : State) : Host.Outcome State Fault Refusal :=
  serve .console (.assign r person) s fun _ s =>
    let t := s.takeBody r.idx
    checked s
      ((personOut person, .range) :: takeChecks s r ++
        [(decide ((s.job t.job.idx).state = .retiring) ||
            (decide (t.state ≠ .ready) && decide (t.state ≠ .opened)), .state),
          (decide (Config.holdLimit ≤ s.hold person), .limit)])
      (assignedTake s r person)

/-! ### RETURN TAKE, REVOKE, REWORK (R87 to R89) -/

/-- RETURN TAKE, taken: a CLOSED job whose takes are now all RETURNED has a completion report sent (R87, R91). -/
def returnedTake (s : State) (r : Ref) (person : Nat) : Ans :=
  let job := (s.takeBody r.idx).job
  let s1 := (s.updTakeBody r.idx fun b => { b with state := .returned, resume := none }).setHold person
    (s.hold person - 1)
  done (if (s1.job job.idx).state = .closed ∧ s1.allReturned job.idx = true then
      { s1 with reports := s1.reports ++ [job] }
    else s1)

/-- RETURN TAKE (R87). -/
def execReturnTake (l : Fin 16) (r : Ref) (s : State) : Host.Outcome State Fault Refusal :=
  serve (.station l) (.returnTake r) s fun p s =>
    let t := s.takeBody r.idx
    checked s
      (takeChecks s r ++
        [(t.typist.isNone, .state), (decide (t.typist ≠ some p.person), .notPermitted),
          (decide (t.state = .following) || decide (t.state = .returned), .state), (s.anyLoaded r, .busy)])
      (returnedTake s r p.person)

/-- REVOKE, taken: CLAIMED becomes READY and queued, FOLLOWING becomes OPEN and queued under follow-behind, and every
channel that has the take loaded stops (R88). -/
def revokedTake (s : State) (r : Ref) : Ans :=
  let t := s.takeBody r.idx
  let person := t.typist.getD 0
  let s1 := (s.setHold person (s.hold person - 1)).updTakeBody r.idx fun b =>
    { b with typist := none, state := if b.state = .following then .opened else .ready }
  let s2 := if t.state = .claimed ∨ (s.job t.job.idx).follow = true then s1.enterQueue r.idx else s1
  done (s2.revokeLoaded r true)

/-- REVOKE (R88). -/
def execRevoke (r : Ref) (s : State) : Host.Outcome State Fault Refusal :=
  serve .console (.revoke r) s fun _ s =>
    let t := s.takeBody r.idx
    checked s (takeChecks s r ++ [(decide (t.state ≠ .claimed) && decide (t.state ≠ .following), .state)])
      (revokedTake s r)

/-- The job of a reworked take: COMPLETE and RELEASING become CLOSED, the release forgotten (R89). -/
def State.reopenJob (s : State) (j : Nat) : State :=
  s.updJob j fun x =>
    if x.state = .complete ∨ x.state = .releasing then { x with state := .closed, release := none } else x

/-- REWORK, taken (R89). -/
def reworkedTake (s : State) (r : Ref) (person : Option Nat) : Ans :=
  let j := (s.takeBody r.idx).job.idx
  match person with
  | none =>
    done (((s.updTakeBody r.idx fun b => { b with state := .ready, typist := none }).enterQueue r.idx).reopenJob j)
  | some n =>
    done (((s.updTakeBody r.idx fun b => { b with state := .claimed, typist := some n }).setHold n (s.hold n + 1)).reopenJob
      j)

/-- REWORK (R89). -/
def execRework (r : Ref) (person : Option Nat) (s : State) : Host.Outcome State Fault Refusal :=
  serve .console (.rework r person) s fun _ s =>
    let t := s.takeBody r.idx
    let j := s.job t.job.idx
    checked s
      (((match person with | some n => personOut n | none => false), .range) :: takeChecks s r ++
        [(decide (j.state = .retiring) || decide (t.state ≠ .returned), .state), (j.exportBusy, .busy),
          ((match person with | some n => decide (Config.holdLimit ≤ s.hold n) | none => false), .limit)])
      (reworkedTake s r person)

/-! ### Reading (R92) -/

/-- A take's rank in the ready queue, counted from 0 (R92). -/
def State.rank (s : State) (t : Nat) : Option Nat := if s.ready.contains t then some (s.ready.idxOf t) else none

/-- A party may read a take (R92). -/
def State.mayReadTake (s : State) (p : Party) (t : TakeBody) : Bool :=
  p.owns (s.job t.job.idx) || (p.isTypist && decide (t.typist = some p.person))

/-- READ TAKE, taken (R92): the fixed results, then those present only at times. The rank takes 2 bytes and the frame count 3
(the model's choice, assumption 20). -/
def takeRead (s : State) (r : Ref) : Ans :=
  let t := s.takeBody r.idx
  { code := .done, state := s
    result :=
      { fixed := [.ref t.job, .num 1 t.state.code, .num 3 (s.takeStart t), .num 3 (s.takeFrames t)]
        optional := [Item.opt 1 t.typist, Item.opt 4 (t.seq.map BitVec.toNat), Item.optRef t.start, Item.opt 4 t.resume,
          Item.optRef t.next, Item.opt 2 (s.rank r.idx)] } }

/-- READ TAKE (R92). NOT-PERMITTED is tested before STATE (assumption 37). -/
def execReadTake (p : Port) (r : Ref) (s : State) : Host.Outcome State Fault Refusal :=
  serve p (.readTake r) s fun p s =>
    let t := s.takeBody r.idx
    checked s
      (takeChecks s r ++
        [(!s.mayReadTake p t, .notPermitted), (decide ((s.job t.job.idx).state = .retiring), .state)])
      (takeRead s r)

/-- HELD TAKES, taken: the requester's CLAIMED and FOLLOWING takes in ascending record index (R92). -/
def heldTakesList (s : State) (person : Nat) : Ans :=
  let held := s.takes.filterMap fun x =>
    match x.2.body with
    | some b => if State.heldBy b person then some (x.1, b) else none
    | none => none
  { code := .done, state := s
    result := { fixed := [.num 1 held.length]
                rest := held.flatMap fun x => [.ref (s.takeRef x.1), .ref x.2.job, .num 1 x.2.state.code] } }

/-- HELD TAKES (R92). -/
def execHeldTakes (l : Fin 16) (s : State) : Host.Outcome State Fault Refusal :=
  serve (.station l) .heldTakes s fun p s => heldTakesList s p.person

/-- QUEUE ENTRY, taken (R92). -/
def queueEntryAt (s : State) (rank : Nat) : Ans :=
  match s.ready[rank]? with
  | none => refuse .none s
  | some t =>
    let b := s.takeBody t
    let j := s.job b.job.idx
    done s [.ref (s.takeRef t), .num 1 b.state.code, .num 1 j.cls.code, .num 2 j.due.toNat, .num 4 (b.seq.getD 0).toNat]

/-- QUEUE ENTRY (R92). -/
def execQueueEntry (rank : Nat) (s : State) : Host.Outcome State Fault Refusal :=
  serve .console (.queueEntry rank) s fun _ s =>
    checked s [(decide (Config.takeRecords ≤ rank), .range)] (queueEntryAt s rank)

end Sys2Proof.Machine
end

