-- ==== Sys2Proof/Machine/Play.lean ====
section
/-! DEFINITION. The requests and pedal messages of a typist play channel and of the profiles: LOAD TAKE, PLAY, HALT, REWIND,
FORWARD, JUMP, RETURN, PLAY SETUP, SET PROFILE, READ PROFILES, and the PLAY, REWIND and FORWARD controls (chapters 7
and 8). -/

namespace Sys2Proof.Machine

/-- The reply of a positioning request: the new position with its fraction (R136, R143, R144). -/
def positionReply (s : State) (ch : Nat) : Ans :=
  done s [.num 4 (match s.playOf ch with | some p => p.pos | none => 0)]

/-! ### LOAD TAKE (R134) -/

/-- LOAD TAKE, taken (R134). The take's frame count takes 3 bytes (the model's choice, assumption 20). -/
def loadedTake (s : State) (ch : Nat) (r : Ref) : Ans :=
  let t := s.takeBody r.idx
  let pos := t.resume.getD 0
  done (s.updChan ch fun c =>
      { c with stream := .play { job := t.job, take := r, pos := pos }, chainAbort := false, noContinuation := false })
    [.num 3 (s.takeFrames t), .num 4 pos]

/-- LOAD TAKE (R134). -/
def execLoadTake (l : Fin 16) (r : Ref) (s : State) : Host.Outcome State Fault Refusal :=
  serve (.station l) (.loadTake r) s fun p s =>
    let t := s.takeBody r.idx
    checked s
      (takeChecks s r ++
        [(decide (t.typist ≠ some p.person), .notPermitted),
          ((decide (t.state ≠ .claimed) && decide (t.state ≠ .following)) ||
            decide ((s.job t.job.idx).state = .retiring), .state),
          (!(s.chan l).isIdle, .busy)])
      (loadedTake s l r)

/-! ### PLAY and HALT (R135, R145) -/

/-- PLAY request's answer; on a SUSPENDED channel it acts on the underlying state (R135). -/
def playAnswer (s : State) (ch : Nat) : Ans :=
  match s.playOf ch with
  | none => refuse .state s
  | some p =>
    checked s [(decide (p.run ≠ .paused), .already), ((s.chan ch).noContinuation, .state)] (done (s.startPlay ch p))

/-- PLAY request (R135). -/
def execPlay (l : Fin 16) (s : State) : Host.Outcome State Fault Refusal :=
  serve (.station l) .play s fun _ s => playAnswer s l

/-- HALT's answer: the resume position is written, the stream stops, and the notice follows the reply (R145). -/
def haltAnswer (s : State) (ch : Nat) : Ans :=
  match s.playOf ch with
  | none => refuse .state s
  | some p =>
    { code := .done, state := s.dropPlay ch
      after := if (s.chan ch).matrix.haltNotify then some (State.playNotice ch p .halt .stopped) else none }

/-- HALT (R145). -/
def execHalt (l : Fin 16) (s : State) : Host.Outcome State Fault Refusal :=
  serve (.station l) .halt s fun _ s => haltAnswer s l

/-! ### REWIND and FORWARD (R136) -/

/-- A count of frames lies outside 1 to 1,048,575 (R136). -/
def moveOut (n : Nat) : Bool := decide (n = 0) || decide (Config.maxCount < n)

/-- REWIND or FORWARD, taken: the position moves at once, the channel is left PAUSED and a shuttle ends (R136). -/
def moveAnswer (s : State) (ch : Nat) (dir : Shuttle) (count : Nat) : Ans :=
  match s.playOf ch with
  | none => refuse .state s
  | some p =>
    positionReply ((s.setPosition ch (s.movedPos p dir count)).updPlay ch fun p =>
      { p with run := .paused, shuttle := .none }) ch

/-- REWIND request (R136). R136 orders RANGE and STATE nowhere: a count of 0 is refused RANGE first (assumption 34). -/
def execRewind (l : Fin 16) (count : Nat) (s : State) : Host.Outcome State Fault Refusal :=
  serve (.station l) (.rewind count) s fun _ s => checked s [(moveOut count, .range)] (moveAnswer s l .rewind count)

/-- FORWARD request (R136), with the order of checks of REWIND (assumption 34). -/
def execForward (l : Fin 16) (count : Nat) (s : State) : Host.Outcome State Fault Refusal :=
  serve (.station l) (.forward count) s fun _ s => checked s [(moveOut count, .range)] (moveAnswer s l .forward count)

/-! ### JUMP and RETURN (R143, R144) -/

/-- A cue does not lie in the bound of the loaded take (R143, R65). -/
def cueOutside (s : State) (p : Play) (r : Ref) : Bool :=
  decide (s.cueJob r.idx ≠ p.job.idx) || decide (s.cuePos r.idx < s.playStart p) ||
    decide (s.playStart p + s.playFrames p ≤ s.cuePos r.idx)

/-- The checks of a JUMP on its target (R143; a cue index above 8,191: R52 and assumption 33). -/
def jumpChecks (s : State) (p : Play) : CueOrPos → List (Bool × ReplyCode)
  | .cue r => cueChecks s r ++ [(cueOutside s p r, .range)]
  | .pos t => [(decide (s.playFrames p < t), .range)]

/-- The take position of a target, in whole frames (R143). -/
def jumpPos (s : State) (p : Play) : CueOrPos → Nat
  | .cue r => s.cuePos r.idx - s.playStart p
  | .pos t => t

/-- JUMP, taken (R143). -/
def jumped (s : State) (ch : Nat) (p : Play) (t : CueOrPos) : Ans :=
  let s1 := s.updPlay ch fun q => { q with stack := p.pos :: q.stack }
  positionReply ((s1.setPosition ch (jumpPos s p t * 64)).afterJump ch) ch

/-- JUMP's answer (R143). -/
def jumpAnswer (s : State) (ch : Nat) (t : CueOrPos) : Ans :=
  match s.playOf ch with
  | none => refuse .state s
  | some p =>
    checked s (jumpChecks s p t ++ [(decide (Config.stackLimit ≤ p.stack.length), .stackFull)]) (jumped s ch p t)

/-- JUMP (R143). -/
def execJump (l : Fin 16) (t : CueOrPos) (s : State) : Host.Outcome State Fault Refusal :=
  serve (.station l) (.jump t) s fun _ s => jumpAnswer s l t

/-- RETURN's answer (R144). -/
def returnAnswer (s : State) (ch : Nat) : Ans :=
  match s.playOf ch with
  | none => refuse .state s
  | some p =>
    match p.stack with
    | [] => refuse .stackEmpty s
    | top :: rest =>
      positionReply (((s.updPlay ch fun q => { q with stack := rest }).setPosition ch top).afterJump ch) ch

/-- RETURN (R144). -/
def execReturnPlay (l : Fin 16) (s : State) : Host.Outcome State Fault Refusal :=
  serve (.station l) .returnPlay s fun _ s => returnAnswer s l

/-! ### PLAY SETUP (R147) -/

/-- A PLAY SETUP directive selects no field (R147). -/
def setupEmpty (d : PlaySetup) : Bool :=
  d.pos.isNone && d.base.isNone && d.remaining.isNone && d.baseCount.isNone && d.pattern.isNone && d.mask.isNone &&
    d.matrix.isNone && d.mode.isNone && d.window.isNone

/-- A selected value of a PLAY SETUP directive lies outside its range (R147). -/
def setupOut (n : Nat) (d : PlaySetup) : Bool :=
  (match d.pos with | some t => decide (n < t) | none => false) ||
  (match d.base with | some b => decide (b ≠ 0) && decide (n ≤ b) | none => false) ||
  (match d.remaining with | some c => decide (Config.maxCount < c) | none => false) ||
  (match d.baseCount with | some c => decide (Config.maxCount < c) | none => false) ||
  (match d.mode with | some m => decide (3 < m) | none => false) ||
  (match d.window with | some (a, b) => decide (b < a) | none => false)

/-- PLAY SETUP, taken: the selected fields are written together (R147). -/
def playSetUp (s : State) (ch : Nat) (d : PlaySetup) : Ans :=
  let s1 := s.updPlay ch fun p =>
    { p with
      base := d.base.getD p.base, remaining := d.remaining.getD p.remaining, baseCount := d.baseCount.getD p.baseCount }
  let s2 := s1.updChan ch fun c =>
    { c with
      pattern := d.pattern.getD c.pattern, mask := d.mask.getD c.mask, matrix := d.matrix.getD c.matrix
      mode := d.mode.getD c.mode, chainAbort := false
      winStart := (d.window.map Prod.fst).getD c.winStart, winEnd := (d.window.map Prod.snd).getD c.winEnd }
  done (match d.pos with
    | some t => (s2.setPosition ch (t * 64)).afterJump ch
    | none => s2)

/-- PLAY SETUP's answer (R147). -/
def playSetupAnswer (s : State) (ch : Nat) (d : PlaySetup) : Ans :=
  match s.playOf ch with
  | none => refuse .state s
  | some p => checked s [(setupEmpty d, .already), (setupOut (s.playFrames p) d, .range)] (playSetUp s ch d)

/-- PLAY SETUP (R147). -/
def execPlaySetup (l : Fin 16) (d : PlaySetup) (s : State) : Host.Outcome State Fault Refusal :=
  serve (.station l) (.playSetup d) s fun _ s => playSetupAnswer s l d

/-! ### SET PROFILE (R160, R161) -/

/-- The seal action a code names: MUTE 0, SKIP 1 (R203). -/
def sealActionOf (n : Nat) : SealAction := if n = 0 then .mute else .skip

/-- A selected value of SET PROFILE lies outside its range (R160). -/
def profileOut (f : ProfileFields) : Bool :=
  (match f.rate with | some r => decide (r < 32) || decide (128 < r) | none => false) ||
  (match f.backstep with | some b => decide (255 < b) | none => false) ||
  (match f.sealAct with | some a => decide (1 < a) | none => false) ||
  (match f.pace with | some x => decide (1 < x) | none => false)

/-- SET PROFILE selects no field (R160). -/
def profileEmpty (f : ProfileFields) : Bool :=
  f.rate.isNone && f.backstep.isNone && f.sealAct.isNone && f.pace.isNone

/-- A profile with the selected fields written (R160). -/
def writeProfile (f : ProfileFields) (p : Profile) : Profile :=
  { rate := f.rate.getD p.rate
    backstep := f.backstep.getD p.backstep
    sealAct := (f.sealAct.map sealActionOf).getD p.sealAct
    pace := (f.pace.map fun x => decide (x = 1)).getD p.pace }

/-- Each selected field already holds its value in the active copy with its mark clear (R160). -/
def profileHeld (f : ProfileFields) (p : ProfilePair) : Bool :=
  decide (writeProfile f p.active = p.active) && !(f.rate.isSome && p.rateMark) && !(f.backstep.isSome && p.backstepMark) &&
    !(f.sealAct.isSome && p.sealMark) && !(f.pace.isSome && p.paceMark)

/-- SET PROFILE IMMEDIATE: both copies are written and the marks of the selected fields cleared (R160). -/
def writeNow (f : ProfileFields) (p : ProfilePair) : ProfilePair :=
  { active := writeProfile f p.active
    stored := writeProfile f p.stored
    rateMark := p.rateMark && f.rate.isNone
    backstepMark := p.backstepMark && f.backstep.isNone
    sealMark := p.sealMark && f.sealAct.isNone
    paceMark := p.paceMark && f.pace.isNone }

/-- SET PROFILE AT-BOUNDARY: the stored copy is written, and each selected field's mark says whether it differs from the
active copy (R161). -/
def writeLater (f : ProfileFields) (p : ProfilePair) : ProfilePair :=
  let w := writeProfile f p.stored
  { active := p.active
    stored := w
    rateMark := if f.rate.isSome then decide (w.rate ≠ p.active.rate) else p.rateMark
    backstepMark := if f.backstep.isSome then decide (w.backstep ≠ p.active.backstep) else p.backstepMark
    sealMark := if f.sealAct.isSome then decide (w.sealAct ≠ p.active.sealAct) else p.sealMark
    paceMark := if f.pace.isSome then decide (w.pace ≠ p.active.pace) else p.paceMark }

/-- The pair of a profile code: A 0, B 1 (R203). -/
def pairOf (c : Channel) (profile : Nat) : ProfilePair := if profile = 0 then c.profA else c.profB

/-- SET PROFILE, taken (R160, R161). -/
def profileSet (s : State) (ch profile timing : Nat) (f : ProfileFields) : Ans :=
  done (s.updChan ch fun c =>
    let w := if timing = 0 then writeNow f (pairOf c profile) else writeLater f (pairOf c profile)
    if profile = 0 then { c with profA := w } else { c with profB := w })

/-- SET PROFILE (R160). -/
def execSetProfile (l : Fin 16) (profile timing : Nat) (f : ProfileFields) (s : State) :
    Host.Outcome State Fault Refusal :=
  serve (.station l) (.setProfile profile timing f) s fun _ s =>
    let c := s.chan l
    checked s
      [(decide (1 < profile) || decide (1 < timing) || profileOut f, .range),
        (decide (timing = 1) && c.stream.isIdle, .state),
        (profileEmpty f || profileHeld f (pairOf c profile), .already)]
      (profileSet s l profile timing f)

/-! ### READ PROFILES (R163) -/

/-- The channel a read names: the console's operand, or the station's own link (R121, R163). -/
def readChan (p : Party) (chan : Option Nat) : Nat :=
  match p with
  | .console => chan.getD 16
  | .station l _ _ => l

/-- The code of a seal action. -/
def SealAction.code : SealAction → Nat
  | .mute => 0 | .skip => 1

/-- The four fields of a copy, one byte each; pace enable is 0 for off and 1 for on (R152, R203; assumption 20). -/
def Profile.items (p : Profile) : List Item :=
  [.num 1 p.rate, .num 1 p.backstep, .num 1 p.sealAct.code, .num 1 (bit p.pace)]

/-- A pair: active copy, stored copy, marks (R163). Each pending-reload mark takes its own byte, 1 set and 0 clear (the model's
choice, assumption 20). -/
def ProfilePair.items (p : ProfilePair) : List Item :=
  p.active.items ++ p.stored.items ++
    [.num 1 (bit p.rateMark), .num 1 (bit p.backstepMark), .num 1 (bit p.sealMark), .num 1 (bit p.paceMark)]

/-- READ PROFILES, taken (R163). -/
def profilesRead (s : State) (ch : Nat) : Ans :=
  let c := s.chan ch
  done s ([.num 1 c.mode, .num 1 (match c.active with | .a => 0 | .b => 1)] ++ c.profA.items ++ c.profB.items ++
    [.num 3 c.winStart, .num 3 c.winEnd])

/-- READ PROFILES (R163). -/
def execReadProfiles (p : Port) (chan : Option Nat) (s : State) : Host.Outcome State Fault Refusal :=
  serve p (.readProfiles chan) s fun p s =>
    checked s [(decide (15 < readChan p chan), .range)] (profilesRead s (readChan p chan))

/-! ### The foot pedal (R135, R136, R189) -/

namespace State

/-- The play of a channel that a pedal message reaches: a take is loaded and the channel is not SUSPENDED (R189). -/
def pedalPlay (s : State) (l : Nat) : Option Play :=
  if s.pedalReaches l .typist && !(s.chan l).suspended then s.playOf l else none

/-- A shuttle begun or turned: PAUSED, the position moved with the effects of R137 in the event of the press (R136). That it
moves by the 8 frames of a frame period is the model's choice (assumption 8). -/
def shuttlePressed (s : State) (ch : Nat) (p : Play) (dir : Shuttle) : State :=
  (s.setPosition ch (s.movedPos p dir Config.shuttleFrames)).updPlay ch fun p => { p with run := .paused, shuttle := dir }

end State

/-- PLAY_PRESS (R135). -/
def execPlayPress (l : Fin 16) (s : State) : Host.Outcome State Fault Refusal :=
  .next (match s.pedalPlay l with
    | none => s
    | some p => if p.run = .paused ∧ (s.chan l).noContinuation = false then s.startPlay l p else s)

/-- PLAY_RELEASE (R135). -/
def execPlayRelease (l : Fin 16) (s : State) : Host.Outcome State Fault Refusal :=
  .next (match s.pedalPlay l with
    | none => s
    | some p => if p.run = .paused then s else s.pausePlay l)

/-- REWIND_PRESS (R136). -/
def execRewindPress (l : Fin 16) (s : State) : Host.Outcome State Fault Refusal :=
  .next (match s.pedalPlay l with
    | none => s
    | some p => s.shuttlePressed l p .rewind)

/-- FORWARD_PRESS (R136). -/
def execForwardPress (l : Fin 16) (s : State) : Host.Outcome State Fault Refusal :=
  .next (match s.pedalPlay l with
    | none => s
    | some p => s.shuttlePressed l p .forward)

/-- The shuttle a control holds. -/
def shuttleOf : ShuttleControl → Shuttle
  | .rewind => .rewind
  | .forward => .forward

/-- SHUTTLE_RELEASE: the release of the control held ends the shuttle; the channel stays PAUSED (R136). -/
def execShuttleRelease (l : Fin 16) (c : ShuttleControl) (s : State) : Host.Outcome State Fault Refusal :=
  .next (match s.pedalPlay l with
    | none => s
    | some p => if p.shuttle = shuttleOf c then s.updPlay l fun p => { p with shuttle := .none } else s)

end Sys2Proof.Machine
end

