-- ==== Sys2Proof/Machine/Channels.lean ====
section
/-! DEFINITION. The requests on channels and exports: BIND CHANNEL, SET FRAME TIMEOUT, READ CHANNEL, EXPORT, EXPORT STOP
(R116, R121, R127, R149, R176, R177). -/

namespace Sys2Proof.Machine

/-- A channel number names neither bulk channel, 14 nor 15. -/
def notBulk (ch : Nat) : Bool := decide (ch ≠ 14) && decide (ch ≠ 15)

/-! ### BIND CHANNEL and SET FRAME TIMEOUT (R116, R127) -/

/-- The binding a code names: LINK 0, BULK 1 (R203). -/
def bindingOf (n : Nat) : Binding := if n = 0 then .link else .bulk

/-- BIND CHANNEL, taken (R116). -/
def boundChannel (s : State) (ch : Nat) (b : Binding) : Ans :=
  done ((s.updChan ch fun c => { c with binding := b }).emptySlots ch)

/-- BIND CHANNEL (R116). -/
def execBindChannel (ch binding : Nat) (s : State) : Host.Outcome State Fault Refusal :=
  serve .console (.bindChannel ch binding) s fun _ s =>
    checked s
      [(notBulk ch || decide (1 < binding), .range), (!(s.chan ch).isIdle, .busy),
        (decide (bindingOf binding = .bulk) && decide ((s.link ch).role ≠ .vacant), .state),
        (decide ((s.chan ch).binding = bindingOf binding), .already)]
      (boundChannel s ch (bindingOf binding))

/-- SET FRAME TIMEOUT, taken (R127). -/
def timeoutSet (s : State) (ch n : Nat) : Ans := done (s.updChan ch fun c => { c with timeout := n })

/-- SET FRAME TIMEOUT (R127). -/
def execSetFrameTimeout (ch n : Nat) (s : State) : Host.Outcome State Fault Refusal :=
  serve .console (.setFrameTimeout ch n) s fun _ s =>
    checked s
      [(decide (15 < ch) || decide (n < 10) || decide (250 < n), .range), (decide ((s.chan ch).timeout = n), .already)]
      (timeoutSet s ch n)

/-! ### READ CHANNEL (R121) -/

/-- The code of a cause (section 12.4). -/
def Cause.code : Cause → Nat
  | .ended => 1 | .matched => 2 | .halt => 3 | .revoked => 4 | .storeFull => 5 | .segmentFull => 6 | .frameTimeout => 7
  | .jobHeld => 8 | .enteredInsert => 9 | .chainAbort => 10

/-- The code of an action (section 12.4). -/
def Action.code : Action → Nat
  | .reloaded => 1 | .chained => 2 | .continued => 3 | .stopped => 4

/-- The notice record (section 12.4). -/
def Notice.items (n : Notice) : List Item :=
  [.num 1 n.chan, .num 1 n.cause.code, .num 1 n.action.code,
    .num 1 (bit n.take.isSome + 2 * bit n.cue.isSome + 4 * bit n.superseded), .ref n.job, .num 4 n.pos] ++
  (match n.take with | some r => [.ref r] | none => []) ++ (match n.cue with | some r => [.ref r] | none => [])

/-- The direction code of a stream: its place in the list of R114. -/
def Stream.direction : Stream → Nat
  | .idle => 0 | .capture _ => 1 | .play _ => 2 | .readback _ => 2 | .exporting _ => 3

/-- The state code of a stream, the underlying state while SUSPENDED: its place in the list of R114. -/
def Stream.stateCode : Stream → Nat
  | .idle => 0
  | .capture c => if c.running then 1 else 2
  | .play p => (match p.run with | .running => 1 | .paused => 2 | .followWait => 3)
  | .readback _ => 1
  | .exporting _ => 1

/-- The state code of a channel (R114). -/
def Channel.stateCode (c : Channel) : Nat := if c.suspended then 4 else c.stream.stateCode

/-- The job of a stream. -/
def Stream.job : Stream → Option Ref
  | .idle => none
  | .capture c => some c.job
  | .play p => some p.job
  | .readback r => some r.job
  | .exporting e => some e.job

/-- The current position of a stream in units of 1/64 frame (R114, R118). An export's, a whole-frame job position, is sent so
too, with fraction 0 as in a notice (section 12.4; the model's choice, assumption 20). -/
def Stream.pos : Stream → Option Nat
  | .idle | .capture _ => none
  | .play p => some p.pos
  | .readback r => some r.pos
  | .exporting e => some (e.pos * 64)

/-- The remaining and base counts of a stream (R114). READ CHANNEL carries them always, with value 0 on a channel that has no
count: IDLE, a read-back and an export (the model's choice, assumption 20). -/
def Stream.counts : Stream → Nat × Nat
  | .capture c => (c.ctx.remaining, c.ctx.base)
  | .play p => (p.remaining, p.baseCount)
  | .idle | .readback _ | .exporting _ => (0, 0)

/-- The depth of the return stack (R114). READ CHANNEL carries it always, 0 on a channel that has no stack (the model's choice,
assumption 20). -/
def Stream.depth : Stream → Nat
  | .play p => p.stack.length
  | .idle | .capture _ | .readback _ | .exporting _ => 0

/-- The code of a capture mode: its place in the list of R114. -/
def CapMode.code : CapMode → Nat
  | .append => 0 | .insert => 1 | .overwrite => 2

/-- The bits of an action matrix (section 12.8). -/
def Matrix.bits (m : Matrix) : Nat :=
  bit m.endReload + 2 * bit m.endChain + 4 * bit m.endNotify + 8 * bit m.matchReload + 16 * bit m.matchChain +
    32 * bit m.matchNotify + 256 * bit m.haltNotify

/-- The code of a binding. -/
def Binding.code : Binding → Nat
  | .link => 0 | .bulk => 1

/-- READ CHANNEL, taken (R121): the fixed results, then those that may be absent. Each status mark takes its own byte, 1 set and
0 clear (the model's choice, assumption 20). -/
def channelRead (s : State) (ch : Nat) : Ans :=
  let c := s.chan ch
  let cap := s.captureOf ch
  { code := .done, state := s
    result :=
      { fixed := [.num 1 c.binding.code, .num 1 c.stream.direction, .num 1 c.stateCode, .num 1 (bit (s.isReadback ch)),
          .num 3 c.stream.counts.1, .num 3 c.stream.counts.2, .num 2 (Matrix.bits c.matrix), .num 1 c.stream.depth,
          .num 1 (bit (s.waitingForStore ch)), .num 1 (bit c.chainAbort), .num 1 (bit c.noContinuation),
          .num 1 (bit c.secondNotice), .num 1 c.timeout]
        optional := [if c.suspended then some [.num 1 c.stream.stateCode] else none, Item.optRef c.stream.job,
          Item.optRef c.loaded, Item.opt 4 c.stream.pos,
          cap.map fun x => [.num 3 (s.anchorPos x.job.idx x.ctx.point)], cap.map fun x => [.num 1 x.ctx.mode.code],
          cap.map fun x => [.num 1 x.ctx.sealClass], c.slot.map Notice.items, c.second.map Notice.items] } }

/-- READ CHANNEL (R121). -/
def execReadChannel (p : Port) (chan : Option Nat) (s : State) : Host.Outcome State Fault Refusal :=
  serve p (.readChannel chan) s fun p s =>
    checked s [(decide (15 < readChan p chan), .range)] (channelRead s (readChan p chan))

/-! ### EXPORT and EXPORT STOP (R149, R176, R177) -/

/-- The export buffer holds frames of a channel (R149). -/
def State.holdsEntries (s : State) (ch : Nat) : Bool := s.buffer.any fun b => b.chan == ch

/-- EXPORT, taken; an export that has no frame to claim ends at once (R149, R151). Sealed choice code 1 is
EXCLUDE-SEALED; bit 0 of the notify byte is END NOTIFY and bit 1 HALT NOTIFY. -/
def startedExport (s : State) (r : Ref) (ch choice notify : Nat) : Ans :=
  let e : Exporting := { job := r, excludeSealed := decide (choice = 1) }
  let s1 := (s.updJob r.idx fun j => { j with exportBusy := true }).updChan ch fun c =>
    { c with
      stream := .exporting e
      matrix := { c.matrix with endNotify := notify.testBit 0, haltNotify := notify.testBit 1 } }
  if (s.job r.idx).length ≤ s.exportFrom e then
    done ((s1.updChan ch fun c => { c with stream := .exporting { e with pos := (s.job r.idx).length } }).testExportEnd ch)
  else done s1

/-- EXPORT (R176, R149). -/
def execExportJob (r : Ref) (ch choice notify : Nat) (s : State) : Host.Outcome State Fault Refusal :=
  serve .console (.exportJob r ch choice notify) s fun _ s =>
    let j := s.job r.idx
    checked s
      ((decide (1 < choice), .range) :: jobChecks s r ++
        [(decide (j.state ≠ .closed) && decide (j.state ≠ .complete) && decide (j.state ≠ .releasing), .state),
          (j.held, .held), (j.exportBusy, .busy), (notBulk ch, .range), (decide ((s.chan ch).binding = .link), .state),
          (!(s.chan ch).isIdle || s.holdsEntries ch, .busy)])
      (startedExport s r ch choice notify)

/-- EXPORT STOP (R177, R151). -/
def execExportStop (ch : Nat) (s : State) : Host.Outcome State Fault Refusal :=
  serve .console (.exportStop ch) s fun _ s =>
    checked s [(notBulk ch, .range), ((s.exportOf ch).isNone, .state)]
      (done (s.endExport ch .halt (s.chan ch).matrix.haltNotify))

end Sys2Proof.Machine
end

