-- ==== Sys2Proof/Machine/Links.lean ====
section
/-! DEFINITION. The requests of the Station Link Interface: CONFIGURE STATION, READ LINK, PEDAL MASK (R148, R183, R184). -/

namespace Sys2Proof.Machine

/-- The role a code names: VACANT 0, REPORTER 1, TYPIST 2 (R203). -/
def roleOf : Nat → Role
  | 1 => .reporter
  | 2 => .typist
  | _ => .vacant

/-- The code of a role. -/
def Role.code : Role → Nat
  | .vacant => 0 | .reporter => 1 | .typist => 2

/-- The person number, clearance and eligibility a link takes under a role (R183). -/
def personFor (role person : Nat) : Nat := if role = 1 ∨ role = 2 then person else 0
/-- The clearance a link takes under a role (R183). -/
def clearanceFor (role clearance : Nat) : Nat := if role = 2 then clearance else 0
/-- The eligibility a link takes under a role (R183). -/
def eligFor (role : Nat) (elig : Byte) : BitVec 3 := if role = 2 then elig.setWidth 3 else 0

/-- RANGE of CONFIGURE STATION, step 1 (R183). -/
def stationOut (link role person clearance : Nat) (elig : Byte) : Bool :=
  decide (15 < link) || decide (2 < role) || (decide (role = 1 ∨ role = 2) && personOut person) ||
    (decide (role = 2) && (decide (3 < clearance) || decide (7 < elig.toNat)))

/-- The person number is bound to another link in the same role (R183, step 2). -/
def State.boundElsewhere (s : State) (link role person : Nat) : Bool :=
  decide (role = 1 ∨ role = 2) &&
    (List.range 16).any fun l =>
      decide (l ≠ link) && decide ((s.link l).role = roleOf role) && decide ((s.link l).person = person)

/-- CONFIGURE STATION, taken (R183). -/
def configuredStation (s : State) (link role person clearance : Nat) (elig : Byte) : Ans :=
  let old := s.link link
  let changed := decide (old.role ≠ roleOf role) || decide (old.person ≠ personFor role person)
  let s1 := s.updLink link fun k =>
    { k with
      role := roleOf role, person := personFor role person, clearance := clearanceFor role clearance
      elig := eligFor role elig, pedalMask := if changed then false else k.pedalMask }
  done (if changed then s1.emptySlots link else s1)

/-- CONFIGURE STATION (R183). -/
def execConfigureStation (link role person clearance : Nat) (elig : Byte) (s : State) :
    Host.Outcome State Fault Refusal :=
  serve .console (.configureStation link role person clearance elig) s fun _ s =>
    let k := s.link link
    checked s
      [(stationOut link role person clearance elig || s.boundElsewhere link role person, .range),
        (decide ((s.chan link).binding = .bulk) && decide (roleOf role ≠ .vacant), .state),
        (!(s.chan link).isIdle, .busy),
        (decide (k.role = roleOf role) && decide (k.person = personFor role person) &&
          decide (k.clearance = clearanceFor role clearance) && decide (k.elig = eligFor role elig), .already)]
      (configuredStation s link role person clearance elig)

/-- READ LINK, taken (R184). -/
def linkRead (s : State) (l : Nat) : Ans :=
  let k := s.link l
  { code := .done, state := s
    result :=
      { fixed := [.num 1 (bit k.up), .num 1 k.role.code, .num 1 k.person, .num 1 k.clearance, .num 1 k.elig.toNat,
          .num 1 (bit k.pedalMask), .num 1 k.sequence.toNat, .num 1 (s.chan l).binding.code]
        optional := [k.outstanding.map fun o => [.num 1 (requestKind o.request), .num 1 o.tag.toNat]] } }

/-- READ LINK (R184). -/
def execReadLink (l : Nat) (s : State) : Host.Outcome State Fault Refusal :=
  serve .console (.readLink l) s fun _ s => checked s [(decide (15 < l), .range)] (linkRead s l)

/-- PEDAL MASK, taken: setting the mask ends a shuttle held (R148). -/
def maskSet (s : State) (l : Nat) (set : Bool) : Ans :=
  let s1 := s.updLink l fun k => { k with pedalMask := set }
  done (if set then s1.updPlay l fun p => { p with shuttle := .none } else s1)

/-- PEDAL MASK (R148). Value code 0 is SET, 1 is CLEAR (R203); a higher one is refused RANGE (assumption 31). -/
def execPedalMask (l : Fin 16) (v : Nat) (s : State) : Host.Outcome State Fault Refusal :=
  serve (.station l) (.pedalMask v) s fun _ s =>
    checked s [(decide (1 < v), .range), (decide ((s.link l).pedalMask = decide (v = 0)), .already)]
      (maskSet s l (decide (v = 0)))

end Sys2Proof.Machine
end

