-- ==== Sys2Proof/Machine/Console.lean ====
section
/-! DEFINITION. The requests of the Console Port: READ NOTICE, ACKNOWLEDGE NOTICE, BULK READ, WARM RESET (R198 to R202). -/

namespace Sys2Proof.Machine

/-! ### READ NOTICE (R198) -/

/-- The code of a store direction: its place in the list of R109 and R110. -/
def StoreDir.code : StoreDir → Nat
  | .read => 0 | .write => 1 | .scrub => 2

/-- The fixed fields of a console notice, its kind byte first (R203, R197). The free count and the threshold of POOL-LOW take 2
bytes each (the model's choice, assumption 20). -/
def ConsoleNotice.fixed : ConsoleNotice → List Item
  | .poolLow free threshold => [.num 1 1, .num 2 free, .num 2 threshold]
  | .storeError extent dir => [.num 1 2, .num 2 extent, .num 1 dir.code]
  | .linkDown link role person _ _ => [.num 1 3, .num 1 link, .num 1 role.code, .num 1 person]
  | .linkUp link role person => [.num 1 4, .num 1 link, .num 1 role.code, .num 1 person]
  | .captureEnded job cause => [.num 1 5, .ref job, .num 1 cause.code]
  | .jobComplete job => [.num 1 6, .ref job]
  | .retired job docket reporter => [.num 1 7, .ref job, .num 4 docket.toNat, .num 1 reporter]
  | .channel chan n => [.num 1 8, .num 1 chan] ++ n.items

/-- The optional fields of a console notice (R197). -/
def ConsoleNotice.optional : ConsoleNotice → List (Option (List Item))
  | .linkDown _ _ _ job take => [Item.optRef job, Item.optRef take]
  | .poolLow .. | .storeError .. | .linkUp .. | .captureEnded .. | .jobComplete .. | .retired .. | .channel .. => []

/-- READ NOTICE, taken: the oldest notice leaves; OVERFLOWED is reported and cleared (R198). -/
def noticeRead (s : State) : Ans :=
  match s.notices with
  | n :: rest =>
    { code := .done, state := { s with notices := rest, overflowed := false }
      result := { fixed := n.fixed, optional := n.optional, rest := [.num 1 rest.length, .num 1 (bit s.overflowed)] } }
  | [] =>
    { code := .none, state := { s with overflowed := false }, result := { fixed := [.num 1 (bit s.overflowed)] } }

/-- READ NOTICE (R198). -/
def execReadNotice (s : State) : Host.Outcome State Fault Refusal := serve .console .readNotice s fun _ s => noticeRead s

/-! ### ACKNOWLEDGE NOTICE (R199) -/

/-- ACKNOWLEDGE NOTICE (R199). -/
def execAcknowledgeNotice (ch : Nat) (s : State) : Host.Outcome State Fault Refusal :=
  serve .console (.acknowledgeNotice ch) s fun _ s =>
    checked s
      [(notBulk ch, .range), (decide ((s.chan ch).binding = .link), .state), ((s.chan ch).slot.isNone, .already)]
      (done (s.acknowledge ch))

/-! ### BULK READ (R200) -/

/-- The first `n` entries of a channel, and the buffer without them (R200). -/
def takeEntries (ch : Nat) : Nat → List BufEntry → List BufEntry × List BufEntry
  | 0, rest => ([], rest)
  | _ + 1, [] => ([], [])
  | n + 1, e :: rest =>
    if e.chan = ch then
      let (got, left) := takeEntries ch n rest
      (e :: got, left)
    else
      let (got, left) := takeEntries ch (n + 1) rest
      (got, e :: left)

/-- The export state of a channel: IDLE when no export runs (R200), as on a channel SUSPENDED with IDLE as its underlying
state (R177); otherwise SUSPENDED or RUNNING. The codes are those of assumption 32. -/
def State.exportState (s : State) (ch : Nat) : Nat :=
  if (s.exportOf ch).isNone then 0 else if (s.chan ch).suspended then 4 else 1

/-- BULK READ, taken (R200). -/
def bulkTaken (s : State) (ch n : Nat) : Ans :=
  let (got, left) := takeEntries ch n s.buffer
  { code := .done, state := { s with buffer := left }
    result := { fixed := [.num 1 (left.countP fun e => e.chan == ch), .num 1 (s.exportState ch)], bulk := got } }

/-- BULK READ (R200). -/
def execBulkRead (ch n : Nat) (s : State) : Host.Outcome State Fault Refusal :=
  serve .console (.bulkRead ch n) s fun _ s =>
    checked s [(notBulk ch || decide (n = 0) || decide (16 < n), .range)] (bulkTaken s ch n)

/-! ### WARM RESET (R202) -/

namespace State

/-- One channel at WARM RESET: its stream ends with no notice, both slots are emptied, and marks are cleared (R132,
R164). -/
def warmChannel (s : State) (ch : Nat) : State := (s.quiet ch).emptySlots ch

/-- One link at WARM RESET: a routed request not yet taken is answered BUSY with its tag and withdrawn (R194). -/
def warmLink (s : State) (l : Fin 16) : State :=
  match (s.link l.val).outstanding with
  | none => s
  | some o => s.reply (.station l) o.request o.tag .busy {}

/-- The store at WARM RESET: the access in progress is no longer wanted, and the scrub of the head extent starts again from
frame 0 (R113). -/
def warmStore (s : State) : State :=
  let s1 : State := { s with port := s.port.map fun a => { a with live := false, place := false } }
  s1.abandonScrub.claimScrub

/-- WARM RESET: every block takes its part in one event (R202). -/
def warm (s : State) : State :=
  let s1 := (List.range 16).foldl warmChannel s
  let s2 := s1.warmStore
  let s3 := (List.finRange 16).foldl warmLink s2
  { s3 with notices := [], overflowed := false, buffer := [], reserved := 0 }

end State

/-- WARM RESET (R202). -/
def execWarmReset (s : State) : Host.Outcome State Fault Refusal := serve .console .warmReset s fun _ s => done s.warm

end Sys2Proof.Machine
end

