-- ==== Sys2Proof/Machine/Events.lean ====
section
/-! DEFINITION. The events of the part: NOTICE-ACK, the frame period and the frame timeout, a link going DOWN or UP, RESET,
the completions of store accesses, and an export channel's claim. -/

namespace Sys2Proof.Machine
namespace State

/-! ### NOTICE-ACK (R119, R120, R192, R193) -/

/-- A NOTICE-ACK on a link: it reaches the channel while the link is UP and the channel is bound to it. -/
def noticeAck (s : State) (l : Nat) : State :=
  if (s.link l).up && decide ((s.chan l).binding = .link) then s.acknowledge l else s

/-! ### The frame period and the frame timeout (R127, R138) -/

/-- The frame timeout of a capture expires (R127). -/
def timeoutExpires (s : State) (ch : Nat) : State := s.abnormalEnd ch .frameTimeout

/-- The frame timeout counter of a RUNNING capture rises by one, and expires as it reaches the timeout (R127;
assumption 5). -/
def capturePeriod (s : State) (ch : Nat) (c : Capture) : State :=
  if !c.running then s
  else if (s.chan ch).timeout ≤ c.counter + 1 then s.timeoutExpires ch
  else s.updCapture ch fun c => { c with counter := c.counter + 1 }

/-- One frame period of a channel (R115, R127, R130, R136, R138, R142): a SUSPENDED channel does nothing (R120). -/
def framePeriodOf (s : State) (ch : Nat) : State :=
  if (s.chan ch).suspended then s
  else
    match (s.chan ch).stream with
    | .idle => s
    | .capture c => s.capturePeriod ch c
    | .play p => s.playPeriod ch p
    | .readback r => s.readbackPeriod ch r
    | .exporting _ => s

/-- The frame period at which the timeout of a RUNNING capture is reached (R127; assumption 5). -/
def frameTimeoutOf (s : State) (ch : Nat) : State :=
  match s.captureOf ch with
  | none => s
  | some c => if c.running ∧ (s.chan ch).timeout ≤ c.counter + 1 then s.timeoutExpires ch else s

/-! ### Links (R179 to R181) -/

/-- The job of a capture that a link's stop ends, for LINK-DOWN (R179). -/
def captureJob (s : State) (ch : Nat) : Option Ref := (s.captureFields ch).map Prod.fst

/-- A link goes DOWN (R180): its request is withdrawn, its unsent messages are dropped, its channel stops without a notice
and its slots are emptied unless the channel is bound to BULK, and the console receives LINK-DOWN. -/
def goDown (s : State) (l : Nat) : State :=
  let k := s.link l
  let s1 := s.updLink l fun k => { k with up := false, outstanding := none, unsent := [] }
  if (s.chan l).binding = .link then
    ((s1.quiet l).emptySlots l).raise (.linkDown l k.role k.person (s.captureJob l) (s.chan l).loaded)
  else s1.raise (.linkDown l k.role k.person none none)

/-- A link goes UP: its frame sequence becomes 0, and the console receives LINK-UP (R181). -/
def goUp (s : State) (l : Nat) : State :=
  let k := s.link l
  (s.updLink l fun k => { k with up := true, sequence := 0 }).raise (.linkUp l k.role k.person)

/-! ### RESET (R21, R50, R69, R93, R113, R132, R164, R178, R194, R201) -/

/-- The store as the RESET pin leaves it: its contents are kept, except the frame of a write in progress, which is a free
value (assumptions 11 and 12). -/
def abandonAccess (s : State) : State :=
  match s.port with
  | none => s
  | some a =>
    match a.claim.use with
    | .capture .. | .scrub => s.spoilFrame a.claim.extent a.claim.frame
    | .play _ | .bulk .. => s

/-- Power-on or the RESET pin: every block at its power-on values; the commands waiting and the store's contents stand. -/
def resetPin (s : State) : State :=
  let s1 := s.abandonAccess
  { State.reset with pending := s.pending, mem := s1.mem, freeCount := s1.freeCount }

/-! ### Completions (R34, R41, R104, R108 to R111, R139, R150) -/

/-- A capture write has completed; `a` is the access in progress (R34, R41, R110). A check of a write no longer wanted takes
the extent from the job whose tail it is by then, the write's own or another, and gives that job's newer frames in
flight for it new destinations, since a DAMAGED extent receives no new one (R111; assumption 44). -/
def captureWritten (s : State) (a : Access) (ch : Nat) (job : Ref) (data : Frame) (check : Bool) : State :=
  let e := a.claim.extent
  let f := a.claim.frame
  let s1 := s.endAccess a
  if check then
    let s2 := ((s1.spoilFrame e f).markDamaged e).raise (.storeError e .write)
    if a.live then (if s2.jobCurrent job then s2.dropTailIf job.idx e else s2).redestineFailed ch job e f
    else s2.loseTail e
  else
    let s2 := s1.writeFrame e f data
    if a.live then placeHeads ch Config.inFlightLimit (s2.markWritten ch e f) else s2

/-- A play or read-back read has completed: its frame is sent while its channel still wants it (R139, R108, R109). -/
def playReadDone (s : State) (a : Access) (ch : Nat) (check : Bool) : State :=
  let s1 := s.endAccess a
  let s2 := if check then s1.damageByRead a.claim.extent else s1
  let data := if check then silentFrame else s.readFrame a.claim.extent a.claim.frame
  if a.live then
    match (s2.chan ch).stream with
    | .play p =>
      match p.read with
      | some x => s2.frameSent ch x.prof x.pace check check data
      | none => s2
    | .readback r =>
      match r.read with
      | some x => s2.readbackSent ch x.prof x.pace check data
      | none => s2
    | .idle | .capture _ | .exporting _ => s2
  else s2

/-- A BULK read has completed: its entry fills the reserved place, or the place is freed (R150, R108, R109). -/
def exportReadDone (s : State) (a : Access) (ch pos : Nat) (check : Bool) : State :=
  let s1 := s.endAccess a
  let s2 := if check then s1.damageByRead a.claim.extent else s1
  let data := if check then silentFrame else s.readFrame a.claim.extent a.claim.frame
  let s3 : State := if a.place then { s2 with reserved := s2.reserved - 1 } else s2
  match a.live, s3.exportOf ch with
  | true, some e =>
    let entry : BufEntry := { chan := ch, pos := pos, data := data, damaged := check }
    ({ s3 with buffer := s3.buffer ++ [entry] }.updChan ch fun c =>
      { c with stream := .exporting { e with outstanding := e.outstanding - 1 } }).testExportEnd ch
  | _, _ => s3

/-- A scrub write that its engine still wants has completed good: the next frame, or the extent leaves the list FREE (R104,
R103). -/
def scrubGood (s : State) (e : Nat) : State :=
  if s.scrubNext + 1 < Config.extentFrames then { s with scrubNext := s.scrubNext + 1 }.claimScrub
  else
    let s1 := { s with scrubList := s.scrubList.tail, scrubNext := 0, formatLeft := s.formatLeft - 1 }
    ({ s1.setExt e { s1.ext e with state := .free, taint := false } with freeList := s1.freeList ++ [e] }.testLow).claimScrub

/-- A scrub write has completed (R104, R108, R110). -/
def scrubDone (s : State) (a : Access) (check : Bool) : State :=
  let e := a.claim.extent
  let s1 := s.endAccess a
  if check then ((s1.spoilFrame e a.claim.frame).markDamaged e).raise (.storeError e .scrub)
  else
    let s2 := s1.writeFrame e a.claim.frame silentFrame
    if a.live then s2.scrubGood e else s2

/-! ### An export's claim (R150) -/

/-- A RUNNING export claims its next frame: a place is free, fewer than 16 claims are outstanding, and its position is below
the job's length; under EXCLUDE-SEALED, past the segments that carry SEAL (R150, R151). -/
def bulkClaimOf (s : State) (ch : Nat) : State :=
  match s.exportOf ch with
  | none => s
  | some e =>
    let n := (s.job e.job.idx).length
    if (s.chan ch).suspended ∨ Config.bufferPlaces ≤ s.buffer.length + s.reserved ∨ Config.exportClaims ≤ e.outstanding ∨
        n ≤ e.pos then s
    else
      let q := s.exportFrom e
      match s.locate e.job.idx q with
      | none => (s.updChan ch fun c => { c with stream := .exporting { e with pos := n } }).testExportEnd ch
      | some (_, b, off) =>
        ({ s with reserved := s.reserved + 1 }.updChan ch fun c =>
          { c with stream := .exporting { e with pos := q + 1, outstanding := e.outstanding + 1 } }).makeClaim
          { extent := b.extent, frame := b.first + off, use := .bulk ch q }

end State

/-! ### Meanings. An event that cannot occur in the state at hand changes nothing (assumption 2). -/

/-- NOTICE_ACK (R119, R120). -/
def execNoticeAck (l : Fin 16) (s : State) : Host.Outcome State Fault Refusal := .next (s.noticeAck l)

/-- FRAME_PERIOD (R138, R127). -/
def execFramePeriod (ch : Fin 16) (s : State) : Host.Outcome State Fault Refusal := .next (s.framePeriodOf ch)

/-- FRAME_TIMEOUT (R127). -/
def execFrameTimeout (ch : Fin 16) (s : State) : Host.Outcome State Fault Refusal := .next (s.frameTimeoutOf ch)

/-- LINK_DOWN (R180). -/
def execLinkDown (l : Fin 16) (s : State) : Host.Outcome State Fault Refusal :=
  .next (if (s.link l).up then s.goDown l else s)

/-- LINK_UP (R181). -/
def execLinkUp (l : Fin 16) (s : State) : Host.Outcome State Fault Refusal :=
  .next (if (s.link l).up then s else s.goUp l)

/-- RESET (R201). -/
def execReset (s : State) : Host.Outcome State Fault Refusal := .next s.resetPin

/-- CAPTURE_WRITE_COMPLETION: the access in progress is a capture write, and it completes (R34, R110). -/
def execCaptureWriteCompletion (check : Bool) (s : State) : Host.Outcome State Fault Refusal :=
  .next (match s.port with
    | none => s
    | some a =>
      match a.claim.use with
      | .capture ch job data => s.captureWritten a ch job data check
      | .play _ | .bulk .. | .scrub => s)

/-- PLAY_READ_COMPLETION: the access in progress is a play or read-back read, and it completes (R139, R109). -/
def execPlayReadCompletion (check : Bool) (s : State) : Host.Outcome State Fault Refusal :=
  .next (match s.port with
    | none => s
    | some a =>
      match a.claim.use with
      | .play ch => s.playReadDone a ch check
      | .capture .. | .bulk .. | .scrub => s)

/-- EXPORT_READ_COMPLETION: the access in progress is a BULK read, and it completes (R150, R109). -/
def execExportReadCompletion (check : Bool) (s : State) : Host.Outcome State Fault Refusal :=
  .next (match s.port with
    | none => s
    | some a =>
      match a.claim.use with
      | .bulk ch pos => s.exportReadDone a ch pos check
      | .capture .. | .play _ | .scrub => s)

/-- SCRUB_WRITE_COMPLETION: the access in progress is a scrub write, and it completes (R104, R110). -/
def execScrubWriteCompletion (check : Bool) (s : State) : Host.Outcome State Fault Refusal :=
  .next (match s.port with
    | none => s
    | some a =>
      match a.claim.use with
      | .scrub => s.scrubDone a check
      | .capture .. | .play _ | .bulk .. => s)

/-- BULK_CLAIM (R150). -/
def execBulkClaim (ch : Fin 16) (s : State) : Host.Outcome State Fault Refusal := .next (s.bulkClaimOf ch)

end Sys2Proof.Machine
end

