-- ==== Sys2Proof/Machine/Wire.lean ====
section
/-! DEFINITION. The wire side of the ports (chapter 12): numbers and presence words as bytes, the operands of every request
kind read from bytes and written as bytes (sections 12.1, 12.3 and 12.8, R203, R204), the judgement of an inbound envelope
(R205) with the message it is, and the bytes of everything the part sends. The widths and places the manual leaves open
are those of assumption 20. -/

namespace Sys2Proof

/-- A port is the console's. -/
def Port.isConsole : Port → Bool
  | .console => true
  | .station _ => false

namespace Machine

/-- The request has the form its port carries: the console names a job and a position, or a channel, where a station's
request works from its own link's channel (R65, R121, R163). -/
def fitsPort (console : Bool) : Request → Bool
  | .cueAt at_ => at_.isSome == console
  | .findCue at_ _ _ _ _ => at_.isSome == console
  | .readChannel chan => chan.isSome == console
  | .readProfiles chan => chan.isSome == console
  | _ => true

/-! ### Bytes -/

/-- A number as `n` bytes, the most significant first (chapter 12). -/
def toBytes : Nat → Nat → List Byte
  | 0, _ => []
  | n + 1, v => toBytes n (v / 256) ++ [BitVec.ofNat 8 v]

/-- The number that bytes spell, the most significant first (chapter 12). -/
def ofBytes (bytes : List Byte) : Nat := bytes.foldl (fun n b => n * 256 + b.toNat) 0

/-- The 64 bytes of a frame, in the order of their store addresses (R94; assumption 20). -/
def frameBytes (f : Frame) : List Byte := (toBytes Config.frameBytes f.toNat).reverse

/-- The frame that 64 bytes spell. -/
def frameOf (bytes : List Byte) : Frame := BitVec.ofNat 512 (ofBytes bytes.reverse)

/-- The presence word of optional parts: bit i set when the (i + 1)th part is present (R203, R204). -/
def presenceOf {α : Type} : List (Option α) → Nat
  | [] => 0
  | o :: rest => bit o.isSome + 2 * presenceOf rest

/-- Optional parts on the wire: the presence word, and the parts present in ascending order of their bits; an absent part
takes no bytes (R204). -/
def partsBytes (width : Nat) (parts : List (Option (List Byte))) : List Byte :=
  toBytes width (presenceOf parts) ++ (parts.filterMap id).flatten

/-! ### Operands read from bytes -/

/-- A reader: what it reads from the front of some bytes, with the bytes after it, or none where they do not fit. -/
abbrev Reader (α : Type) := StateT (List Byte) Option α

namespace Reader

/-- A number of `n` bytes (section 12.1). -/
def num (n : Nat) : Reader Nat := fun bytes => if bytes.length < n then none else some (ofBytes (bytes.take n), bytes.drop n)

/-- A value of `w` bits in `n` bytes; the bits above it are disregarded (R204). -/
def bits (n w : Nat) : Reader (BitVec w) := do return BitVec.ofNat w (← num n)

/-- A record reference (section 12.1). -/
def ref : Reader Ref := do return ⟨← num 2, ← bits 1 8⟩

/-- A presence word of `n` bytes over so many parts; a bit set beyond them does not fit (R204). -/
def presence (n parts : Nat) : Reader Nat := fun bytes =>
  match num n bytes with
  | some (w, rest) => if w < 2 ^ parts then some (w, rest) else none
  | none => none

/-- The part of one presence bit. -/
def part {α : Type} (w i : Nat) (r : Reader α) : Reader (Option α) := if w.testBit i then some <$> r else pure none

/-- An optional operand, preceded by a presence word of its own (R203). -/
def optional {α : Type} (r : Reader α) : Reader (Option α) := do part (← presence 1 1) 0 r

/-- One of several forms, after its selector; a selector beyond the forms does not fit (R203, R204). -/
def oneOf {α : Type} (forms : List (Reader α)) : Reader α := fun bytes =>
  match num 1 bytes with
  | some (w, rest) =>
    match forms[w]? with
    | some r => r rest
    | none => none
  | none => none

/-- A search key: docket, reporter, class, state and held, each in its encoding (R20, section 12.1). -/
def key : Reader JobKey := do return ⟨← bits 4 32, ← bits 1 6, ← bits 1 2, ← bits 1 3, ← bits 1 1⟩

/-- One window of SET BANK MAP (R96): an enable byte of code 1 for enabled and 0 for not, the base group and the group mask,
one byte each (codes and widths: the model's choice, assumption 20). -/
def window : Reader WindowSpec := do return ⟨← num 1, ← num 1, ← num 1⟩

/-- The action matrix (section 12.8); bits 6, 7 and above 8 are disregarded. -/
def matrix : Reader Matrix := do
  let w ← num 2
  return { endReload := w.testBit 0, endChain := w.testBit 1, endNotify := w.testBit 2, matchReload := w.testBit 3
           matchChain := w.testBit 4, matchNotify := w.testBit 5, haltNotify := w.testBit 8 }

/-- A pair of fields. -/
def pair {α β : Type} (a : Reader α) (b : Reader β) : Reader (α × β) := do return (← a, ← b)

/-- What only the console's form of a request carries (R65, R121, R163). -/
def ifConsole {α : Type} (console : Bool) (r : Reader α) : Reader (Option α) := if console then some <$> r else pure none

/-- The place of PLACE CUE (R55, R203). -/
def place : Reader Place :=
  oneOf [do return .atPosition (← ref) (← num 3), do return .atCapturePoint (← ref),
    do return .atTakePosition (← ref) (← num 3), do return .atChannel (← ref)]

/-- The start of READBACK and the target of JUMP (R129, R143, R203). -/
def cueOrPos : Reader CueOrPos := oneOf [do return .cue (← ref), do return .pos (← num 3)]

/-- The PLAY SETUP directive (section 12.8). -/
def playSetup : Reader PlaySetup := do
  let w ← presence 2 9
  return { pos := ← part w 0 (num 3), base := ← part w 1 (num 3), remaining := ← part w 2 (num 3)
           baseCount := ← part w 3 (num 3), pattern := ← part w 4 (bits 3 20), mask := ← part w 5 (bits 3 20)
           matrix := ← part w 6 matrix, mode := ← part w 7 (num 1), window := ← part w 8 (pair (num 3) (num 3)) }

/-- The operands of a request kind, in the order its rule names them; none for an unknown kind (section 12.3, R203). The start
slot of FIND JOB, the rank of QUEUE ENTRY and the value of SET POOL THRESHOLD take 2 bytes and the count of BULK READ 1, the console's FIND CUE names
its job and position before its direction, and the three END enables of CAPTURE SETUP share one byte with RELOAD, CHAIN and
NOTIFY from bit 0 (the model's choices, assumption 20). -/
def request (console : Bool) : Nat → Reader Request
  | 1 => do return .openJob (← bits 4 32) (← num 1) (← bits 2 16)
  | 2 => do return .createJob (← num 1) (← bits 4 32) (← num 1) (← bits 2 16) (← num 1)
  | 3 => do return .attach (← ref)
  | 4 => do return .detach (← ref)
  | 5 => do return .closeDictation (← ref)
  | 6 => do
    let job ← ref
    let w ← presence 1 4
    return .setJobAttributes job { docket := ← part w 0 (bits 4 32), cls := ← part w 1 (num 1)
                                   due := ← part w 2 (bits 2 16), follow := ← part w 3 (num 1) }
  | 7 => do return .readJob (← ref)
  | 8 => do return .findJob (← num 2) (← key) (← key)
  | 9 => do return .hold (← ref)
  | 10 => do return .unhold (← ref)
  | 11 => do return .release (← ref)
  | 12 => pure .retiringStatus
  | 16 => do return .readSegment (← ref)
  | 17 => do return .sealRange (← ref) (← num 3) (← num 3) (← num 1)
  | 18 => do return .paceRange (← ref) (← num 3) (← num 3) (← oneOf [some <$> num 1, pure none])
  | 24 => do return .placeCue (← num 1) (← bits 2 16) (← place)
  | 25 => do return .removeCue (← ref)
  | 26 => do return .readCue (← ref)
  | 27 => do return .cueAt (← ifConsole console (pair ref (num 3)))
  | 28 => do return .lastCue (← ref)
  | 29 => do
    return .findCue (← ifConsole console (pair ref (num 3))) (← num 1) (← bits 3 20) (← bits 3 20) (← optional ref)
  | 32 => pure .claimNext
  | 33 => do return .assign (← ref) (← num 1)
  | 34 => do return .returnTake (← ref)
  | 35 => do return .revoke (← ref)
  | 36 => do return .rework (← ref) (← optional (num 1))
  | 37 => do return .readTake (← ref)
  | 38 => pure .heldTakes
  | 39 => do return .queueEntry (← num 2)
  | 48 => do return .setBankMap (← window) (← window) (← window) (← window)
  | 49 => pure .format
  | 50 => do return .setPoolThreshold (← num 2)
  | 51 => do return .setBulkPriority (← num 1) (← num 1) (← num 1) (← num 1) (← num 1)
  | 52 => do return .readExtent (← num 2)
  | 53 => pure .readPool
  | 64 => do return .setCaptureMode (← oneOf [pure .append, do return .insert (← num 3), do return .overwrite (← num 3)])
  | 65 => do return .sealMode (← num 1)
  | 66 => do
    let remaining ← num 3
    let base ← num 3
    let w ← num 1
    return .captureSetup remaining base (w.testBit 0) (w.testBit 1) (w.testBit 2)
  | 67 => pure .record
  | 68 => pure .pause
  | 69 => do return .readback (← bits 2 16) (← cueOrPos)
  | 70 => pure .readbackEnd
  | 72 => pure .play
  | 73 => do return .loadTake (← ref)
  | 74 => pure .halt
  | 75 => do return .rewind (← num 3)
  | 76 => do return .forward (← num 3)
  | 77 => do return .jump (← cueOrPos)
  | 78 => pure .returnPlay
  | 79 => do return .playSetup (← playSetup)
  | 80 => do
    let profile ← num 1
    let timing ← num 1
    let w ← presence 1 4
    return .setProfile profile timing { rate := ← part w 0 (num 1), backstep := ← part w 1 (num 1)
                                        sealAct := ← part w 2 (num 1), pace := ← part w 3 (num 1) }
  | 81 => do return .readProfiles (← ifConsole console (num 1))
  | 88 => do return .bindChannel (← num 1) (← num 1)
  | 89 => do return .setFrameTimeout (← num 1) (← num 1)
  | 90 => do return .readChannel (← ifConsole console (num 1))
  | 91 => do return .exportJob (← ref) (← num 1) (← num 1) (← num 1)
  | 92 => do return .exportStop (← num 1)
  | 96 => do
    let link ← num 1
    oneOf [pure (.configureStation link 0 0 0 0), do return .configureStation link 1 (← num 1) 0 0,
      do return .configureStation link 2 (← num 1) (← num 1) (← bits 1 8)]
  | 97 => do return .readLink (← num 1)
  | 98 => do return .pedalMask (← num 1)
  | 104 => pure .readNotice
  | 105 => do return .acknowledgeNotice (← num 1)
  | 106 => do return .bulkRead (← num 1) (← num 1)
  | 107 => pure .warmReset
  | _ => fun _ => none

end Reader

/-- The request that a kind byte and operands spell on a port: its operands fill its layout exactly (R205); none otherwise. -/
def parseRequest (console : Bool) (kind : Nat) (operands : List Byte) : Option Request :=
  match Reader.request console kind operands with
  | some (r, []) => some r
  | _ => none

/-! ### Operands written as bytes -/

/-- A reference on the wire (section 12.1). -/
def refBytes (r : Ref) : List Byte := toBytes 2 r.idx ++ [r.issue]

/-- A search key on the wire (R20). -/
def keyBytes (k : JobKey) : List Byte :=
  toBytes 4 k.docket.toNat ++ toBytes 1 k.reporter.toNat ++ toBytes 1 k.cls.toNat ++ toBytes 1 k.state.toNat ++
    toBytes 1 k.held.toNat

/-- A job and a position in it, where the console's request names them (R65). -/
def boundBytes : Option (Ref × Nat) → List Byte
  | none => []
  | some (job, p) => refBytes job ++ toBytes 3 p

/-- An optional operand with its presence word (R203). -/
def optionalBytes (o : Option (List Byte)) : List Byte := partsBytes 1 [o]

/-- A start or a target with its selector (R203). -/
def cueOrPosBytes : CueOrPos → List Byte
  | .cue c => toBytes 1 0 ++ refBytes c
  | .pos p => toBytes 1 1 ++ toBytes 3 p

/-- A place with its selector (R203). -/
def placeBytes : Place → List Byte
  | .atPosition job p => toBytes 1 0 ++ refBytes job ++ toBytes 3 p
  | .atCapturePoint job => toBytes 1 1 ++ refBytes job
  | .atTakePosition take t => toBytes 1 2 ++ refBytes take ++ toBytes 3 t
  | .atChannel take => toBytes 1 3 ++ refBytes take

/-- A window on the wire (R96). -/
def windowBytes (w : WindowSpec) : List Byte := toBytes 1 w.enable ++ toBytes 1 w.base ++ toBytes 1 w.mask

/-- The action matrix as a number (section 12.8). -/
def matrixWord (m : Matrix) : Nat :=
  bit m.endReload + 2 * bit m.endChain + 4 * bit m.endNotify + 8 * bit m.matchReload + 16 * bit m.matchChain +
    32 * bit m.matchNotify + 256 * bit m.haltNotify

/-- The PLAY SETUP directive on the wire (section 12.8). -/
def playSetupBytes (d : PlaySetup) : List Byte :=
  partsBytes 2
    [d.pos.map (toBytes 3), d.base.map (toBytes 3), d.remaining.map (toBytes 3), d.baseCount.map (toBytes 3),
      d.pattern.map fun x => toBytes 3 x.toNat, d.mask.map fun x => toBytes 3 x.toNat,
      d.matrix.map fun m => toBytes 2 (matrixWord m), d.mode.map (toBytes 1),
      d.window.map fun w => toBytes 3 w.1 ++ toBytes 3 w.2]

/-- The operands of a request on the wire (section 12.3, R203). -/
def operandBytes : Request → List Byte
  | .openJob d c u => toBytes 4 d.toNat ++ toBytes 1 c ++ toBytes 2 u.toNat
  | .createJob n d c u f => toBytes 1 n ++ toBytes 4 d.toNat ++ toBytes 1 c ++ toBytes 2 u.toNat ++ toBytes 1 f
  | .attach r | .detach r | .closeDictation r | .readJob r | .hold r | .unhold r | .release r | .readSegment r
  | .removeCue r | .readCue r | .lastCue r | .returnTake r | .revoke r | .readTake r | .loadTake r => refBytes r
  | .setJobAttributes r a =>
    refBytes r ++ partsBytes 1 [a.docket.map fun d => toBytes 4 d.toNat, a.cls.map (toBytes 1),
      a.due.map fun u => toBytes 2 u.toNat, a.follow.map (toBytes 1)]
  | .findJob n p m => toBytes 2 n ++ keyBytes p ++ keyBytes m
  | .sealRange r a b c => refBytes r ++ toBytes 3 a ++ toBytes 3 b ++ toBytes 1 c
  | .paceRange r a b (some x) => refBytes r ++ toBytes 3 a ++ toBytes 3 b ++ toBytes 1 0 ++ toBytes 1 x
  | .paceRange r a b none => refBytes r ++ toBytes 3 a ++ toBytes 3 b ++ toBytes 1 1
  | .placeCue k l p => toBytes 1 k ++ toBytes 2 l.toNat ++ placeBytes p
  | .cueAt x => boundBytes x
  | .findCue x d p m t =>
    boundBytes x ++ toBytes 1 d ++ toBytes 3 p.toNat ++ toBytes 3 m.toNat ++ optionalBytes (t.map refBytes)
  | .assign r n => refBytes r ++ toBytes 1 n
  | .rework r n => refBytes r ++ optionalBytes (n.map (toBytes 1))
  | .queueEntry n | .setPoolThreshold n | .readExtent n => toBytes 2 n
  | .setBankMap a b c d => windowBytes a ++ windowBytes b ++ windowBytes c ++ windowBytes d
  | .setBulkPriority a b c d e => toBytes 1 a ++ toBytes 1 b ++ toBytes 1 c ++ toBytes 1 d ++ toBytes 1 e
  | .setCaptureMode .append => toBytes 1 0
  | .setCaptureMode (.insert p) => toBytes 1 1 ++ toBytes 3 p
  | .setCaptureMode (.overwrite p) => toBytes 1 2 ++ toBytes 3 p
  | .sealMode n | .pedalMask n | .readLink n | .exportStop n | .acknowledgeNotice n => toBytes 1 n
  | .captureSetup a b r c n => toBytes 3 a ++ toBytes 3 b ++ toBytes 1 (bit r + 2 * bit c + 4 * bit n)
  | .readback l t => toBytes 2 l.toNat ++ cueOrPosBytes t
  | .rewind n | .forward n => toBytes 3 n
  | .jump t => cueOrPosBytes t
  | .playSetup d => playSetupBytes d
  | .setProfile p t f =>
    toBytes 1 p ++ toBytes 1 t ++ partsBytes 1 [f.rate.map (toBytes 1), f.backstep.map (toBytes 1),
      f.sealAct.map (toBytes 1), f.pace.map (toBytes 1)]
  | .readProfiles c | .readChannel c => (c.map (toBytes 1)).getD []
  | .bindChannel a b | .setFrameTimeout a b | .bulkRead a b => toBytes 1 a ++ toBytes 1 b
  | .exportJob r a b c => refBytes r ++ toBytes 1 a ++ toBytes 1 b ++ toBytes 1 c
  | .configureStation l r p c e =>
    toBytes 1 l ++ toBytes 1 r ++
      (if r = 0 then [] else if r = 1 then toBytes 1 p else toBytes 1 p ++ toBytes 1 c ++ [e])
  | .retiringStatus | .claimNext | .heldTakes | .format | .readPool | .record | .pause | .readbackEnd | .play | .halt
  | .returnPlay | .readNotice | .warmReset => []

/-! ### The judgement of an envelope (R205) -/

/-- A message from a port, as its envelope spells it. A pedal message carries a control (RECORD 1, PLAY 2, REWIND 3, FORWARD
4) and whether it is a PRESS. -/
inductive Inbound where
  | request (tag : Byte) (r : Request)
  | frame (data : Frame)
  | noticeAck
  | pedal (control : Nat) (press : Bool)
  deriving DecidableEq, Repr

/-- What the receiver makes of an envelope: it is taken as a message, discarded, or answered MALFORMED with a request kind
and a tag (R205). -/
inductive Verdict where
  | message (m : Inbound)
  | discard
  | malformed (kind : Nat) (tag : Byte)
  deriving DecidableEq, Repr

/-- The verdict on a REQUEST body whose length field agrees, on a link and on the console port alike (R205; assumption 36). -/
def judgeRequest (console : Bool) (body : List Byte) : Verdict :=
  match body with
  | [] => .discard
  | [_] => .malformed 0 0
  | kind :: tag :: operands =>
    match parseRequest console kind.toNat operands with
    | some r => .message (.request tag r)
    | none => .malformed kind.toNat tag

/-- The verdict on a REQUEST body whose length field disagrees: answered when its kind and tag arrived, and
discarded otherwise, on a link and on the console port alike (R205; assumption 36). -/
def judgeCut (body : List Byte) : Verdict :=
  match body with
  | kind :: tag :: _ => .malformed kind.toNat tag
  | _ => .discard

/-- The verdict on a FRAME body: sequence, marks, 64 frame bytes (section 12.2). -/
def judgeFrame (body : List Byte) : Verdict :=
  if body.length = 66 then .message (.frame (frameOf (body.drop 2))) else .discard

/-- The verdict on a PEDAL body: a control and an action of section 12.2. -/
def judgePedal (body : List Byte) : Verdict :=
  match body with
  | [c, a] =>
    if 1 ≤ c.toNat ∧ c.toNat ≤ 4 ∧ 1 ≤ a.toNat ∧ a.toNat ≤ 2 then .message (.pedal c.toNat (decide (a.toNat = 1)))
    else .discard
  | _ => .discard

/-- The judgement of an inbound envelope, the first failing test deciding (R205). Envelope kinds: FRAME 1, REQUEST 2,
REPLY 3, NOTICE 4, NOTICE-ACK 5, PEDAL 6. -/
def judge (console : Bool) (e : Envelope) : Verdict :=
  if e.kind.toNat = 2 then
    if e.length.toNat = e.body.length then judgeRequest console e.body else judgeCut e.body
  else if e.length.toNat ≠ e.body.length then .discard
  else if e.kind.toNat = 1 then judgeFrame e.body
  else if e.kind.toNat = 5 then (if e.body.length = 0 then .message .noticeAck else .discard)
  else if e.kind.toNat = 6 then judgePedal e.body
  else .discard

/-- A verdict takes the envelope as a message. -/
def Verdict.isMessage : Verdict → Bool
  | .message _ => true
  | .discard | .malformed .. => false

/-- The command that a pedal message is on a link (section 12.2). -/
def pedalCommand (l : Fin 16) (control : Nat) (press : Bool) : Instr :=
  if control = 1 then (if press then .recordPress l else .recordRelease l)
  else if control = 2 then (if press then .playPress l else .playRelease l)
  else if control = 3 then (if press then .rewindPress l else .shuttleRelease l .rewind)
  else if press then .forwardPress l else .shuttleRelease l .forward

/-- The command that a message is at its port; the console port takes requests only (R195). -/
def messageCommand : Port → Inbound → Option Instr
  | .console, .request tag r => some (.consoleRequest tag r)
  | .console, _ => none
  | .station l, .request tag r => some (.inboundRequest l tag r)
  | .station l, .frame data => some (.frameArrival l data)
  | .station l, .noticeAck => some (.noticeAck l)
  | .station l, .pedal c press => some (pedalCommand l c press)

/-- The command that an envelope arriving at a port is: the message it spells, MALFORMED_MESSAGE when it is answered so,
none when it is discarded (R205). -/
def envelopeCommand (p : Port) (e : Envelope) : Option Instr :=
  match judge p.isConsole e with
  | .message m => messageCommand p m
  | .malformed .. => some (.malformedMessage p e)
  | .discard => none

/-- The envelope of a REQUEST (section 12.2). -/
def requestEnvelope (tag : Byte) (r : Request) : Envelope :=
  let body := toBytes 1 (requestKind r) ++ [tag] ++ operandBytes r
  { kind := 2, length := BitVec.ofNat 16 body.length, body := body }

/-! ### The bytes the part sends (sections 12.2 to 12.7, R203, R204) -/

/-- An item on the wire (section 12.1). -/
def Item.bytes : Item → List Byte
  | .num n v => toBytes n v
  | .ref r => refBytes r
  | .refOrAbsent none => toBytes 2 65535 ++ toBytes 1 0
  | .refOrAbsent (some r) => refBytes r

/-- The results of a reply on the wire: the fixed ones, then the presence word (1 byte, or 2 when there are more than 8
optional results) with the results present, for a layout that has optional results, then those that follow (R203, R204). -/
def Result.bytes (r : Result) : List Byte :=
  r.fixed.flatMap Item.bytes ++
    (if r.optional.isEmpty then []
      else partsBytes (if 8 < r.optional.length then 2 else 1) (r.optional.map fun o => o.map fun is => is.flatMap Item.bytes)) ++
    r.rest.flatMap Item.bytes

/-- An entry on the bulk path: job position, marks with bit 1 DAMAGED, 64 frame bytes; 68 bytes (section 12.2). -/
def BufEntry.bytes (e : BufEntry) : List Byte := toBytes 3 e.pos ++ toBytes 1 (2 * bit e.damaged) ++ frameBytes e.data

/-- An envelope on the wire: kind, length of the body, body (section 12.2). -/
def envelopeBytes (kind : Nat) (body : List Byte) : List Byte := toBytes 1 kind ++ toBytes 2 body.length ++ body

/-- The code of a reply (section 12.3). -/
def ReplyCode.code : ReplyCode → Nat
  | .done => 0 | .busy => 1 | .stale => 2 | .notPermitted => 3 | .state => 4 | .frozen => 5 | .held => 6
  | .directoryFull => 7 | .segmentFull => 8 | .cueFull => 9 | .takeFull => 10 | .storeFull => 11 | .empty => 12
  | .limit => 13 | .range => 14 | .already => 15 | .none => 16 | .noticePending => 17 | .stackFull => 18
  | .stackEmpty => 19 | .unformatted => 20 | .emptyTake => 21 | .malformed => 22

/-- A REPLY on the wire: request kind, tag, reply code, results (section 12.2). -/
def replyBytes (kind : Nat) (tag : Byte) (c : ReplyCode) (r : Result) : List Byte :=
  envelopeBytes 3 (toBytes 1 kind ++ [tag] ++ toBytes 1 c.code ++ r.bytes)

end Machine
end Sys2Proof
end

