-- ==== Sys2Proof/Machine/Ports.lean ====
section
/-! DEFINITION. The arrival of requests at their ports, INBOUND_REQUEST and CONSOLE_REQUEST, with the role table (R186, R188,
R195, R196), and MALFORMED_MESSAGE (R187, R205). -/

namespace Sys2Proof.Machine

/-- The roles a request kind is allowed to, reporter then typist (R188). -/
def stationRoles : Request → Bool × Bool
  | .openJob .. | .attach .. | .detach .. | .closeDictation .. | .findJob .. | .release .. => (true, false)
  | .readJob .. | .readSegment .. | .placeCue .. | .removeCue .. | .readCue .. | .cueAt .. | .lastCue .. | .findCue ..
  | .readTake .. => (true, true)
  | .claimNext | .returnTake .. | .heldTakes => (false, true)
  | .setCaptureMode .. | .sealMode .. | .captureSetup .. | .record | .readback .. | .readbackEnd => (true, false)
  | .play | .pause => (true, true)
  | .loadTake .. | .halt | .rewind .. | .forward .. | .jump .. | .returnPlay | .playSetup .. => (false, true)
  | .readChannel .. | .setProfile .. | .readProfiles .. | .pedalMask .. => (true, true)
  | .createJob .. | .setJobAttributes .. | .hold .. | .unhold .. | .retiringStatus | .sealRange .. | .paceRange ..
  | .assign .. | .revoke .. | .rework .. | .queueEntry .. | .setBankMap .. | .format | .setPoolThreshold ..
  | .setBulkPriority .. | .readExtent .. | .readPool | .bindChannel .. | .setFrameTimeout .. | .exportJob ..
  | .exportStop .. | .configureStation .. | .readLink .. | .readNotice | .acknowledgeNotice .. | .bulkRead ..
  | .warmReset => (false, false)

/-- A request kind is allowed to a link's role; none is to a VACANT link (R186, R188). -/
def allowedTo (r : Request) : Role → Bool
  | .vacant => false
  | .reporter => (stationRoles r).1
  | .typist => (stationRoles r).2

/-- The station-only request kinds (R196). -/
def stationOnly : Request → Bool
  | .openJob .. | .attach .. | .detach .. | .claimNext | .returnTake .. | .heldTakes | .setCaptureMode .. | .sealMode ..
  | .captureSetup .. | .record | .readback .. | .readbackEnd | .play | .pause | .loadTake .. | .halt | .rewind ..
  | .forward .. | .jump .. | .returnPlay | .playSetup .. | .setProfile .. | .pedalMask .. => true
  | .createJob .. | .closeDictation .. | .setJobAttributes .. | .readJob .. | .findJob .. | .hold .. | .unhold ..
  | .release .. | .retiringStatus | .readSegment .. | .sealRange .. | .paceRange .. | .placeCue .. | .removeCue ..
  | .readCue .. | .cueAt .. | .lastCue .. | .findCue .. | .assign .. | .revoke .. | .rework .. | .readTake ..
  | .queueEntry .. | .setBankMap .. | .format | .setPoolThreshold .. | .setBulkPriority .. | .readExtent ..
  | .readPool | .readProfiles .. | .bindChannel .. | .setFrameTimeout .. | .readChannel .. | .exportJob ..
  | .exportStop .. | .configureStation .. | .readLink .. | .readNotice | .acknowledgeNotice .. | .bulkRead ..
  | .warmReset => false

namespace State

/-- The link receives station traffic: it is UP (R179) and its channel is bound to it (R193). -/
def hears (s : State) (l : Nat) : Bool := (s.link l).up && decide ((s.chan l).binding = .link)

/-- A refusal replied at once on a link, with the tag of the request it refuses (R186). -/
def refuseAt (s : State) (l : Nat) (r : Request) (tag : Byte) (c : ReplyCode) : State :=
  s.handOver l (.reply (requestKind r) tag c {})

/-- A REQUEST taken by the Station Link Interface: MALFORMED, NOT-PERMITTED and BUSY in that order, otherwise it becomes
the link's outstanding request, stamped with the link's role and person number (R186). -/
def takeInbound (s : State) (l : Nat) (tag : Byte) (r : Request) : State :=
  let k := s.link l
  match firstFailing
      [(!fitsPort false r, .malformed), (!allowedTo r k.role, .notPermitted), (k.outstanding.isSome, .busy)] with
  | some c => s.refuseAt l r tag c
  | none =>
    s.updLink l fun k => { k with outstanding := some { request := r, tag := tag, role := k.role, person := k.person } }

/-- A request taken by the Console Port: MALFORMED, NOT-PERMITTED and BUSY in that order, otherwise it becomes the port's
outstanding request (R195). -/
def takeConsole (s : State) (tag : Byte) (r : Request) : State :=
  match firstFailing
      [(!fitsPort true r, .malformed), (stationOnly r, .notPermitted), (s.conOutstanding.isSome, .busy)] with
  | some c => s.handConsole ⟨requestKind r, tag, c, {}⟩
  | none => { s with conOutstanding := some { request := r, tag := tag } }

/-- The answer to an envelope judged malformed; a discarded one, or one that is a message, changes nothing (R205;
assumption 27). -/
def answerMalformed (s : State) (p : Port) : Verdict → State
  | .message _ => s
  | .discard => s
  | .malformed kind tag =>
    match p with
    | .console => s.handConsole ⟨kind, tag, .malformed, {}⟩
    | .station l => s.handOver l.val (.reply kind tag .malformed {})

end State

/-- INBOUND_REQUEST: a REQUEST arrives on a link (R186). A link that is DOWN or of a bulk-bound channel takes none (R179,
R193). -/
def execInboundRequest (l : Fin 16) (tag : Byte) (r : Request) (s : State) : Host.Outcome State Fault Refusal :=
  .next (if s.hears l then s.takeInbound l tag r else s)

/-- CONSOLE_REQUEST: a request arrives at the console port (R195). -/
def execConsoleRequest (tag : Byte) (r : Request) (s : State) : Host.Outcome State Fault Refusal :=
  .next (s.takeConsole tag r)

/-- MALFORMED_MESSAGE: an envelope arrives and is judged (R187, R205). -/
def execMalformedMessage (p : Port) (e : Envelope) (s : State) : Host.Outcome State Fault Refusal :=
  .next (match p with
    | .console => s.answerMalformed .console (judge true e)
    | .station l => if s.hears l then s.answerMalformed (.station l) (judge false e) else s)

end Sys2Proof.Machine
end

