-- ==== Sys2Proof/Machine/Retirement.lean ====
section
/-! DEFINITION. The events of the retirement sweep (R171 to R174) and the completion report (R14, R91). -/

namespace Sys2Proof.Machine
namespace State

/-- Records freed raised by one after a step that frees a record (R171). -/
def sweepCount (s : State) (j : Nat) : State :=
  s.updJob j fun x => { x with sweep := x.sweep.map fun w => { w with freed := w.freed + 1 } }

/-- The sweep goes on to its next phase (R171). -/
def sweepPhase (s : State) (j : Nat) (p : Phase) : State :=
  s.updJob j fun x => { x with sweep := some { phase := p, freed := 0 } }

end State

/-- Anchors on a swept segment move to the first frame of the new head, or to END (R172). -/
def sweptAnchor (i : Nat) (head : Option Ref) : Anchor → Anchor
  | .frame r k =>
    if r.idx = i then (match head with | some h => .frame h 0 | none => .jobEnd) else .frame r k
  | .jobEnd => .jobEnd

namespace State

/-- A sweep step that frees the head segment (R172). -/
def sweepSegment (s : State) (j i : Nat) (b : SegBody) : State :=
  let s1 := s.updJob j fun x => { x with segHead := b.next, length := x.length - b.count }
  (((s1.mapCueAnchors (sweptAnchor i b.next)).refreshParts j).freeSeg i).sweepCount j

/-- A sweep step that frees the first cue: a take that began at it has its start boundary cleared (R173). -/
def sweepCue (s : State) (j i : Nat) (b : CueBody) : State :=
  let s1 := s.updJob j fun x => { x with firstCue := b.next }
  let r := s.cueRef i
  let s2 := if b.kind = .take then
      { s1 with takes := Table.mapListed {} (fun t =>
          { t with body := t.body.map fun x => if x.start = some r then { x with start := none } else x }) s1.takes }
    else s1
  (s2.freeCue i).sweepCount j

/-- A sweep step that frees the first take (R173). -/
def sweepTake (s : State) (j i : Nat) (b : TakeBody) : State :=
  ((s.updJob j fun x => { x with takeHead := b.next, takeCount := x.takeCount - 1 }).freeTake i).sweepCount j

/-- The step that finishes a sweep: RETIRED, and the slot VACANT at the next issue (R174, R3). -/
def sweepFinish (s : State) (j : Nat) : State :=
  let x := s.job j
  let s1 := s.raise (.retired (s.jobRef j) x.docket x.reporter)
  { s1.setJob j { issue := x.issue + 1 } with retiring := s1.retiring.filter fun k => k != j }

/-- One sweep step of the job at the head of the retiring list (R171). -/
def sweepStep (s : State) : State :=
  match s.retiring with
  | [] => s
  | j :: _ =>
    match ((s.job j).sweep.getD { phase := .segments, freed := 0 }).phase with
    | .segments =>
      match s.jobSegs j with
      | (i, b) :: _ => s.sweepSegment j i b
      | [] => s.sweepPhase j .cues
    | .cues =>
      match s.jobCues j with
      | (i, b) :: _ => s.sweepCue j i b
      | [] => s.sweepPhase j .takes
    | .takes =>
      match s.jobTakes j with
      | (i, b) :: _ => s.sweepTake j i b
      | [] => s.sweepFinish j

/-- A completion report taken by the directory (R14, R91). -/
def completionReport (s : State) : State :=
  match s.reports with
  | [] => s
  | r :: rest =>
    let s1 := { s with reports := rest }
    if s1.jobCurrent r && decide ((s1.job r.idx).state = .closed) && s1.allReturned r.idx then
      (s1.updJob r.idx fun j => { j with state := .complete }).raise (.jobComplete r)
    else s1

end State

/-- SWEEP_STEP (R171); with no job retiring nothing is swept (assumption 2). -/
def execSweepStep (s : State) : Host.Outcome State Fault Refusal := .next s.sweepStep

/-- COMPLETION_REPORT: the oldest report the Hand-off Unit has sent is taken (R14, R91; assumption 38). -/
def execCompletionReport (s : State) : Host.Outcome State Fault Refusal := .next s.completionReport

end Sys2Proof.Machine
end

