-- ==== Sys2Proof/Machine/Store.lean ====
section
/-! DEFINITION. The requests of the Store Controller: bank map, FORMAT, threshold, bulk priority and the reads of its
records (chapter 5). -/

namespace Sys2Proof.Machine

/-! ### SET BANK MAP (R96) -/

/-- A window as a request gives it: enable byte 1 is enabled and 0 is not (the model's choice, assumption 20). -/
def windowOf (w : WindowSpec) : Window := { enable := decide (w.enable = 1), base := w.base, mask := w.mask }

/-- A window specification lies outside its values (R96; an enable byte above 1: assumption 31). -/
def windowOut (w : WindowSpec) : Bool := decide (1 < w.enable) || decide (15 < w.base) || decide (15 < w.mask)

/-- An extent entry under a new bank map: SCRUB when present, ABSENT otherwise, its count 0 and its taint clear (R96). -/
def mappedExt (b : BankMap) (e : Nat) (_ : Ext) : Ext := if b.present e then { state := .scrub } else {}

/-- SET BANK MAP, taken (R96). -/
def mappedBanks (s : State) (b : BankMap) : Ans :=
  done { s with bank := b, exts := Table.mapFrom {} (mappedExt b) Config.extents 0 s.exts }

/-- SET BANK MAP (R96). -/
def execSetBankMap (w0 w1 w2 w3 : WindowSpec) (s : State) : Host.Outcome State Fault Refusal :=
  serve .console (.setBankMap w0 w1 w2 w3) s fun _ s =>
    let b : BankMap := { w0 := windowOf w0, w1 := windowOf w1, w2 := windowOf w2, w3 := windowOf w3 }
    checked s
      [(windowOut w0 || windowOut w1 || windowOut w2 || windowOut w3, .range), (s.formatted, .state),
        (decide (s.bank = b), .already)]
      (mappedBanks s b)

/-! ### FORMAT (R103) -/

/-- Every job slot is VACANT and every stream channel is IDLE (R103). -/
def State.quietPart (s : State) : Bool :=
  (s.jobs.all fun j => decide (j.2.state = .vacant)) && ((List.range 16).all fun c => (s.chan c).isIdle)

/-- An extent entry after FORMAT: a present extent that is not DAMAGED becomes SCRUB (R103, step 3). -/
def formattedExt (b : BankMap) (e : Nat) (x : Ext) : Ext :=
  if b.present e && decide (x.state ≠ .damaged) then { state := .scrub } else x

/-- The extents FORMAT places on the scrub list, in ascending number (R103, step 4). -/
def State.formatList (s : State) : List Nat :=
  (List.range Config.extents).filter fun e => s.bank.present e && decide ((s.ext e).state ≠ .damaged)

/-- FORMAT, taken (R103). -/
def formattedStore (s : State) : Ans :=
  let placed := s.formatList
  let s1 := { s.abandonScrub with freeList := [], scrubList := [] }.testLow
  done { s1 with
      exts := Table.mapFrom {} (formattedExt s.bank) Config.extents 0 s1.exts
      scrubList := placed, formatLeft := placed.length, formatted := true }.claimScrub

/-- FORMAT (R103). -/
def execFormat (s : State) : Host.Outcome State Fault Refusal :=
  serve .console .format s fun _ s => checked s [(s.formatted && !s.quietPart, .state)] (formattedStore s)

/-! ### SET POOL THRESHOLD and SET BULK PRIORITY (R102, R107) -/

/-- SET POOL THRESHOLD, taken (R102). -/
def thresholdSet (s : State) (n : Nat) : Ans := done { s with threshold := n }.testLow

/-- SET POOL THRESHOLD (R102). -/
def execSetPoolThreshold (n : Nat) (s : State) : Host.Outcome State Fault Refusal :=
  serve .console (.setPoolThreshold n) s fun _ s =>
    checked s [(decide (4095 < n), .range), (decide (n = s.threshold), .already)] (thresholdSet s n)

/-- The bulk mode a code names: HOG 0, INTERLEAVE 1 (R107, R203). -/
def bulkModeOf (n : Nat) : BulkMode := if n = 0 then .hog else .interleave

/-- The code of a bulk mode. -/
def BulkMode.code : BulkMode → Nat
  | .hog => 0 | .interleave => 1

/-- A burst lies outside 1 to 16. -/
def burstOut (n : Nat) : Bool := decide (n = 0) || decide (16 < n)

/-- SET BULK PRIORITY, taken: the values are written together (R107). -/
def prioritySet (s : State) (above : Bool) (x y : BulkSetting) : Ans :=
  done { s with bulkAbove := above, bulk14 := x, bulk15 := y }

/-- SET BULK PRIORITY (R107). Placement code 0 is BULK-ABOVE, 1 is BULK-BELOW. -/
def execSetBulkPriority (placement mode14 burst14 mode15 burst15 : Nat) (s : State) : Host.Outcome State Fault Refusal :=
  serve .console (.setBulkPriority placement mode14 burst14 mode15 burst15) s fun _ s =>
    let x : BulkSetting := { mode := bulkModeOf mode14, burst := burst14 }
    let y : BulkSetting := { mode := bulkModeOf mode15, burst := burst15 }
    checked s
      [(decide (1 < placement) || decide (1 < mode14) || decide (1 < mode15) || burstOut burst14 || burstOut burst15,
          .range),
        (decide (s.bulkAbove = decide (placement = 0)) && decide (s.bulk14 = x) && decide (s.bulk15 = y), .already)]
      (prioritySet s (decide (placement = 0)) x y)

/-! ### READ EXTENT and READ POOL (R112) -/

/-- The code of an extent state: its place in the list of R97. -/
def ExtState.code : ExtState → Nat
  | .absent => 0 | .free => 1 | .inUse => 2 | .scrub => 3 | .damaged => 4

/-- The element after a value in a list: the list link of an extent (R97). -/
def nextAfter : List Nat → Nat → Option Nat
  | x :: y :: rest, e => if x = e then some y else nextAfter (y :: rest) e
  | [_], _ => none
  | [], _ => none

/-- The next extent on the free list or the scrub list (R97). -/
def State.listLink (s : State) (e : Nat) : Option Nat :=
  match nextAfter s.freeList e with
  | some n => some n
  | none => nextAfter s.scrubList e

/-- READ EXTENT, taken (R112). The reference count takes 2 bytes, the bank line 1, and the taint one byte, 1 set and 0 clear
(the model's choice, assumption 20). -/
def extentRead (s : State) (e : Nat) : Ans :=
  let x := s.ext e
  { code := .done, state := s
    result :=
      { fixed := [.num 1 x.state.code, .num 2 x.refs, .num 1 (bit x.taint)]
        optional := [Item.opt 1 (s.bank.line e), Item.opt 2 (s.listLink e)] } }

/-- READ EXTENT (R112). -/
def execReadExtent (e : Nat) (s : State) : Host.Outcome State Fault Refusal :=
  serve .console (.readExtent e) s fun _ s => checked s [(decide (Config.extents ≤ e), .range)] (extentRead s e)

/-- The fields of one window: enable, 1 for enabled and 0 for not, base group and group mask, one byte each (the model's
choice, assumption 20). -/
def Window.items (w : Window) : List Item := [.num 1 (bit w.enable), .num 1 w.base, .num 1 w.mask]

/-- The count of extents in a state (R112). -/
def State.countIn (s : State) (x : ExtState) : Nat := s.exts.countP fun e => decide (e.2.state = x)

/-- READ POOL, taken (R112). Every count of extents and the threshold take 2 bytes, and the marks one byte each
(the model's choice, assumption 20). -/
def poolRead (s : State) : Ans :=
  { code := .done, state := s
    result :=
      { fixed := [.num 1 (bit s.formatted)] ++ s.bank.w0.items ++ s.bank.w1.items ++ s.bank.w2.items ++ s.bank.w3.items ++
          [.num 2 s.freeExtents, .num 2 s.scrubList.length, .num 2 s.scrubNext, .num 2 s.formatLeft,
            .num 2 (s.countIn .inUse), .num 2 (s.countIn .damaged), .num 2 s.threshold, .num 1 (bit (!s.lowArmed)),
            .num 1 (bit (!s.bulkAbove)), .num 1 s.bulk14.mode.code, .num 1 s.bulk14.burst, .num 1 s.bulk15.mode.code,
            .num 1 s.bulk15.burst]
        optional := [Item.opt 2 s.freeList.head?, Item.opt 2 s.scrubList.head?] } }

/-- READ POOL (R112). -/
def execReadPool (s : State) : Host.Outcome State Fault Refusal := serve .console .readPool s fun _ s => poolRead s

end Sys2Proof.Machine
end

