-- ==== Sys2Proof/Machine/Dispatch.lean ====
section
/-! DEFINITION. One arm per command: the direct call of its meaning. -/

namespace Sys2Proof.Machine

/-- The effect of a command on everything but the queue. -/
def exec (i : Instr) (s : State) : Host.Outcome State Fault Refusal :=
  match i with
  | .openJob link docket cls due => Sys2Proof.Machine.execOpenJob link docket cls due s
  | .createJob reporter docket cls due follow => Sys2Proof.Machine.execCreateJob reporter docket cls due follow s
  | .attach link job => Sys2Proof.Machine.execAttach link job s
  | .detach link job => Sys2Proof.Machine.execDetach link job s
  | .closeDictation port job => Sys2Proof.Machine.execCloseDictation port job s
  | .setJobAttributes job attrs => Sys2Proof.Machine.execSetJobAttributes job attrs s
  | .readJob port job => Sys2Proof.Machine.execReadJob port job s
  | .findJob port start pattern mask => Sys2Proof.Machine.execFindJob port start pattern mask s
  | .hold job => Sys2Proof.Machine.execHold job s
  | .unhold job => Sys2Proof.Machine.execUnhold job s
  | .release port job => Sys2Proof.Machine.execRelease port job s
  | .retiringStatus => Sys2Proof.Machine.execRetiringStatus s
  | .readSegment port seg => Sys2Proof.Machine.execReadSegment port seg s
  | .sealRange job a b cls => Sys2Proof.Machine.execSealRange job a b cls s
  | .paceRange job a b pace => Sys2Proof.Machine.execPaceRange job a b pace s
  | .placeCue port kind label place => Sys2Proof.Machine.execPlaceCue port kind label place s
  | .removeCue port cue => Sys2Proof.Machine.execRemoveCue port cue s
  | .readCue port cue => Sys2Proof.Machine.execReadCue port cue s
  | .cueAt port at_ => Sys2Proof.Machine.execCueAt port at_ s
  | .lastCue port record => Sys2Proof.Machine.execLastCue port record s
  | .findCue port at_ dir pattern mask start => Sys2Proof.Machine.execFindCue port at_ dir pattern mask start s
  | .claimNext link => Sys2Proof.Machine.execClaimNext link s
  | .assign take typist => Sys2Proof.Machine.execAssign take typist s
  | .returnTake link take => Sys2Proof.Machine.execReturnTake link take s
  | .revoke take => Sys2Proof.Machine.execRevoke take s
  | .rework take typist => Sys2Proof.Machine.execRework take typist s
  | .readTake port take => Sys2Proof.Machine.execReadTake port take s
  | .heldTakes link => Sys2Proof.Machine.execHeldTakes link s
  | .queueEntry rank => Sys2Proof.Machine.execQueueEntry rank s
  | .setBankMap w0 w1 w2 w3 => Sys2Proof.Machine.execSetBankMap w0 w1 w2 w3 s
  | .format => Sys2Proof.Machine.execFormat s
  | .setPoolThreshold threshold => Sys2Proof.Machine.execSetPoolThreshold threshold s
  | .setBulkPriority placement mode14 burst14 mode15 burst15 => Sys2Proof.Machine.execSetBulkPriority placement mode14 burst14 mode15 burst15 s
  | .readExtent extent => Sys2Proof.Machine.execReadExtent extent s
  | .readPool => Sys2Proof.Machine.execReadPool s
  | .setCaptureMode link mode => Sys2Proof.Machine.execSetCaptureMode link mode s
  | .sealMode link cls => Sys2Proof.Machine.execSealMode link cls s
  | .captureSetup link remaining base reload chain notify => Sys2Proof.Machine.execCaptureSetup link remaining base reload chain notify s
  | .record link => Sys2Proof.Machine.execRecord link s
  | .pause link => Sys2Proof.Machine.execPause link s
  | .readback link label start => Sys2Proof.Machine.execReadback link label start s
  | .readbackEnd link => Sys2Proof.Machine.execReadbackEnd link s
  | .play link => Sys2Proof.Machine.execPlay link s
  | .loadTake link take => Sys2Proof.Machine.execLoadTake link take s
  | .halt link => Sys2Proof.Machine.execHalt link s
  | .rewind link count => Sys2Proof.Machine.execRewind link count s
  | .forward link count => Sys2Proof.Machine.execForward link count s
  | .jump link target => Sys2Proof.Machine.execJump link target s
  | .returnPlay link => Sys2Proof.Machine.execReturnPlay link s
  | .playSetup link setup => Sys2Proof.Machine.execPlaySetup link setup s
  | .setProfile link profile timing fields => Sys2Proof.Machine.execSetProfile link profile timing fields s
  | .readProfiles port chan => Sys2Proof.Machine.execReadProfiles port chan s
  | .bindChannel chan binding => Sys2Proof.Machine.execBindChannel chan binding s
  | .setFrameTimeout chan timeout => Sys2Proof.Machine.execSetFrameTimeout chan timeout s
  | .readChannel port chan => Sys2Proof.Machine.execReadChannel port chan s
  | .exportJob job chan choice notify => Sys2Proof.Machine.execExportJob job chan choice notify s
  | .exportStop chan => Sys2Proof.Machine.execExportStop chan s
  | .configureStation link role person clearance elig => Sys2Proof.Machine.execConfigureStation link role person clearance elig s
  | .readLink link => Sys2Proof.Machine.execReadLink link s
  | .pedalMask link value => Sys2Proof.Machine.execPedalMask link value s
  | .readNotice => Sys2Proof.Machine.execReadNotice s
  | .acknowledgeNotice chan => Sys2Proof.Machine.execAcknowledgeNotice chan s
  | .bulkRead chan count => Sys2Proof.Machine.execBulkRead chan count s
  | .warmReset => Sys2Proof.Machine.execWarmReset s
  | .malformedMessage port envelope => Sys2Proof.Machine.execMalformedMessage port envelope s
  | .noticeAck link => Sys2Proof.Machine.execNoticeAck link s
  | .frameArrival link frame => Sys2Proof.Machine.execFrameArrival link frame s
  | .recordPress link => Sys2Proof.Machine.execRecordPress link s
  | .recordRelease link => Sys2Proof.Machine.execRecordRelease link s
  | .playPress link => Sys2Proof.Machine.execPlayPress link s
  | .playRelease link => Sys2Proof.Machine.execPlayRelease link s
  | .rewindPress link => Sys2Proof.Machine.execRewindPress link s
  | .forwardPress link => Sys2Proof.Machine.execForwardPress link s
  | .shuttleRelease link control => Sys2Proof.Machine.execShuttleRelease link control s
  | .framePeriod chan => Sys2Proof.Machine.execFramePeriod chan s
  | .frameTimeout chan => Sys2Proof.Machine.execFrameTimeout chan s
  | .linkDown link => Sys2Proof.Machine.execLinkDown link s
  | .linkUp link => Sys2Proof.Machine.execLinkUp link s
  | .reset => Sys2Proof.Machine.execReset s
  | .captureWriteCompletion check => Sys2Proof.Machine.execCaptureWriteCompletion check s
  | .playReadCompletion check => Sys2Proof.Machine.execPlayReadCompletion check s
  | .exportReadCompletion check => Sys2Proof.Machine.execExportReadCompletion check s
  | .scrubWriteCompletion check => Sys2Proof.Machine.execScrubWriteCompletion check s
  | .bulkClaim chan => Sys2Proof.Machine.execBulkClaim chan s
  | .completionReport => Sys2Proof.Machine.execCompletionReport s
  | .sweepStep => Sys2Proof.Machine.execSweepStep s
  | .inboundRequest link tag request => Sys2Proof.Machine.execInboundRequest link tag request s
  | .consoleRequest tag request => Sys2Proof.Machine.execConsoleRequest tag request s

end Sys2Proof.Machine
end

