-- ==== Sys2Proof/Machine/Send.lean ====
section
/-! DEFINITION. What the part does of its own accord on an empty queue: each port sends the oldest message handed to it
(R190, R191, R195; assumption 3), and the bytes that then stand on each wire. -/

namespace Sys2Proof.Machine

/-- A message is a frame, whose sending raises the link's sequence (R190). -/
def LinkMsg.isFrame : LinkMsg → Bool
  | .frame .. => true
  | .reply .. | .notice _ => false

/-- A message on the wire, with the sequence number a frame carries (section 12.2): a REPLY, a NOTICE with its record, or a
FRAME with its marks, bit 0 SILENT and bit 1 DAMAGED. -/
def LinkMsg.bytes (sequence : Byte) : LinkMsg → List Byte
  | .reply kind tag c r => replyBytes kind tag c r
  | .notice n => envelopeBytes 4 (n.items.flatMap Item.bytes)
  | .frame silent damaged data =>
    envelopeBytes 1 ([sequence] ++ toBytes 1 (bit silent + 2 * bit damaged) ++ frameBytes data)

/-- A link with its oldest message on the transmit pair; with none, the pair carries idle symbols (R190, R191). -/
def Link.send (k : Link) : Link :=
  match k.unsent with
  | [] => { k with line := none }
  | m :: rest =>
    { k with unsent := rest, line := some (m, k.sequence), sequence := if m.isFrame then k.sequence + 1 else k.sequence }

namespace State

/-- One link sends: it is UP, and its channel is not bound to BULK (R116, R193). Messages handed over before BIND CHANNEL bound
the channel to BULK stay unsent, and leave once it is bound to LINK again (the model's choice, assumption 48). -/
def sendLink (s : State) (l : Nat) : State :=
  if (s.link l).up && decide ((s.chan l).binding = .link) then s.updLink l Link.send
  else s.updLink l fun k => { k with line := none }

/-- The console port sends its oldest reply (R195). -/
def sendConsole (s : State) : State :=
  match s.conUnsent with
  | [] => { s with conLine := none }
  | m :: rest => { s with conUnsent := rest, conLine := some m }

/-- Every port sends. -/
def sendAll (s : State) : State := ((List.range 16).foldl sendLink s).sendConsole

/-- The bytes on a link's transmit pair; none while it carries idle symbols (section 12.2). -/
def linkWire (s : State) (l : Nat) : List Byte :=
  match (s.link l).line with
  | none => []
  | some (m, sequence) => m.bytes sequence

/-- The bytes the console port sends (R195, section 12.2). -/
def consoleWire (s : State) : List Byte :=
  match s.conLine with
  | none => []
  | some m => replyBytes m.kind m.tag m.code m.result

/-- The bytes on the bulk path behind a BULK READ reply (R200, section 12.2). -/
def bulkWire (s : State) : List Byte :=
  match s.conLine with
  | none => []
  | some m => m.result.bulk.flatMap BufEntry.bytes

end State
end Sys2Proof.Machine
end

