-- ==== Sys2Proof/Safety.lean ====
section
/-! DEFINITION. The invariants of the part: what holds at reset and after every step, whatever commands arrive; and
the frames of a change to one channel or to one link. -/

namespace Sys2Proof.Machine

/-- The store's bytes and every table of records stand in their one canonical form. -/
def Canonical (s : State) : Prop :=
  Memory.wf s.mem = true ∧ Table.wf ({} : Job) s.jobs = true ∧ Table.wf ({} : Seg) s.segs = true ∧
    Table.wf ({} : Placement) s.places = true ∧ Table.wf ({} : Cue) s.cues = true ∧ Table.wf ({} : Take) s.takes = true ∧
    Table.wf (0 : Nat) s.holds = true ∧ Table.wf ({} : Ext) s.exts = true ∧ Table.wf ({} : Channel) s.chans = true ∧
    Table.wf ({} : Link) s.links = true

/-- The console notice queue holds at most 32 notices (R197). -/
def QueueBounded (s : State) : Prop := s.notices.length ≤ 32

/-- A notice waits in a channel's second slot only behind one in its current slot (R119, R120). -/
def SlotOrder (s : State) : Prop := ∀ c, (s.chan c).second.isSome = true → (s.chan c).slot.isSome = true

/-- A channel is SUSPENDED only while SECOND-NOTICE is set (R115, R120). -/
def SuspendedOnlyWaiting (s : State) : Prop := ∀ c, (s.chan c).suspended = true → (s.chan c).second.isSome = true

/-- Only channels 14 and 15 are bound to BULK, and the link of a channel bound to BULK is VACANT (R116, R193). -/
def BulkVacant (s : State) : Prop :=
  ∀ c, (s.chan c).binding = .bulk → (c = 14 ∨ c = 15) ∧ (s.link c).role = .vacant

/-- A person number is bound to at most one link in each role (R183). -/
def PersonsDistinct (s : State) : Prop :=
  ∀ a b, a < 16 → b < 16 → (s.link a).role ≠ .vacant → (s.link b).role = (s.link a).role →
    (s.link b).person = (s.link a).person → a = b

/-- The invariants together. -/
def Sound (s : State) : Prop :=
  Canonical s ∧ QueueBounded s ∧ SlotOrder s ∧ SuspendedOnlyWaiting s ∧ BulkVacant s ∧ PersonsDistinct s

/-! ### Frames -/

/-- `u` is `s` with one channel context changed to `x`, and nothing else. -/
def ChannelSetTo (s u : State) (ch : Nat) (x : Channel) : Prop :=
  u.chan ch = x ∧ (∀ k, k ≠ ch → u.chan k = s.chan k) ∧ u = { s with chans := u.chans }

/-- `u` is `s` with one channel context changed to `x` and the channel's store claims withdrawn: those waiting leave, one
granted runs on unwanted (R108), and nothing else. -/
def ChannelHaltedTo (s u : State) (ch : Nat) (x : Channel) : Prop :=
  u.chan ch = x ∧ (∀ k, k ≠ ch → u.chan k = s.chan k) ∧
    (∀ c, c ∈ u.waiting ↔ c ∈ s.waiting ∧ c.use.chan? ≠ some ch) ∧
    u.port = s.port.map (fun a => if a.claim.use.chan? = some ch then { a with live := false } else a) ∧
    u = { s with chans := u.chans, waiting := u.waiting, reserved := u.reserved, port := u.port }

/-- `u` is `s` with one link record changed to `x`, and nothing else. -/
def LinkSetTo (s u : State) (l : Nat) (x : Link) : Prop :=
  u.link l = x ∧ (∀ k, k ≠ l → u.link k = s.link k) ∧ u = { s with links := u.links }

end Sys2Proof.Machine
end

