-- ==== Sys2Proof/WellFormed.lean ====
section
/-! DEFINITION. Well-formed commands: every operand fits the field that carries it on the wire (sections 12.1 and 12.3, R203), a
request has the form its port carries, and an envelope answered MALFORMED is one that is no message. -/

namespace Sys2Proof

/-- A field of one byte. -/
def fits1 (n : Nat) : Bool := decide (n < 256)
/-- A field of two bytes. -/
def fits2 (n : Nat) : Bool := decide (n < 65536)
/-- A field of three bytes. -/
def fits3 (n : Nat) : Bool := decide (n < 16777216)
/-- A record reference: an index of two bytes and an issue number of one (section 12.1). -/
def Ref.fits (r : Ref) : Bool := fits2 r.idx

/-- A field that is present fits. -/
def fitsIf {α : Type} (f : α → Bool) : Option α → Bool
  | none => true
  | some x => f x

/-- The fields SET JOB ATTRIBUTES selects fit (R16). -/
def JobAttrs.fits (a : JobAttrs) : Bool := fitsIf fits1 a.cls && fitsIf fits1 a.follow

/-- A place of PLACE CUE fits (R55). -/
def Place.fits : Place → Bool
  | .atPosition job p => job.fits && fits3 p
  | .atCapturePoint job => job.fits
  | .atTakePosition take t => take.fits && fits3 t
  | .atChannel take => take.fits

/-- A mode of SET CAPTURE MODE fits (R124). -/
def ModeRequest.fits : ModeRequest → Bool
  | .append => true
  | .insert p | .overwrite p => fits3 p

/-- A start or a target fits (R129, R143). -/
def CueOrPos.fits : CueOrPos → Bool
  | .cue c => c.fits
  | .pos p => fits3 p

/-- A window of SET BANK MAP fits (R96). -/
def WindowSpec.fits (w : WindowSpec) : Bool := fits1 w.enable && fits1 w.base && fits1 w.mask

/-- The fields PLAY SETUP selects fit (R147). -/
def PlaySetup.fits (d : PlaySetup) : Bool :=
  fitsIf fits3 d.pos && fitsIf fits3 d.base && fitsIf fits3 d.remaining && fitsIf fits3 d.baseCount &&
    fitsIf fits1 d.mode && fitsIf (fun w => fits3 w.1 && fits3 w.2) d.window

/-- The fields SET PROFILE selects fit (R160). -/
def ProfileFields.fits (f : ProfileFields) : Bool :=
  fitsIf fits1 f.rate && fitsIf fits1 f.backstep && fitsIf fits1 f.sealAct && fitsIf fits1 f.pace

/-- A job with a position in it fits (R65). -/
def placedFits (x : Ref × Nat) : Bool := x.1.fits && fits3 x.2

/-- The operands of a request fit their fields (section 12.3). -/
def Request.wf : Request → Bool
  | .openJob _ cls _ => fits1 cls
  | .createJob reporter _ cls _ follow => fits1 reporter && fits1 cls && fits1 follow
  | .attach r | .detach r | .closeDictation r | .readJob r | .hold r | .unhold r | .release r => r.fits
  | .setJobAttributes r a => r.fits && a.fits
  | .findJob start _ _ => fits2 start
  | .readSegment r | .removeCue r | .readCue r | .lastCue r => r.fits
  | .sealRange r a b c => r.fits && fits3 a && fits3 b && fits1 c
  | .paceRange r a b pace => r.fits && fits3 a && fits3 b && fitsIf fits1 pace
  | .placeCue kind _ place => fits1 kind && place.fits
  | .cueAt at_ => fitsIf placedFits at_
  | .findCue at_ dir _ _ start => fitsIf placedFits at_ && fits1 dir && fitsIf Ref.fits start
  | .assign r n => r.fits && fits1 n
  | .returnTake r | .revoke r | .readTake r | .loadTake r => r.fits
  | .rework r n => r.fits && fitsIf fits1 n
  | .queueEntry n | .setPoolThreshold n | .readExtent n => fits2 n
  | .setBankMap w0 w1 w2 w3 => w0.fits && w1.fits && w2.fits && w3.fits
  | .setBulkPriority a b c d e => fits1 a && fits1 b && fits1 c && fits1 d && fits1 e
  | .setCaptureMode m => m.fits
  | .sealMode n | .pedalMask n | .readLink n | .exportStop n | .acknowledgeNotice n => fits1 n
  | .captureSetup a b _ _ _ => fits3 a && fits3 b
  | .readback _ t | .jump t => t.fits
  | .rewind n | .forward n => fits3 n
  | .playSetup d => d.fits
  | .setProfile p t f => fits1 p && fits1 t && f.fits
  | .readProfiles c | .readChannel c => fitsIf fits1 c
  | .bindChannel a b | .setFrameTimeout a b | .bulkRead a b => fits1 a && fits1 b
  | .exportJob r a b c => r.fits && fits1 a && fits1 b && fits1 c
  | .configureStation l r p c _ => fits1 l && decide (r ≤ 2) && fits1 p && fits1 c
  | .retiringStatus | .claimNext | .heldTakes | .format | .readPool | .record | .pause | .readbackEnd | .play | .halt
  | .returnPlay | .readNotice | .warmReset => true

/-- The request that a command stands for, with the port it came from; none for a message, a pedal event or an event of the
part. -/
def Instr.asks : Instr → Option (Port × Request)
  | .openJob l d c u => some (.station l, .openJob d c u)
  | .createJob n d c u f => some (.console, .createJob n d c u f)
  | .attach l r => some (.station l, .attach r)
  | .detach l r => some (.station l, .detach r)
  | .closeDictation p r => some (p, .closeDictation r)
  | .setJobAttributes r a => some (.console, .setJobAttributes r a)
  | .readJob p r => some (p, .readJob r)
  | .findJob p n x m => some (p, .findJob n x m)
  | .hold r => some (.console, .hold r)
  | .unhold r => some (.console, .unhold r)
  | .release p r => some (p, .release r)
  | .retiringStatus => some (.console, .retiringStatus)
  | .readSegment p r => some (p, .readSegment r)
  | .sealRange r a b c => some (.console, .sealRange r a b c)
  | .paceRange r a b x => some (.console, .paceRange r a b x)
  | .placeCue p k l f => some (p, .placeCue k l f)
  | .removeCue p r => some (p, .removeCue r)
  | .readCue p r => some (p, .readCue r)
  | .cueAt p x => some (p, .cueAt x)
  | .lastCue p r => some (p, .lastCue r)
  | .findCue p x d y m t => some (p, .findCue x d y m t)
  | .claimNext l => some (.station l, .claimNext)
  | .assign r n => some (.console, .assign r n)
  | .returnTake l r => some (.station l, .returnTake r)
  | .revoke r => some (.console, .revoke r)
  | .rework r n => some (.console, .rework r n)
  | .readTake p r => some (p, .readTake r)
  | .heldTakes l => some (.station l, .heldTakes)
  | .queueEntry n => some (.console, .queueEntry n)
  | .setBankMap a b c d => some (.console, .setBankMap a b c d)
  | .format => some (.console, .format)
  | .setPoolThreshold n => some (.console, .setPoolThreshold n)
  | .setBulkPriority a b c d e => some (.console, .setBulkPriority a b c d e)
  | .readExtent n => some (.console, .readExtent n)
  | .readPool => some (.console, .readPool)
  | .setCaptureMode l m => some (.station l, .setCaptureMode m)
  | .sealMode l c => some (.station l, .sealMode c)
  | .captureSetup l a b r c n => some (.station l, .captureSetup a b r c n)
  | .record l => some (.station l, .record)
  | .pause l => some (.station l, .pause)
  | .readback l x t => some (.station l, .readback x t)
  | .readbackEnd l => some (.station l, .readbackEnd)
  | .play l => some (.station l, .play)
  | .loadTake l r => some (.station l, .loadTake r)
  | .halt l => some (.station l, .halt)
  | .rewind l n => some (.station l, .rewind n)
  | .forward l n => some (.station l, .forward n)
  | .jump l t => some (.station l, .jump t)
  | .returnPlay l => some (.station l, .returnPlay)
  | .playSetup l d => some (.station l, .playSetup d)
  | .setProfile l p t f => some (.station l, .setProfile p t f)
  | .readProfiles p c => some (p, .readProfiles c)
  | .bindChannel a b => some (.console, .bindChannel a b)
  | .setFrameTimeout a b => some (.console, .setFrameTimeout a b)
  | .readChannel p c => some (p, .readChannel c)
  | .exportJob r a b c => some (.console, .exportJob r a b c)
  | .exportStop n => some (.console, .exportStop n)
  | .configureStation l r p c e => some (.console, .configureStation l r p c e)
  | .readLink n => some (.console, .readLink n)
  | .pedalMask l n => some (.station l, .pedalMask n)
  | .readNotice => some (.console, .readNotice)
  | .acknowledgeNotice n => some (.console, .acknowledgeNotice n)
  | .bulkRead a b => some (.console, .bulkRead a b)
  | .warmReset => some (.console, .warmReset)
  | .malformedMessage .. | .noticeAck .. | .frameArrival .. | .recordPress .. | .recordRelease .. | .playPress ..
  | .playRelease .. | .rewindPress .. | .forwardPress .. | .shuttleRelease .. | .framePeriod .. | .frameTimeout ..
  | .linkDown .. | .linkUp .. | .reset | .captureWriteCompletion .. | .playReadCompletion .. | .exportReadCompletion ..
  | .scrubWriteCompletion .. | .bulkClaim .. | .completionReport | .sweepStep | .inboundRequest ..
  | .consoleRequest .. => none

/-- A command is well formed. -/
def Instr.wf (i : Instr) : Bool :=
  match i with
  | .malformedMessage p e => !(Machine.judge p.isConsole e).isMessage
  | .inboundRequest _ _ r => r.wf
  | .consoleRequest _ r => r.wf
  | i =>
    match i.asks with
    | some (p, r) => r.wf && Machine.fitsPort p.isConsole r
    | none => true

end Sys2Proof
end

