-- ==== Sys2Proof/Certificates/Slice0/Obligations.lean ====
section
/-! DEFINITION. The statements of this row. `s.routed p r = some (who, tag)` says that request `r` is the one port `p` has routed
and its owner has not taken yet, from the party `who` with the tag `tag`; `s.reply p r tag code result` is `s` with the
reply handed back to port `p` and the port's outstanding request none. -/

open Sys2Proof Sys2Proof.Machine

/-! ### The step -/

/-- A step takes the command at the front of the queue: it is `exec` of that command on the state with the queue's rest. -/
def Obligations.StepRunsFrontCommand : Prop :=
  (∀ (c : Instr) (s : State), step { s with pending := c :: s.pending } = exec c s) ∧
    ∀ (c : Instr) (rest : List Instr) (s : State), s.pending = c :: rest → step s = exec c { s with pending := rest }

/-- On an empty queue each port sends its oldest message (the model's choice, assumption 3): every link that is UP and whose
channel is bound to it, and the console port. A frame takes the link's sequence number, which then rises by one (R190). -/
def Obligations.EmptyQueueSendsOldest : Prop :=
  ∀ s : State, s.pending = [] → ∃ t, step s = .next t ∧ t.pending = [] ∧
    (∀ l m rest, l < 16 → (s.link l).up = true → (s.chan l).binding = .link → (s.link l).unsent = m :: rest →
      t.link l = { s.link l with
        unsent := rest, line := some (m, (s.link l).sequence)
        sequence := if m.isFrame then (s.link l).sequence + 1 else (s.link l).sequence }) ∧
    (∀ m rest, s.conUnsent = m :: rest → t.conUnsent = rest ∧ t.conLine = some m) ∧
    t.jobs = s.jobs ∧ t.segs = s.segs ∧ t.cues = s.cues ∧ t.takes = s.takes ∧ t.exts = s.exts ∧ t.chans = s.chans ∧
    t.mem = s.mem ∧ t.notices = s.notices ∧ t.buffer = s.buffer

/-- Every command answers a next state, and takes nothing from the queue and adds nothing to it: no command stops the part.
That no fault and no refusal exists, and that an event which cannot occur changes nothing instead, are the model's
choices (assumptions 29 and 2). -/
def Obligations.EveryCommandAnswers : Prop := ∀ (c : Instr) (s : State), ∃ t, exec c s = .next t ∧ t.pending = s.pending

/-! ### Routing and replies -/

/-- What it is for a request to be routed, and what a reply does: the outstanding request of the port becomes none, and the
reply joins the messages of the port, on a link only while it is UP and its channel is bound to it (the model's reading,
assumption 1). A request for the channel of a link is not routed while that channel is bound to BULK (R116; that it then
waits is the model's choice, assumption 43). The bytes of a reply: its envelope, and after the fixed results the presence
word, 1 byte or 2 for more than 8 optional results, with bit i set for the (i + 1)th of them, then the results present in
ascending order (R203, R204; sections 12.2 and 12.3). -/
def Obligations.RoutedRequestsAndReplies : Prop :=
  (∀ (s : State) (r : Request) (w : Party) (tag : Byte),
    s.routed .console r = some (w, tag) ↔ w = .console ∧ s.conOutstanding = some ⟨r, tag⟩) ∧
  (∀ (s : State) (l : Fin 16) (r : Request) (w : Party) (tag : Byte), s.routed (.station l) r = some (w, tag) ↔
    ((s.chan l).binding = .link ∨ (match r with
      | .openJob .. | .attach .. | .setCaptureMode .. | .sealMode .. | .captureSetup .. | .record | .readback ..
      | .readbackEnd | .play | .pause | .loadTake .. | .halt | .rewind .. | .forward .. | .jump .. | .returnPlay
      | .playSetup .. | .readChannel .. | .setProfile .. | .readProfiles .. => False
      | _ => True)) ∧
    ∃ role person, w = .station l role person ∧ (s.link l).outstanding = some ⟨r, tag, role, person⟩) ∧
  (∀ (s : State) (r : Request) (tag : Byte) (c : ReplyCode) (res : Result), s.reply .console r tag c res =
    { s with conOutstanding := none, conUnsent := s.conUnsent ++ [⟨requestKind r, tag, c, res⟩] }) ∧
  (∀ (s : State) (l : Fin 16) (r : Request) (tag : Byte) (c : ReplyCode) (res : Result),
    (s.reply (.station l) r tag c res).link l = { s.link l with
      outstanding := none
      unsent := if (s.link l).up = true ∧ (s.chan l).binding = .link then
          (s.link l).unsent ++ [.reply (requestKind r) tag c res] else (s.link l).unsent } ∧
    (∀ k, k ≠ l.val → (s.reply (.station l) r tag c res).link k = s.link k) ∧
    ∃ links, s.reply (.station l) r tag c res = { s with links := links }) ∧
  (∀ (kind : Nat) (tag : Byte) (c : ReplyCode) (res : Result), replyBytes kind tag c res =
    [3] ++ toBytes 2 (res.bytes.length + 3) ++ [BitVec.ofNat 8 kind, tag, BitVec.ofNat 8 c.code] ++ res.bytes) ∧
  (∀ res : Result, ∃ word : Nat, word < 2 ^ res.optional.length ∧
    (∀ i o, res.optional[i]? = some o → word.testBit i = o.isSome) ∧
    res.bytes = res.fixed.flatMap Item.bytes ++
      (if res.optional = [] then [] else toBytes (if 8 < res.optional.length then 2 else 1) word) ++
      (res.optional.flatMap fun o => (o.getD []).flatMap Item.bytes) ++ res.rest.flatMap Item.bytes)

/-- A request that is not routed is never taken: its command changes nothing (R180, R194; the model's reading, assumption
1). -/
def Obligations.UnroutedRequestChangesNothing : Prop :=
  ∀ (c : Instr) (p : Port) (r : Request) (s : State), c.asks = some (p, r) → s.routed p r = none → exec c s = .next s

/-- A refused request changes no record: only the reply is handed back, with no result. READ NOTICE, which is refused by no
check and whose reply NONE clears OVERFLOWED (R198), stands apart. -/
def Obligations.RefusedRequestChangesNothing : Prop :=
  ∀ (c : Instr) (p : Port) (r : Request) (s : State) (who : Party) (tag : Byte), c.asks = some (p, r) → c ≠ .readNotice →
    s.routed p r = some (who, tag) → ∃ a : Ans, exec c s = .next (finish p r tag a) ∧
      (a.code ≠ .done → exec c s = .next (s.reply p r tag a.code {}))

/-- The sixteen reading requests change nothing but the reply they hand back. -/
def Obligations.ReadingChangesNothing : Prop :=
  ∀ (p : Port) (r : Request) (s : State) (who : Party) (tag : Byte), s.routed p r = some (who, tag) →
    ∀ c : Instr, c.asks = some (p, r) →
    (match c with
      | .readJob .. | .findJob .. | .retiringStatus | .readSegment .. | .readCue .. | .cueAt .. | .lastCue .. | .findCue ..
      | .readTake .. | .heldTakes .. | .queueEntry .. | .readExtent .. | .readPool | .readProfiles .. | .readChannel ..
      | .readLink .. => True
      | _ => False) →
    ∃ code res, exec c s = .next (s.reply p r tag code res)

/-! ### Frames -/

/-- No command but the completion of a write, and the RESET pin, changes a byte of the store; and those change bytes only in
the frame of the access in progress, the 64 bytes from extent × 262,144 + frame × 64 (R94). With no access in progress
they change none (that the RESET pin keeps the other bytes is the model's choice, assumption 11). -/
def Obligations.WritesStayInTheirFrame : Prop :=
  ∀ (c : Instr) (s t : State), exec c s = .next t →
    (match c with
      | .captureWriteCompletion _ | .scrubWriteCompletion _ | .reset =>
        (s.port = none → ∀ a, t.byteAt a = s.byteAt a) ∧
        ∀ x : Access, s.port = some x → ∀ a,
          a < x.claim.extent * 262144 + x.claim.frame * 64 ∨ x.claim.extent * 262144 + x.claim.frame * 64 + 64 ≤ a →
          t.byteAt a = s.byteAt a
      | _ => ∀ a, t.byteAt a = s.byteAt a)

/-- Each setting of the store, the retiring list, the export buffer and the completion reports (section 4.7) are changed by no
command but their own, WARM RESET for the buffer, and RESET. That WARM RESET keeps the completion reports is the model's
choice (assumption 26). -/
def Obligations.SettingsChangeOnlyByTheirCommands : Prop :=
  ∀ (c : Instr) (s t : State), exec c s = .next t → c ≠ .reset →
    ((∀ w x y z, c ≠ .setBankMap w x y z) → t.bank = s.bank) ∧
    (c ≠ .format → t.formatted = s.formatted) ∧
    ((∀ n, c ≠ .setPoolThreshold n) → t.threshold = s.threshold) ∧
    ((∀ v w x y z, c ≠ .setBulkPriority v w x y z) →
      t.bulkAbove = s.bulkAbove ∧ t.bulk14 = s.bulk14 ∧ t.bulk15 = s.bulk15) ∧
    ((∀ p r, c ≠ .release p r) → c ≠ .sweepStep → t.retiring = s.retiring) ∧
    ((∀ n k, c ≠ .bulkRead n k) → (∀ k, c ≠ .exportReadCompletion k) → c ≠ .warmReset → t.buffer = s.buffer) ∧
    ((∀ l r, c ≠ .returnTake l r) → c ≠ .completionReport → t.reports = s.reports)

/-! ### Invariants and reset -/

/-- Every step keeps the invariants: the store's bytes and every table stay canonical, the notice queue holds at most 32,
a second notice waits only behind a current one, a channel is SUSPENDED only while SECOND-NOTICE is set, the link of a
channel bound to BULK is VACANT, and no person number is bound to two links in one role. -/
def Obligations.StepKeepsInvariants : Prop := ∀ s t : State, Sound s → step s = .next t → Sound t

/-- The state after reset satisfies the invariants. -/
def Obligations.ResetIsSound : Prop := Sound State.reset

/-- Power-on and the RESET pin set every slot to VACANT with issue 0, every field at its VACANT value: both flags clear, every
optional field absent. No job reference is current afterwards (R21). -/
def Obligations.ResetVacatesEverySlot : Prop :=
  let vacated := fun (t : State) =>
    (∀ i, (t.job i).state = .vacant ∧ (t.job i).issue = 0 ∧ (t.job i).held = false ∧ (t.job i).follow = false ∧
      (t.job i).docket = 0 ∧ (t.job i).reporter = 0 ∧ (t.job i).cls = .daily ∧ (t.job i).due = 0 ∧ (t.job i).length = 0 ∧
      (t.job i).takeCount = 0 ∧ (t.job i).exportBusy = false ∧
      (t.job i).segHead = none ∧ (t.job i).tail = none ∧ (t.job i).firstCue = none ∧ (t.job i).takeHead = none ∧
      (t.job i).release = none ∧ (t.job i).chan = none ∧ (t.job i).sweep = none) ∧
      ∀ r : Ref, t.jobCurrent r = false
  vacated State.reset ∧ ∀ s : State, ∃ t, exec .reset s = .next t ∧ vacated t

/-- The values the chapters give for power-on and the RESET pin: every segment, cue and take record free at issue 0 with
the pools full (R50, R69, R93), the ready queue empty with the readiness counter and every hold count 0 (R93), the store
unformatted with every window disabled, every extent ABSENT, threshold 64 with the low mark SPENT, the bulk class below
maintenance and both bulk channels in INTERLEAVE with burst 1 (R113), every channel
IDLE with its default profiles (R132, R164), the retiring list empty (R178), every link DOWN and VACANT (R194), the
console port empty (R201). -/
def Obligations.ResetValues : Prop :=
  (∀ i, State.reset.seg i = { issue := 0, body := none }) ∧ State.reset.segFree = 16384 ∧
  (∀ i, State.reset.cue i = { issue := 0, body := none }) ∧ State.reset.cueFree = 8192 ∧
  (∀ i, State.reset.take i = { issue := 0, body := none }) ∧ State.reset.takeFree = 1024 ∧
  State.reset.ready = [] ∧ State.reset.readiness = 0 ∧ (∀ n, State.reset.hold n = 0) ∧
  State.reset.formatted = false ∧ State.reset.bank = {} ∧
  (∀ e, State.reset.ext e = { state := .absent, refs := 0, taint := false }) ∧
  State.reset.freeList = [] ∧ State.reset.scrubList = [] ∧ State.reset.formatLeft = 0 ∧ State.reset.threshold = 64 ∧
  State.reset.lowArmed = false ∧ State.reset.bulkAbove = false ∧
  State.reset.bulk14 = { mode := .interleave, burst := 1 } ∧ State.reset.bulk15 = { mode := .interleave, burst := 1 } ∧
  State.reset.waiting = [] ∧ State.reset.port = none ∧ State.reset.retiring = [] ∧
  (∀ c, (State.reset.chan c).stream = .idle ∧ (State.reset.chan c).suspended = false ∧
    (State.reset.chan c).binding = .link ∧ (State.reset.chan c).slot = none ∧ (State.reset.chan c).second = none ∧
    (State.reset.chan c).timeout = 50 ∧ (State.reset.chan c).mode = 0 ∧ (State.reset.chan c).active = .a ∧
    (State.reset.chan c).profA.active = { rate := 64, backstep := 150, sealAct := .mute, pace := false } ∧
    (State.reset.chan c).profA = (State.reset.chan c).profB ∧
    (State.reset.chan c).winStart = 0 ∧ (State.reset.chan c).winEnd = 0) ∧
  (∀ l, (State.reset.link l).up = false ∧ (State.reset.link l).role = .vacant ∧ (State.reset.link l).person = 0 ∧
    (State.reset.link l).clearance = 0 ∧ (State.reset.link l).elig = 0 ∧ (State.reset.link l).pedalMask = false ∧
    (State.reset.link l).outstanding = none ∧ (State.reset.link l).sequence = 0 ∧ (State.reset.link l).unsent = []) ∧
  State.reset.conOutstanding = none ∧ State.reset.notices = [] ∧ State.reset.overflowed = false ∧
  State.reset.buffer = [] ∧ State.reset.reserved = 0 ∧ State.reset.attention = false

/-- The RESET pin leaves every field of the part as power-on does, but for the commands waiting, the store's contents and
the counter of free values (the model's choice, assumptions 11 and 12); with no write in progress those stand too. -/
def Obligations.ResetPinRestores : Prop :=
  ∀ s : State, ∃ mem n, exec .reset s = .next { State.reset with pending := s.pending, mem := mem, freeCount := n } ∧
    ((∀ a, s.port = some a → ∃ ch pos, a.claim.use = .play ch ∨ a.claim.use = .bulk ch pos) → mem = s.mem ∧ n = s.freeCount)

/-! ### Records taken -/

/-- The record a pool gives is its lowest-numbered free one, and the slot a job takes is the lowest-numbered VACANT one (R7,
R26, R52, R71). -/
def Obligations.LowestFreeRecordIsTaken : Prop :=
  ∀ s : State, Canonical s →
    ((s.job s.lowestVacant).state = .vacant ∧ ∀ k, k < s.lowestVacant → (s.job k).state ≠ .vacant) ∧
    ((s.seg s.lowestFreeSeg).body = none ∧ ∀ k, k < s.lowestFreeSeg → (s.seg k).body ≠ none) ∧
    ((s.cue s.lowestFreeCue).body = none ∧ ∀ k, k < s.lowestFreeCue → (s.cue k).body ≠ none) ∧
    ((s.take s.lowestFreeTake).body = none ∧ ∀ k, k < s.lowestFreeTake → (s.take k).body ≠ none)

/-! ### Jobs -/

/-- OPEN JOB fills the lowest-numbered VACANT slot LIVE with a first take OPEN and not queued, and its channel takes a
PAUSED capture at the job end in APPEND; every other job, take and channel stands (R7, R77). -/
def Obligations.OpenJobOpens : Prop :=
  ∀ (l : Fin 16) (docket : BitVec 32) (cls : Nat) (due : BitVec 16) (s : State) (role : Role) (person : Nat) (tag : Byte),
    s.routed (.station l) (.openJob docket cls due) = some (.station l role person, tag) →
    cls ≤ 2 → s.ownsLive person = false → (s.chan l).isIdle = true → (s.chan l).second = none → s.formatted = true →
    s.lowestVacant < 512 → 0 < s.takeFree →
    ∃ u : State, exec (.openJob l docket cls due) s = .next (u.reply (.station l) (.openJob docket cls due) tag .done
        { fixed := [.ref ⟨s.lowestVacant, (s.job s.lowestVacant).issue⟩] }) ∧
      u.job s.lowestVacant = { issue := (s.job s.lowestVacant).issue, state := .live, docket := docket, reporter := person,
                               cls := clsOf cls, due := due, chan := some l.val
                               takeHead := some ⟨s.lowestFreeTake, (s.take s.lowestFreeTake).issue⟩, takeCount := 1 } ∧
      (u.take s.lowestFreeTake).body = some { job := ⟨s.lowestVacant, (s.job s.lowestVacant).issue⟩ } ∧
      u.takeFree = s.takeFree - 1 ∧ u.ready = s.ready ∧
      (u.chan l).stream = .capture { job := ⟨s.lowestVacant, (s.job s.lowestVacant).issue⟩ } ∧
      (u.placement l).inflight = [] ∧
      (∀ k, k ≠ s.lowestVacant → u.job k = s.job k) ∧ (∀ k, k ≠ s.lowestFreeTake → u.take k = s.take k) ∧
      (∀ k, k ≠ l.val → u.chan k = s.chan k) ∧ u.segs = s.segs ∧ u.cues = s.cues ∧ u.links = s.links ∧ u.exts = s.exts ∧
      u.mem = s.mem ∧ u.notices = s.notices

/-- CREATE JOB fills the lowest-numbered VACANT slot SET-ASIDE for the reporter named, with no channel; its first take is
OPEN, and stands in the ready queue when follow-behind is set (R8, R77). -/
def Obligations.CreateJobCreates : Prop :=
  ∀ (reporter : Nat) (docket : BitVec 32) (cls : Nat) (due : BitVec 16) (follow : Nat) (s : State) (who : Party) (tag : Byte),
    s.routed .console (.createJob reporter docket cls due follow) = some (who, tag) →
    1 ≤ reporter → reporter ≤ 63 → cls ≤ 2 → follow ≤ 1 → s.lowestVacant < 512 → 0 < s.takeFree →
    ∃ u : State, exec (.createJob reporter docket cls due follow) s =
        .next (u.reply .console (.createJob reporter docket cls due follow) tag .done
          { fixed := [.ref ⟨s.lowestVacant, (s.job s.lowestVacant).issue⟩] }) ∧
      u.job s.lowestVacant = { issue := (s.job s.lowestVacant).issue, state := .setAside, follow := decide (follow = 1)
                               docket := docket, reporter := reporter, cls := clsOf cls, due := due
                               takeHead := some ⟨s.lowestFreeTake, (s.take s.lowestFreeTake).issue⟩, takeCount := 1 } ∧
      (∃ b, (u.take s.lowestFreeTake).body = some b ∧ b.state = .opened ∧ b.typist = none ∧ b.start = none ∧
        b.next = none ∧ b.job = ⟨s.lowestVacant, (s.job s.lowestVacant).issue⟩) ∧
      (follow = 0 → u.ready = s.ready ∧ u.readiness = s.readiness) ∧ (follow = 1 → s.lowestFreeTake ∈ u.ready) ∧
      u.takeFree = s.takeFree - 1 ∧
      (∀ k, k ≠ s.lowestVacant → u.job k = s.job k) ∧ (∀ k, k ≠ s.lowestFreeTake → u.take k = s.take k) ∧
      u.chans = s.chans ∧ u.segs = s.segs ∧ u.cues = s.cues ∧ u.links = s.links ∧ u.exts = s.exts ∧ u.mem = s.mem ∧
      u.notices = s.notices

/-- ATTACH makes a SET-ASIDE job LIVE on the link's channel, PAUSED in APPEND at the job end, with its tail extent kept;
DETACH makes a LIVE job whose capture is PAUSED SET-ASIDE and its channel IDLE, with no notice (R9, R10). -/
def Obligations.AttachAndDetach : Prop :=
  (∀ (l : Fin 16) (r : Ref) (s : State) (person : Nat) (tag : Byte),
    s.routed (.station l) (.attach r) = some (.station l .reporter person, tag) →
    s.jobCurrent r = true → (s.job r.idx).reporter = person → (s.job r.idx).state = .setAside →
    (s.job r.idx).held = false → s.ownsLive person = false → (s.chan l).isIdle = true → (s.chan l).second = none →
    s.formatted = true →
    ∃ u : State, exec (.attach l r) s = .next (u.reply (.station l) (.attach r) tag .done {}) ∧
      u.job r.idx = { s.job r.idx with state := .live, chan := some l.val } ∧
      (u.chan l).stream = .capture { job := r } ∧ (u.placement l).inflight = [] ∧
      (∀ k, k ≠ r.idx → u.job k = s.job k) ∧ (∀ k, k ≠ l.val → u.chan k = s.chan k) ∧
      u.takes = s.takes ∧ u.segs = s.segs ∧ u.cues = s.cues ∧ u.links = s.links ∧ u.notices = s.notices) ∧
  (∀ (l : Fin 16) (r : Ref) (s : State) (person : Nat) (tag : Byte) (ch : Nat) (c : Capture),
    s.routed (.station l) (.detach r) = some (.station l .reporter person, tag) →
    s.jobCurrent r = true → (s.job r.idx).reporter = person → (s.job r.idx).state = .live →
    (s.job r.idx).chan = some ch → (s.chan ch).stream = .capture c → c.running = false → c.job = r →
    ∃ u : State, exec (.detach l r) s = .next (u.reply (.station l) (.detach r) tag .done {}) ∧
      u.job r.idx = { s.job r.idx with state := .setAside, chan := none } ∧
      (u.chan ch).stream = .idle ∧ (u.chan ch).suspended = false ∧ (u.placement ch).inflight = [] ∧
      (∀ k, k ≠ r.idx → u.job k = s.job k) ∧ (∀ k, k ≠ ch → u.chan k = s.chan k) ∧
      u.takes = s.takes ∧ u.segs = s.segs ∧ u.cues = s.cues ∧ u.links = s.links ∧ u.notices = s.notices)

/-- CLOSE DICTATION closes a LIVE or SET-ASIDE job: it becomes COMPLETE when every take that remains is RETURNED and CLOSED
otherwise, with its tail extent and its capture channel gone; every other job stands, as long as the capture of its channel
is its own and each of its takes begins at a cue of its own (R12, R13). A LIVE job's channel becomes IDLE, with the notice
HALT when the console closes. A last take with frames becomes READY in the queue from OPEN, and CLAIMED from FOLLOWING; one
with none is freed with its start cue, its typist's hold count falls and the channels that play it stop (R79). That the HALT
notice suspends no channel, and that a read-back already SUSPENDED becomes IDLE too, are the model's reading (assumptions 15
and 50). -/
def Obligations.CloseDictationCloses : Prop :=
  ∀ (p : Port) (r : Ref) (s : State) (who : Party) (tag : Byte),
    s.routed p (.closeDictation r) = some (who, tag) → s.jobCurrent r = true → who.owns (s.job r.idx) = true →
    (s.job r.idx).state = .live ∨ (s.job r.idx).state = .setAside → (s.job r.idx).held = false →
    who = .console ∨ s.captureBusy (s.job r.idx).chan = false →
    ∃ u : State, exec (.closeDictation p r) s = .next (u.reply p (.closeDictation r) tag .done {}) ∧
      (u.job r.idx).state = (if u.allReturned r.idx then .complete else .closed) ∧
      (u.job r.idx).tail = none ∧ (u.job r.idx).chan = none ∧ (u.job r.idx).length = (s.job r.idx).length ∧
      (u.job r.idx).segHead = (s.job r.idx).segHead ∧
      ((∀ ch x, (s.job r.idx).chan = some ch → s.captureFields ch = some x → x.1.idx = r.idx) →
        (∀ x ∈ s.jobTakes r.idx, ∀ c, x.2.start = some c → s.cueJob c.idx = r.idx) → ∀ k, k ≠ r.idx → u.job k = s.job k) ∧
      (∀ i, (u.seg i).body.map (fun b => { b with cue := none }) = (s.seg i).body.map fun b => { b with cue := none }) ∧
      (u.allReturned r.idx = true → ∃ v : State, u = v.raise (.jobComplete r)) ∧
      (∀ ch x, (s.job r.idx).state = .live → (s.job r.idx).chan = some ch → s.captureFields ch = some x →
        (u.chan ch).stream = .idle ∧ (u.chan ch).suspended = false ∧ u.placement ch = {} ∧
        (who = .console → (s.chan ch).slot = none → (u.chan ch).slot = some
          { chan := ch, cause := .halt, action := .stopped, job := x.1, pos := s.anchorPos x.1.idx x.2.point * 64 }) ∧
        (who ≠ .console → (u.chan ch).slot = (s.chan ch).slot)) ∧
      (∀ i b, s.lastTake r.idx = some (i, b) → 0 < s.takeFrames b →
        u.takeFree = s.takeFree ∧ u.cues = s.cues ∧ u.holds = s.holds ∧ (∀ k, k ≠ i → u.take k = s.take k) ∧
        (b.state = .opened → i ∈ u.ready ∧
          u.ready.filter (fun k => decide (k ≠ i)) = s.ready.filter (fun k => decide (k ≠ i)) ∧
          (s.ready.Pairwise (fun x y => keyBefore (s.queueKey x) (s.queueKey y) = true) →
            u.ready.Pairwise fun x y => keyBefore (u.queueKey x) (u.queueKey y) = true) ∧
          (u.take i).body = some
            { b with state := .ready, seq := if i ∈ s.ready ∨ b.seq ≠ none then b.seq else some s.readiness }) ∧
        (b.state = .following → u.ready = s.ready ∧ (u.take i).body = some { b with state := .claimed })) ∧
      (∀ i b, s.lastTake r.idx = some (i, b) → s.takeFrames b = 0 →
        u.take i = { issue := (s.take i).issue + 1, body := none } ∧ u.takeFree = s.takeFree + 1 ∧ i ∉ u.ready ∧
        (u.job r.idx).takeCount = (s.job r.idx).takeCount - 1 ∧
        (∀ k, k ≠ i → (u.take k).body.map (fun x => { x with next := none }) =
          (s.take k).body.map fun x => { x with next := none }) ∧
        (∀ c, b.start = some c → u.cue c.idx = { issue := (s.cue c.idx).issue + 1, body := none } ∧
          u.cueFree = s.cueFree + 1) ∧
        (b.start = none → u.cues = s.cues) ∧ (b.state ≠ .following → u.holds = s.holds) ∧
        ∀ n, b.state = .following → b.typist = some n → u.hold n = s.hold n - 1 ∧
          ∀ ch p, ch < 16 → (s.chan ch).stream = .play p → p.take = s.takeRef i → (u.chan ch).stream = .idle)

/-- SET JOB ATTRIBUTES writes the selected fields together and no other field of any job (R16). A ready queue that stood in the
order of its keys stands so under the new ones: the job's queued takes are re-placed, each with its sequence, and the
others keep their order (R17, R75); selecting follow-behind puts the job's OPEN take into the queue or takes it out (R18). -/
def Obligations.SetJobAttributesWrites : Prop :=
  ∀ (r : Ref) (a : JobAttrs) (s : State) (who : Party) (tag : Byte),
    s.routed .console (.setJobAttributes r a) = some (who, tag) → s.jobCurrent r = true →
    (∀ c, a.cls = some c → c ≤ 2) → (∀ f, a.follow = some f → f ≤ 1) → (s.job r.idx).state ≠ .retiring →
    writeAttrs a (s.job r.idx) ≠ s.job r.idx →
    ∃ u : State, exec (.setJobAttributes r a) s = .next (u.reply .console (.setJobAttributes r a) tag .done {}) ∧
      u.job r.idx = { s.job r.idx with
        docket := a.docket.getD (s.job r.idx).docket
        cls := (a.cls.map clsOf).getD (s.job r.idx).cls
        due := a.due.getD (s.job r.idx).due
        follow := (a.follow.map fun f => decide (f = 1)).getD (s.job r.idx).follow } ∧
      (s.ready.Pairwise (fun x y => keyBefore (s.queueKey x) (s.queueKey y) = true) →
        u.ready.Pairwise fun x y => keyBefore (u.queueKey x) (u.queueKey y) = true) ∧
      (a.follow = none → u.takes = s.takes ∧ u.readiness = s.readiness ∧ u.ready.Perm s.ready ∧
        u.ready.filter (fun i => decide ((s.take i).body.map (fun b => b.job.idx) ≠ some r.idx)) =
          s.ready.filter fun i => decide ((s.take i).body.map (fun b => b.job.idx) ≠ some r.idx)) ∧
      (∀ i, s.openTake r.idx = some i → (a.follow = some 1 → i ∈ u.ready) ∧ (a.follow = some 0 → i ∉ u.ready)) ∧
      (∀ k, k ≠ r.idx → u.job k = s.job k) ∧ u.segs = s.segs ∧ u.cues = s.cues ∧ u.chans = s.chans ∧ u.links = s.links ∧
      u.holds = s.holds ∧ u.notices = s.notices

/-- HOLD sets the held flag, makes a RELEASING job COMPLETE with its release forgotten, and leaves no export running on the
job; a job with no export running changes in nothing else (R165). The channel that exports the job leaves EXPORT, its claims
withdrawn, with the notice JOB-HELD (R151). -/
def Obligations.HoldHolds : Prop :=
  (∀ (r : Ref) (s : State) (who : Party) (tag : Byte), s.routed .console (.hold r) = some (who, tag) →
    s.jobCurrent r = true → (s.job r.idx).state ≠ .retiring → (s.job r.idx).state ≠ .live → (s.job r.idx).held = false →
    ∃ u : State, exec (.hold r) s = .next (u.reply .console (.hold r) tag .done {}) ∧
      (u.job r.idx).held = true ∧ (u.job r.idx).exportBusy = false ∧
      (u.job r.idx).state = (if (s.job r.idx).state = .releasing then .complete else (s.job r.idx).state) ∧
      (u.job r.idx).release = (if (s.job r.idx).state = .releasing then none else (s.job r.idx).release) ∧
      (∀ k, k ≠ r.idx → u.job k = s.job k) ∧ u.segs = s.segs ∧ u.cues = s.cues ∧ u.takes = s.takes) ∧
  (∀ (r : Ref) (s : State) (who : Party) (tag : Byte) (ch : Nat) (e : Exporting),
    s.routed .console (.hold r) = some (who, tag) → s.jobCurrent r = true → (s.job r.idx).state ≠ .retiring →
    (s.job r.idx).state ≠ .live → (s.job r.idx).held = false → (s.job r.idx).exportBusy = true →
    (s.chan ch).stream = .exporting e → e.job = r →
    ch = 14 ∨ (ch = 15 ∧ ∀ x, (s.chan 14).stream = .exporting x → x.job ≠ r) →
    ∃ u : State, exec (.hold r) s = .next ((u.placeNotice
        { chan := ch, cause := .jobHeld, action := .stopped, job := r, pos := e.pos * 64 } true).reply
        .console (.hold r) tag .done {}) ∧
      u.chan ch = { s.chan ch with
        stream := .idle, chainAbort := false, noContinuation := false, active := .a
        profA := { active := (s.chan ch).profA.active, stored := (s.chan ch).profA.active }
        profB := { active := (s.chan ch).profB.active, stored := (s.chan ch).profB.active } } ∧
      (∀ k, k ≠ ch → u.chan k = s.chan k) ∧
      u.job r.idx = { s.job r.idx with
        held := true, exportBusy := false
        state := if (s.job r.idx).state = .releasing then .complete else (s.job r.idx).state
        release := if (s.job r.idx).state = .releasing then none else (s.job r.idx).release } ∧
      (∀ k, k ≠ r.idx → u.job k = s.job k) ∧
      (∀ c, c ∈ u.waiting ↔ c ∈ s.waiting ∧ c.use.chan? ≠ some ch) ∧
      u.port = s.port.map (fun a => if a.claim.use.chan? = some ch then { a with live := false } else a) ∧
      u = { s with jobs := u.jobs, chans := u.chans, waiting := u.waiting, reserved := u.reserved, port := u.port }) ∧
  (∀ (r : Ref) (s : State) (who : Party) (tag : Byte), s.routed .console (.hold r) = some (who, tag) →
    s.jobCurrent r = true → (s.job r.idx).state ≠ .retiring → (s.job r.idx).state ≠ .live → (s.job r.idx).held = false →
    (s.job r.idx).state ≠ .releasing → (s.job r.idx).exportBusy = false →
    exec (.hold r) s = .next ((s.setJob r.idx { s.job r.idx with held := true }).reply .console (.hold r) tag .done {}))

/-- UNHOLD is refused RANGE, STALE, STATE and ALREADY in that order, and otherwise clears the held flag and changes nothing
else (R166). -/
def Obligations.UnholdClearsTheFlag : Prop :=
  ∀ (r : Ref) (s : State) (who : Party) (tag : Byte), s.routed .console (.unhold r) = some (who, tag) →
    exec (.unhold r) s = .next (
      if 511 < r.idx then s.reply .console (.unhold r) tag .range {}
      else if s.jobCurrent r = false then s.reply .console (.unhold r) tag .stale {}
      else if (s.job r.idx).state = .retiring then s.reply .console (.unhold r) tag .state {}
      else if (s.job r.idx).held = false then s.reply .console (.unhold r) tag .already {}
      else (s.setJob r.idx { s.job r.idx with held := false }).reply .console (.unhold r) tag .done {})

/-- The first RELEASE makes a COMPLETE job RELEASING with the party recorded; the other party's makes it RETIRING at the tail
of the retiring list, its sweep at phase SEGMENTS with no record freed; the same party's is refused ALREADY (R168,
R169). -/
def Obligations.TwoReleasesRetire : Prop :=
  (∀ (p : Port) (r : Ref) (s : State) (who : Party) (tag : Byte), s.routed p (.release r) = some (who, tag) →
    s.jobCurrent r = true → who.owns (s.job r.idx) = true → (s.job r.idx).state = .complete → (s.job r.idx).held = false →
    (s.job r.idx).exportBusy = false →
    exec (.release p r) s = .next ((s.setJob r.idx { s.job r.idx with
      state := .releasing, release := some (if who = .console then .console else .reporter) }).reply p (.release r) tag
        .done {})) ∧
  (∀ (p : Port) (r : Ref) (s : State) (who : Party) (tag : Byte), s.routed p (.release r) = some (who, tag) →
    s.jobCurrent r = true → who.owns (s.job r.idx) = true → (s.job r.idx).state = .releasing → (s.job r.idx).held = false →
    (s.job r.idx).exportBusy = false →
    exec (.release p r) s = .next (
      if (s.job r.idx).release = some (if who = .console then .console else .reporter) then
        s.reply p (.release r) tag .already {}
      else ({ s.setJob r.idx { s.job r.idx with
          state := .retiring, release := none, sweep := some { phase := .segments, freed := 0 } }
        with retiring := s.retiring ++ [r.idx] } : State).reply p (.release r) tag .done {}))

/-- READ JOB: RANGE, STALE, NOT-PERMITTED, STATE, or DONE with the readout. The console may read any job, a reporter its
own, a typist those in which it holds a take CLAIMED or FOLLOWING (R19). -/
def Obligations.ReadJobAnswers : Prop :=
  ∀ (p : Port) (r : Ref) (s : State) (who : Party) (tag : Byte), s.routed p (.readJob r) = some (who, tag) →
    let may : Prop := match who with
      | .console => True
      | .station _ .reporter n => (s.job r.idx).reporter = n
      | .station _ .typist n => ∃ t : Nat × TakeBody, t ∈ s.jobTakes r.idx ∧
          (t.2.state = .claimed ∨ t.2.state = .following) ∧ t.2.typist = some n
      | .station _ .vacant _ => False
    (511 < r.idx → exec (.readJob p r) s = .next (s.reply p (.readJob r) tag .range {})) ∧
    (r.idx ≤ 511 → s.jobCurrent r = false → exec (.readJob p r) s = .next (s.reply p (.readJob r) tag .stale {})) ∧
    (s.jobCurrent r = true → ¬ may → exec (.readJob p r) s = .next (s.reply p (.readJob r) tag .notPermitted {})) ∧
    (s.jobCurrent r = true → may → (s.job r.idx).state = .retiring →
      exec (.readJob p r) s = .next (s.reply p (.readJob r) tag .state {})) ∧
    (s.jobCurrent r = true → may → (s.job r.idx).state ≠ .retiring →
      exec (.readJob p r) s = .next (s.reply p (.readJob r) tag .done ((s.job r.idx).readout r)))

/-- FIND JOB answers the first slot from the start slot up whose search key agrees with the pattern under the mask, a
reporter's search passing over the slots of others, with its reference and its key; NONE when there is none. A typist is
refused NOT-PERMITTED, a start slot above 511 RANGE (R20; widths of the start slot and of the key's parts: the model's
choice, assumption 20). -/
def Obligations.FindJobSearches : Prop :=
  ∀ (p : Port) (start : Nat) (x m : JobKey) (s : State) (who : Party) (tag : Byte),
    s.routed p (.findJob start x m) = some (who, tag) →
    (who.isTypist = true → exec (.findJob p start x m) s = .next (s.reply p (.findJob start x m) tag .notPermitted {})) ∧
    (who.isTypist = false → 511 < start →
      exec (.findJob p start x m) s = .next (s.reply p (.findJob start x m) tag .range {})) ∧
    (who.isTypist = false → start ≤ 511 →
      (∀ i, start ≤ i → i ≤ 511 → keyAgrees (s.job i).key x m = true → who.owns (s.job i) = true →
        (∀ k, start ≤ k → k < i → keyAgrees (s.job k).key x m = true → who.owns (s.job k) = false) →
        exec (.findJob p start x m) s = .next (s.reply p (.findJob start x m) tag .done
          { fixed := .ref ⟨i, (s.job i).issue⟩ :: keyItems (s.job i).key })) ∧
      ((∀ k, start ≤ k → k ≤ 511 → keyAgrees (s.job k).key x m = true → who.owns (s.job k) = false) →
        exec (.findJob p start x m) s = .next (s.reply p (.findJob start x m) tag .none {})))

/-! ### Readouts of records -/

/-- READ SEGMENT, RETIRING STATUS, READ EXTENT and READ POOL answer DONE with the records as they stand (R48, R175, R112;
layouts by R203, with one presence bit for each optional result; the widths of the counts, of a window's fields and of a
bank line, the codes of an enable and of a mark, and that the references of the
other slots follow the head job's results, are the model's choice, assumption 20). -/
def Obligations.StoreAndMapReadsAnswer : Prop :=
  (∀ (p : Port) (r : Ref) (s : State) (who : Party) (tag : Byte) (b : SegBody), s.routed p (.readSegment r) = some (who, tag) →
    s.segCurrent r = true → (s.seg r.idx).body = some b → s.mayReadJob who b.job.idx = true →
    (s.job b.job.idx).state ≠ .retiring →
    exec (.readSegment p r) s = .next (s.reply p (.readSegment r) tag .done
      { fixed := [.ref r, .ref b.job, .num 2 b.extent, .num 2 b.first, .num 2 b.count, .refOrAbsent b.next]
        optional := [b.sealPart.map fun c => [.num 1 c], b.pace.map fun x => [.num 1 x], b.cue.map fun c => [.ref c]] })) ∧
  (∀ (s : State) (who : Party) (tag : Byte), s.routed .console .retiringStatus = some (who, tag) →
    (s.retiring = [] → exec .retiringStatus s = .next (s.reply .console .retiringStatus tag .done
      { fixed := [.num 2 0], optional := [none, none, none, none] })) ∧
    ∀ i rest w, s.retiring = i :: rest → (s.job i).sweep = some w →
      exec .retiringStatus s = .next (s.reply .console .retiringStatus tag .done
        { fixed := [.num 2 (rest.length + 1)]
          optional := [some [.ref (s.jobRef i)], some [.num 1 w.phase.code], some [.num 2 w.freed],
            some [.num 3 (s.job i).length]]
          rest := rest.map fun k => .ref (s.jobRef k) })) ∧
  (∀ (e : Nat) (s : State) (who : Party) (tag : Byte), s.routed .console (.readExtent e) = some (who, tag) → e ≤ 4095 →
    exec (.readExtent e) s = .next (s.reply .console (.readExtent e) tag .done
      { fixed := [.num 1 (s.ext e).state.code, .num 2 (s.ext e).refs, .num 1 (if (s.ext e).taint then 1 else 0)]
        optional := [(s.bank.line e).map fun n => [.num 1 n], (s.listLink e).map fun n => [.num 2 n]] })) ∧
  (∀ (s : State) (who : Party) (tag : Byte), s.routed .console .readPool = some (who, tag) →
    exec .readPool s = .next (s.reply .console .readPool tag .done
      { fixed := [.num 1 (if s.formatted then 1 else 0)] ++ s.bank.w0.items ++ s.bank.w1.items ++ s.bank.w2.items ++
          s.bank.w3.items ++ [.num 2 s.freeList.length, .num 2 s.scrubList.length, .num 2 s.scrubNext, .num 2 s.formatLeft,
          .num 2 (s.countIn .inUse), .num 2 (s.countIn .damaged), .num 2 s.threshold, .num 1 (if s.lowArmed then 0 else 1),
          .num 1 (if s.bulkAbove then 0 else 1), .num 1 s.bulk14.mode.code, .num 1 s.bulk14.burst,
          .num 1 s.bulk15.mode.code, .num 1 s.bulk15.burst]
        optional := [s.freeList.head?.map fun n => [.num 2 n], s.scrubList.head?.map fun n => [.num 2 n]] }))

/-! ### Maps -/

/-- SEAL RANGE and PACE RANGE are carried out once every check of R45 passes: the segment that holds either end is divided
there where a split is needed, every segment then lying wholly within [a, b) takes the part, and no other does; a SEAL of
1 or more taints the extents of those segments. They change no job, take or link, and of a cue only the anchor, by the
splits. SEAL RANGE withdraws the reads of the job still waiting on play and read-back channels, for their frames to be
chosen again (R33, R45 to R47, R154; for a read-back the model's reading, assumption 35). -/
def Obligations.RangesWriteParts : Prop :=
  (∀ (r : Ref) (a b c : Nat) (s : State) (who : Party) (tag : Byte), s.routed .console (.sealRange r a b c) = some (who, tag) →
    s.jobCurrent r = true → (s.job r.idx).state ≠ .retiring → (s.job r.idx).held = false → (s.job r.idx).exportBusy = false →
    c ≤ 3 → a < b → b ≤ (s.job r.idx).length → s.rangeHolds r.idx a b (sealEdit c) = false →
    s.splitsNeeded r.idx a b (sealEdit c) ≤ s.segFree →
    ∃ u v : State, exec (.sealRange r a b c) s = .next (u.reply .console (.sealRange r a b c) tag .done {}) ∧
      v = (s.splitIf r.idx a (sealEdit c)).splitIf r.idx b (sealEdit c) ∧
      u.jobs = s.jobs ∧ u.takes = s.takes ∧ u.ready = s.ready ∧ u.links = s.links ∧ u.notices = s.notices ∧
      u.cueFree = s.cueFree ∧ u.segFree = v.segFree ∧ u.cues = v.cues ∧
      (∀ i g p, (i, g, p) ∈ withStarts 0 (v.jobSegs r.idx) → a ≤ p → p + g.count ≤ b →
        u.seg i = { v.seg i with
          body := (v.seg i).body.map fun x => { x with sealPart := if c = 0 then none else some c } } ∧
        (c ≠ 0 → (u.ext g.extent).taint = true)) ∧
      (∀ i, (∀ g p, (i, g, p) ∈ withStarts 0 (v.jobSegs r.idx) → ¬(a ≤ p ∧ p + g.count ≤ b)) → u.seg i = v.seg i) ∧
      (∀ x, (c = 0 ∨ ∀ i g p, (i, g, p) ∈ withStarts 0 (v.jobSegs r.idx) → a ≤ p → p + g.count ≤ b → g.extent ≠ x) →
        u.ext x = v.ext x) ∧
      (Canonical s → (∀ i, (u.cue i).body.map (fun x => { x with anchor := .jobEnd }) =
          (s.cue i).body.map fun x => { x with anchor := .jobEnd }) ∧
        (∀ ch p, ch < 16 → (s.chan ch).stream = .play p → (u.chan ch).stream =
          .play (if p.job = r ∧ s.readWaiting ch = true then { p with read := none } else p)) ∧
        (∀ ch x, ch < 16 → (s.chan ch).stream = .readback x → ∃ ctx, (u.chan ch).stream =
          .readback { x with parked := ctx, read := if x.job = r ∧ s.readWaiting ch = true then none else x.read }) ∧
        ∀ w, w ∈ u.waiting ↔ w ∈ s.waiting ∧ ∀ ch, ch < 16 → w.use.chan? = some ch →
          (∀ p, (s.chan ch).stream = .play p → p.job ≠ r) ∧ ∀ x, (s.chan ch).stream = .readback x → x.job ≠ r) ∧
      ∀ i g, s.jobSegs r.idx = [(i, g)] → a = 0 → b = g.count →
        u.seg i = { s.seg i with body := some { g with sealPart := if c = 0 then none else some c } } ∧
        (∀ k, k ≠ i → u.seg k = s.seg k) ∧ (c ≠ 0 → (u.ext g.extent).taint = true)) ∧
  (∀ (r : Ref) (a b : Nat) (x : Option Nat) (s : State) (who : Party) (tag : Byte),
    s.routed .console (.paceRange r a b x) = some (who, tag) → s.jobCurrent r = true →
    (s.job r.idx).state ≠ .retiring → (s.job r.idx).held = false → (s.job r.idx).exportBusy = false →
    (∀ y, x = some y → 32 ≤ y ∧ y ≤ 128) → a < b → b ≤ (s.job r.idx).length →
    s.rangeHolds r.idx a b (paceEdit x) = false → s.splitsNeeded r.idx a b (paceEdit x) ≤ s.segFree →
    ∃ u v : State, exec (.paceRange r a b x) s = .next (u.reply .console (.paceRange r a b x) tag .done {}) ∧
      v = (s.splitIf r.idx a (paceEdit x)).splitIf r.idx b (paceEdit x) ∧
      u.jobs = s.jobs ∧ u.takes = s.takes ∧ u.ready = s.ready ∧ u.links = s.links ∧ u.notices = s.notices ∧
      u.cueFree = s.cueFree ∧ u = { v with segs := u.segs } ∧
      (∀ i g p, (i, g, p) ∈ withStarts 0 (v.jobSegs r.idx) → a ≤ p → p + g.count ≤ b →
        u.seg i = { v.seg i with body := (v.seg i).body.map fun y => { y with pace := x } }) ∧
      (∀ i, (∀ g p, (i, g, p) ∈ withStarts 0 (v.jobSegs r.idx) → ¬(a ≤ p ∧ p + g.count ≤ b)) → u.seg i = v.seg i) ∧
      (Canonical s → ∀ i, (u.cue i).body.map (fun x => { x with anchor := .jobEnd }) =
        (s.cue i).body.map fun x => { x with anchor := .jobEnd }) ∧
      ∀ i g, s.jobSegs r.idx = [(i, g)] → a = 0 → b = g.count →
        u.seg i = { s.seg i with body := some { g with pace := x } } ∧ (∀ k, k ≠ i → u.seg k = s.seg k) ∧
        u.exts = s.exts) ∧
  (∀ (s : State) (j p : Nat) (e : RangeEdit), s.splitIf j p e = (match locateIn (s.jobSegs j) p with
    | some (i, g, k) => if 0 < k ∧ e.holds g = false then s.splitSeg i k else s
    | none => s)) ∧
  (∀ (s : State) (i k : Nat) (g : SegBody) (n : Ref), Canonical s → (s.seg i).body = some g → 0 < k → k < g.count →
    n = ⟨s.lowestFreeSeg, (s.seg s.lowestFreeSeg).issue⟩ →
    ∃ (u : State) (x y : Option Ref), s.splitSeg i k = u ∧
      u.seg i = { s.seg i with body := some { g with count := k, next := some n, cue := x } } ∧
      u.seg n.idx = { issue := n.issue, body := some { g with first := g.first + k, count := g.count - k, cue := y } } ∧
      (∀ m, m ≠ i → m ≠ n.idx → (u.seg m).body.map (fun b => { b with cue := none }) =
        (s.seg m).body.map fun b => { b with cue := none }) ∧
      u.segFree = s.segFree - 1 ∧ u.ext g.extent = { s.ext g.extent with refs := (s.ext g.extent).refs + 1 } ∧
      (∀ e, e ≠ g.extent → u.ext e = s.ext e) ∧
      (∀ m, (u.cue m).body = (s.cue m).body.map fun b => { b with anchor := match b.anchor with
        | .frame q o => if q.idx = i ∧ k ≤ o then .frame n (o - k) else .frame q o
        | .jobEnd => .jobEnd }) ∧
      (∀ ch c, (s.chan ch).stream = .capture c → (u.chan ch).stream = .capture { c with ctx := { c.ctx with
        point := match c.ctx.point with
          | .frame q o => if q.idx = i ∧ k ≤ o then .frame n (o - k) else .frame q o
          | .jobEnd => .jobEnd } }) ∧
      u.jobs = s.jobs ∧ u.takes = s.takes ∧ u.ready = s.ready ∧ u.links = s.links ∧ u.waiting = s.waiting)

/-! ### Cues -/

/-- PLACE CUE, once every check of R57 passes, takes the lowest-numbered free cue record, fills it with the job, the kind, the
label, the anchor and the party, and answers its reference and its job position; no other cue changes but in its next cue,
and a cue that is no TAKE cue changes no take (R55, R58). A TAKE cue at the capture point closes the job's last take and
begins an OPEN take (R78); one at a position divides the take there, whose earlier part keeps the record (R80). -/
def Obligations.PlaceCueAddsCue : Prop :=
  ∀ (p : Port) (kind : Nat) (label : BitVec 16) (f : Place) (s : State) (who : Party) (tag : Byte) (k : CueKind),
    s.routed p (.placeCue kind label f) = some (who, tag) → kindOf kind = some k →
    (who.isTypist = true → k = .note) → who.mayUse f = true →
    placeRange s who.link f = false → placeStale s f = false → placeForeign s who f = false →
    placeState s who kind f = false → who.isTypist = true ∨ (s.job (s.placeJob f)).held = false →
    placeFrozen s kind f = false → placeEmpty s kind f = false → 0 < s.cueFree → (k = .take → 0 < s.takeFree) →
    ∃ (u : State) (pos : Nat) (b : CueBody),
      exec (.placeCue p kind label f) s = .next (u.reply p (.placeCue kind label f) tag .done
        { fixed := [.ref ⟨s.lowestFreeCue, (s.cue s.lowestFreeCue).issue⟩, .num 3 pos] }) ∧
      (u.cue s.lowestFreeCue).body = some b ∧ b.job = s.jobRef (s.placeJob f) ∧ b.kind = k ∧ b.label = label ∧
      b.anchor = s.placeAnchor who.link f ∧ b.placer = who.placer ∧ u.cueFree = s.cueFree - 1 ∧
      (∀ i, i ≠ s.lowestFreeCue → (u.cue i).body.map (fun c => { c with next := none }) =
        (s.cue i).body.map fun c => { c with next := none }) ∧
      (k ≠ .take → u.takes = s.takes ∧ u.ready = s.ready ∧ u.takeFree = s.takeFree) ∧
      u.chans = s.chans ∧ u.links = s.links ∧ u.exts = s.exts ∧ u.segFree = s.segFree ∧ u.notices = s.notices ∧
      pos = s.anchorPos (s.placeJob f) (s.placeAnchor who.link f) ∧
      (∀ (job c n : Ref) (l : Nat) (b : TakeBody), k = .take → Canonical s → f = .atCapturePoint job →
        s.lastTake job.idx = some (l, b) → c = ⟨s.lowestFreeCue, (s.cue s.lowestFreeCue).issue⟩ →
        n = ⟨s.lowestFreeTake, (s.take s.lowestFreeTake).issue⟩ →
        (u.take n.idx).body.map (fun x => { x with seq := none }) = some { job := s.jobRef job.idx, start := some c } ∧
        (u.take l).body.map (fun x => { x with seq := none }) = some { b with
          next := some n, seq := none
          state := match b.state with | .opened => .ready | .following => .claimed | x => x } ∧
        (∀ i, i ≠ l → i ≠ n.idx → u.take i = s.take i ∧ (i ∈ u.ready ↔ i ∈ s.ready)) ∧
        (b.state = .opened → l ∈ u.ready) ∧ ((s.job job.idx).follow = true → n.idx ∈ u.ready) ∧
        u.takeFree = s.takeFree - 1 ∧ (u.job job.idx).takeCount = (s.job job.idx).takeCount + 1) ∧
      (∀ (job c n : Ref) (q l : Nat) (b : TakeBody), k = .take → Canonical s → f = .atPosition job q →
        s.containingTake job.idx q = some (l, b) → (∀ x, b.start = some x → (s.cue x.idx).body ≠ none) →
        c = ⟨s.lowestFreeCue, (s.cue s.lowestFreeCue).issue⟩ → n = ⟨s.lowestFreeTake, (s.take s.lowestFreeTake).issue⟩ →
        (u.take n.idx).body.map (fun x => { x with seq := none }) =
          some { job := b.job, start := some c, next := b.next, state := b.state } ∧
        (u.take l).body.map (fun x => { x with seq := none }) = some { b with
          next := some n, seq := none, state := .ready
          resume := if pos - s.takeStart b ≤ b.resume.getD 0 / 64 then none else b.resume } ∧
        (∀ i, i ≠ l → i ≠ n.idx → u.take i = s.take i ∧ (i ∈ u.ready ↔ i ∈ s.ready)) ∧
        (b.state = .opened → l ∈ u.ready) ∧ (b.state = .ready ∨ (s.job job.idx).follow = true → n.idx ∈ u.ready) ∧
        u.takeFree = s.takeFree - 1 ∧ (u.job job.idx).takeCount = (s.job job.idx).takeCount + 1)

/-- REMOVE CUE, once every check of R62 passes, frees the cue's record, with its issue raised by one; no other cue changes but
in its next cue, and a cue that is no TAKE cue changes no take (R52, R62). A TAKE cue's removal merges the take it starts
into the take that ends at it, which becomes OPEN where the later take was (R81). -/
def Obligations.RemoveCueFreesCue : Prop :=
  ∀ (p : Port) (r : Ref) (s : State) (who : Party) (tag : Byte), s.routed p (.removeCue r) = some (who, tag) →
    s.cueCurrent r = true → s.mayRemove who r.idx = true → (s.job (s.cueJob r.idx)).state ≠ .retiring →
    who.isTypist = true ∨ (s.job (s.cueJob r.idx)).held = false → s.removalFrozen r.idx = false →
    ∃ u : State, exec (.removeCue p r) s = .next (u.reply p (.removeCue r) tag .done {}) ∧
      u.cue r.idx = { issue := (s.cue r.idx).issue + 1, body := none } ∧ u.cueFree = s.cueFree + 1 ∧
      (∀ i, i ≠ r.idx → (u.cue i).body.map (fun c => { c with next := none }) =
        (s.cue i).body.map fun c => { c with next := none }) ∧
      (s.cueIs r.idx .take = false → u.takes = s.takes ∧ u.ready = s.ready ∧ u.takeFree = s.takeFree) ∧
      u.chans = s.chans ∧ u.links = s.links ∧ u.exts = s.exts ∧ u.segFree = s.segFree ∧ u.notices = s.notices ∧
      ∀ (e g : Nat) (x y : TakeBody), s.cueIs r.idx .take = true →
        s.takesAround (s.cueJob r.idx) r.idx = some ((e, x), (g, y)) → e ≠ g →
        u.take g = { issue := (s.take g).issue + 1, body := none } ∧
        u.take e = { s.take e with body := some { x with
          next := y.next, state := if y.state = .opened then .opened else .ready } } ∧
        (∀ i, i ≠ e → i ≠ g → u.take i = s.take i ∧ (i ∈ u.ready ↔ i ∈ s.ready)) ∧ g ∉ u.ready ∧
        (e ∈ u.ready ↔ e ∈ s.ready ∧ (y.state = .opened → (s.job (s.cueJob r.idx)).follow = true)) ∧
        u.takeFree = s.takeFree + 1 ∧
        (u.job (s.cueJob r.idx)).takeCount = (s.job (s.cueJob r.idx)).takeCount - 1

/-- READ CUE answers the cue's fields; CUE AT the last cue of the bound at or below the reference position, LAST CUE the last
cue of the bound, FIND CUE the first agreeing cue above the reference position or after the start cue, or, backward, the
last below it or before it; NONE when no cue qualifies (R64 to R67). -/
def Obligations.CueReadsAnswer : Prop :=
  (∀ (p : Port) (r : Ref) (s : State) (who : Party) (tag : Byte) (b : CueBody), s.routed p (.readCue r) = some (who, tag) →
    s.cueCurrent r = true → (s.cue r.idx).body = some b → s.mayReadCue who r.idx = true →
    (s.job b.job.idx).state ≠ .retiring → who.isTypist = false →
    exec (.readCue p r) s = .next (s.reply p (.readCue r) tag .done
      { fixed := [.ref r, .ref b.job, .num 1 b.kind.code, .num 2 b.label.toNat] ++ b.placer.items ++ b.anchor.items ++
          [.num 3 (s.anchorPos b.job.idx b.anchor)]
        optional := [b.next.map fun c => [.ref c], none] })) ∧
  (∀ (p : Port) (r : Ref) (s : State) (who : Party) (tag : Byte) (b : CueBody) (i : Nat) (t : TakeBody),
    s.routed p (.readCue r) = some (who, tag) →
    s.cueCurrent r = true → (s.cue r.idx).body = some b → (s.job b.job.idx).state ≠ .retiring → who.isTypist = true →
    s.heldTakeWith b.job.idx (s.anchorPos b.job.idx b.anchor) who.person = some (i, t) →
    exec (.readCue p r) s = .next (s.reply p (.readCue r) tag .done
      { fixed := [.ref r, .ref b.job, .num 1 b.kind.code, .num 2 b.label.toNat] ++ b.placer.items ++ b.anchor.items ++
          [.num 3 (s.anchorPos b.job.idx b.anchor)]
        optional := [b.next.map fun c => [.ref c],
          some [.ref (s.takeRef i), .num 3 (s.anchorPos b.job.idx b.anchor - s.takeStart t)]] })) ∧
  (∀ (p : Port) (x : Option (Ref × Nat)) (s : State) (who : Party) (tag : Byte) (b : Bound) (q : Nat),
    s.routed p (.cueAt x) = some (who, tag) → boundOf s who x = .ok (b, q) →
    (∀ i c pos, ((s.cuesIn b).filter fun c => decide (c.2.2 ≤ q)).getLast? = some (i, c, pos) →
      exec (.cueAt p x) s = .next (s.reply p (.cueAt x) tag .done
        { fixed := [.ref (s.cueRef i), .num 3 c.descriptor.toNat, .num 3 pos]
          optional := [if who.isTypist then b.takeFrom.map fun t => [.num 3 (pos - t)] else none] })) ∧
    (((s.cuesIn b).filter fun c => decide (c.2.2 ≤ q)) = [] →
      exec (.cueAt p x) s = .next (s.reply p (.cueAt x) tag .none {}))) ∧
  (∀ (p : Port) (r : Ref) (s : State) (who : Party) (tag : Byte), s.routed p (.lastCue r) = some (who, tag) →
    who.isTypist = false → s.jobCurrent r = true → who.owns (s.job r.idx) = true → (s.job r.idx).state ≠ .retiring →
    (∀ i c pos, (s.cuesIn (s.wholeJob r.idx)).getLast? = some (i, c, pos) →
      exec (.lastCue p r) s = .next (s.reply p (.lastCue r) tag .done
        { fixed := [.ref (s.cueRef i), .num 3 c.descriptor.toNat, .num 3 pos], optional := [none] })) ∧
    (s.cuesIn (s.wholeJob r.idx) = [] → exec (.lastCue p r) s = .next (s.reply p (.lastCue r) tag .none {}))) ∧
  (∀ (p : Port) (r : Ref) (s : State) (who : Party) (tag : Byte) (t : TakeBody), s.routed p (.lastCue r) = some (who, tag) →
    who.isTypist = true → s.takeCurrent r = true → (s.take r.idx).body = some t →
    t.state = .claimed ∨ t.state = .following → t.typist = some who.person → (s.job t.job.idx).state ≠ .retiring →
    (∀ i c pos, (s.cuesIn (s.takeBound t)).getLast? = some (i, c, pos) →
      exec (.lastCue p r) s = .next (s.reply p (.lastCue r) tag .done
        { fixed := [.ref (s.cueRef i), .num 3 c.descriptor.toNat, .num 3 pos]
          optional := [some [.num 3 (pos - s.takeStart t)]] })) ∧
    (s.cuesIn (s.takeBound t) = [] → exec (.lastCue p r) s = .next (s.reply p (.lastCue r) tag .none {}))) ∧
  (∀ (p : Port) (x : Option (Ref × Nat)) (dir : Nat) (y m : BitVec 20) (st : Option Ref) (s : State) (who : Party)
      (tag : Byte) (b : Bound) (q : Nat) (found : Option (Nat × CueBody × Nat)),
    s.routed p (.findCue x dir y m st) = some (who, tag) → boundOf s who x = .ok (b, q) → dir ≤ 1 →
    (∀ r, st = some r → s.cueCurrent r = true ∧ ∃ c ∈ s.cuesIn b, c.1 = r.idx) →
    found = (match dir, st with
      | 0, none => (s.cuesIn b).find? fun c => agrees c.2.1.descriptor y m && decide (q < c.2.2)
      | 0, some r => (((s.cuesIn b).dropWhile fun c => !(some r == some (s.cueRef c.1))).drop 1).find? fun c =>
          agrees c.2.1.descriptor y m
      | _, none => ((s.cuesIn b).filter fun c => agrees c.2.1.descriptor y m && decide (c.2.2 < q)).getLast?
      | _, some r => (((s.cuesIn b).takeWhile fun c => !(some r == some (s.cueRef c.1))).filter fun c =>
          agrees c.2.1.descriptor y m).getLast?) →
    exec (.findCue p x dir y m st) s = .next (match found with
      | some (i, c, pos) => s.reply p (.findCue x dir y m st) tag .done
          { fixed := [.ref (s.cueRef i), .num 3 c.descriptor.toNat, .num 3 pos]
            optional := [if who.isTypist then b.takeFrom.map fun t => [.num 3 (pos - t)] else none] }
      | none => s.reply p (.findCue x dir y m st) tag .none {}))

/-! ### Takes -/

/-- CLAIM NEXT gives a typist whose hold count is below 4 the first take of the ready queue whose job's class is eligible:
it leaves the queue, READY becomes CLAIMED and OPEN becomes FOLLOWING, the typist number is set and the hold count rises by
one. It is refused LIMIT at a hold count of 4 and EMPTY when no queued take is eligible. ASSIGN gives the take named in the
same way (R83, R85). The queue stands in the order of class, due minute, readiness sequence and record index: a take that
enters it (`State.enterQueue`) stands where these keys put it, with the readiness counter's value when it has no sequence,
and the others keep their order (R74, R75). -/
def Obligations.ClaimAndAssignGiveTakes : Prop :=
  (∀ (l : Fin 16) (s : State) (who : Party) (tag : Byte) (pre post : List Nat) (i : Nat) (b : TakeBody),
    s.routed (.station l) .claimNext = some (who, tag) → s.hold who.person < 4 → s.ready = pre ++ i :: post →
    (∀ k ∈ pre, ∀ c, (s.take k).body = some c → (s.link l).elig.getLsbD (s.job c.job.idx).cls.code = false) →
    (s.take i).body = some b → (s.link l).elig.getLsbD (s.job b.job.idx).cls.code = true →
    ∃ u : State, exec (.claimNext l) s = .next (u.reply (.station l) .claimNext tag .done
        { fixed := [.ref ⟨i, (s.take i).issue⟩, .ref b.job, .num 1 (if b.state = .opened then 1 else 3)] }) ∧
      (u.take i).body = some { b with
        typist := some who.person, state := if b.state = .opened then .following else .claimed } ∧
      u.ready = s.ready.filter (fun k => k != i) ∧ u.hold who.person = s.hold who.person + 1 ∧
      (∀ k, k ≠ i → u.take k = s.take k) ∧ (∀ n, n ≠ who.person → u.hold n = s.hold n) ∧ u.jobs = s.jobs ∧
      u.chans = s.chans ∧ u.segs = s.segs ∧ u.cues = s.cues ∧ u.links = s.links ∧ u.notices = s.notices) ∧
  (∀ (l : Fin 16) (s : State) (who : Party) (tag : Byte), s.routed (.station l) .claimNext = some (who, tag) →
    (4 ≤ s.hold who.person → exec (.claimNext l) s = .next (s.reply (.station l) .claimNext tag .limit {})) ∧
    (s.hold who.person < 4 →
      (∀ k ∈ s.ready, ∀ c, (s.take k).body = some c → (s.link l).elig.getLsbD (s.job c.job.idx).cls.code = false) →
      exec (.claimNext l) s = .next (s.reply (.station l) .claimNext tag .empty {}))) ∧
  (∀ (r : Ref) (n : Nat) (s : State) (who : Party) (tag : Byte) (b : TakeBody),
    s.routed .console (.assign r n) = some (who, tag) → 1 ≤ n → n ≤ 63 → s.takeCurrent r = true →
    (s.take r.idx).body = some b → (s.job b.job.idx).state ≠ .retiring → b.state = .ready ∨ b.state = .opened →
    s.hold n < 4 →
    ∃ u : State, exec (.assign r n) s = .next (u.reply .console (.assign r n) tag .done {}) ∧
      (u.take r.idx).body = some { b with
        typist := some n, state := if b.state = .opened then .following else .claimed } ∧
      u.ready = s.ready.filter (fun k => k != r.idx) ∧ u.hold n = s.hold n + 1 ∧
      (∀ k, k ≠ r.idx → u.take k = s.take k) ∧ (∀ m, m ≠ n → u.hold m = s.hold m) ∧ u.jobs = s.jobs ∧
      u.chans = s.chans ∧ u.segs = s.segs ∧ u.cues = s.cues ∧ u.links = s.links ∧ u.notices = s.notices) ∧
  (∀ a b : Nat × Nat × Nat × Nat, keyBefore a b = true ↔ a.1 < b.1 ∨ (a.1 = b.1 ∧ (a.2.1 < b.2.1 ∨ (a.2.1 = b.2.1 ∧
    (a.2.2.1 < b.2.2.1 ∨ (a.2.2.1 = b.2.2.1 ∧ a.2.2.2 < b.2.2.2)))))) ∧
  (∀ (s : State) (i : Nat) (b : TakeBody), (s.take i).body = some b → s.queueKey i =
    ((s.job b.job.idx).cls.code, (s.job b.job.idx).due.toNat, (b.seq.getD 0).toNat, i)) ∧
  (∀ (s : State) (i : Nat) (b : TakeBody), (s.take i).body = some b → i ∉ s.ready →
    ((s.enterQueue i).take i).body = some { b with seq := some (b.seq.getD s.readiness) } ∧
    (s.enterQueue i).readiness = (if b.seq = none then s.readiness + 1 else s.readiness) ∧
    (∀ k, k ≠ i → (s.enterQueue i).take k = s.take k) ∧
    (s.enterQueue i).ready.Perm (i :: s.ready) ∧ (s.enterQueue i).ready.filter (fun k => k != i) = s.ready ∧
    (s.ready.Pairwise (fun x y => keyBefore (s.queueKey x) (s.queueKey y) = true) → (s.enterQueue i).ready.Pairwise fun x y =>
      keyBefore ((s.enterQueue i).queueKey x) ((s.enterQueue i).queueKey y) = true))

/-- RETURN TAKE makes a CLAIMED take of its typist RETURNED, its resume position cleared and the hold count one lower, and sends
a completion report when the job is CLOSED with every take RETURNED (R87). -/
def Obligations.ReturnTakeReturns : Prop :=
  ∀ (l : Fin 16) (r : Ref) (s : State) (who : Party) (tag : Byte) (b : TakeBody),
    s.routed (.station l) (.returnTake r) = some (who, tag) → s.takeCurrent r = true → (s.take r.idx).body = some b →
    b.typist = some who.person → b.state = .claimed → s.anyLoaded r = false →
    ∃ u : State, exec (.returnTake l r) s = .next (u.reply (.station l) (.returnTake r) tag .done {}) ∧
      (u.take r.idx).body = some { b with state := .returned, resume := none } ∧
      u.hold who.person = s.hold who.person - 1 ∧ (∀ k, k ≠ r.idx → u.take k = s.take k) ∧
      (∀ m, m ≠ who.person → u.hold m = s.hold m) ∧
      u.reports = (if (s.job b.job.idx).state = .closed ∧ u.allReturned b.job.idx = true then s.reports ++ [b.job]
        else s.reports) ∧
      u.jobs = s.jobs ∧ u.ready = s.ready ∧ u.chans = s.chans ∧ u.links = s.links ∧ u.notices = s.notices

/-- REVOKE takes a CLAIMED or FOLLOWING take from its typist: it becomes READY in the queue, or OPEN and in the queue under
follow-behind, and every channel that had it loaded stops; REWORK makes a RETURNED take READY in the queue, or CLAIMED by
the typist named, and a COMPLETE or RELEASING job CLOSED with its release forgotten (R88, R89). -/
def Obligations.RevokeAndReworkMoveTakes : Prop :=
  (∀ (r : Ref) (s : State) (who : Party) (tag : Byte) (b : TakeBody) (n : Nat),
    s.routed .console (.revoke r) = some (who, tag) → s.takeCurrent r = true → (s.take r.idx).body = some b →
    b.state = .claimed ∨ b.state = .following → b.typist = some n →
    ∃ (u : State) (c : TakeBody), exec (.revoke r) s = .next (u.reply .console (.revoke r) tag .done {}) ∧
      (u.take r.idx).body = some c ∧ c.typist = none ∧
      c.state = (if b.state = .following then .opened else .ready) ∧ c.job = b.job ∧ c.start = b.start ∧ c.next = b.next ∧
      u.hold n = s.hold n - 1 ∧ (b.state = .claimed ∨ (s.job b.job.idx).follow = true → r.idx ∈ u.ready) ∧
      (∀ ch, ch < 16 → (s.chan ch).loaded = some r → (u.chan ch).stream = .idle) ∧
      (∀ ch, (s.chan ch).loaded ≠ some r → u.chan ch = s.chan ch) ∧
      (∀ k, k ≠ r.idx → u.take k = s.take k) ∧ u.jobs = s.jobs ∧ u.segs = s.segs ∧ u.cues = s.cues) ∧
  (∀ (r : Ref) (s : State) (who : Party) (tag : Byte) (b : TakeBody),
    s.routed .console (.rework r none) = some (who, tag) → s.takeCurrent r = true → (s.take r.idx).body = some b →
    (s.job b.job.idx).state ≠ .retiring → b.state = .returned → (s.job b.job.idx).exportBusy = false →
    ∃ (u : State) (c : TakeBody), exec (.rework r none) s = .next (u.reply .console (.rework r none) tag .done {}) ∧
      (u.take r.idx).body = some c ∧ c.typist = none ∧ c.state = .ready ∧ r.idx ∈ u.ready ∧ u.holds = s.holds ∧
      u.job b.job.idx = (if (s.job b.job.idx).state = .complete ∨ (s.job b.job.idx).state = .releasing then
        { s.job b.job.idx with state := .closed, release := none } else s.job b.job.idx) ∧
      (∀ k, k ≠ b.job.idx → u.job k = s.job k) ∧ (∀ k, k ≠ r.idx → u.take k = s.take k) ∧ u.chans = s.chans) ∧
  (∀ (r : Ref) (n : Nat) (s : State) (who : Party) (tag : Byte) (b : TakeBody),
    s.routed .console (.rework r (some n)) = some (who, tag) → 1 ≤ n → n ≤ 63 → s.takeCurrent r = true →
    (s.take r.idx).body = some b → (s.job b.job.idx).state ≠ .retiring → b.state = .returned →
    (s.job b.job.idx).exportBusy = false → s.hold n < 4 →
    ∃ u : State, exec (.rework r (some n)) s = .next (u.reply .console (.rework r (some n)) tag .done {}) ∧
      (u.take r.idx).body = some { b with state := .claimed, typist := some n } ∧ u.hold n = s.hold n + 1 ∧
      u.ready = s.ready ∧
      u.job b.job.idx = (if (s.job b.job.idx).state = .complete ∨ (s.job b.job.idx).state = .releasing then
        { s.job b.job.idx with state := .closed, release := none } else s.job b.job.idx) ∧
      (∀ k, k ≠ b.job.idx → u.job k = s.job k) ∧ (∀ k, k ≠ r.idx → u.take k = s.take k) ∧ u.chans = s.chans)

/-- READ TAKE answers the take's fields; HELD TAKES lists the requester's CLAIMED and FOLLOWING takes in ascending record
index; QUEUE ENTRY answers the take at a rank of the queue, or NONE (R92; layouts by R203; the widths
of the rank and of the frame count, and the places of the results: the model's choice, assumption 20). -/
def Obligations.TakeReadsAnswer : Prop :=
  (∀ (p : Port) (r : Ref) (s : State) (who : Party) (tag : Byte) (b : TakeBody), s.routed p (.readTake r) = some (who, tag) →
    s.takeCurrent r = true → (s.take r.idx).body = some b →
    who.owns (s.job b.job.idx) = true ∨ (who.isTypist = true ∧ b.typist = some who.person) →
    (s.job b.job.idx).state ≠ .retiring →
    exec (.readTake p r) s = .next (s.reply p (.readTake r) tag .done
      { fixed := [.ref b.job, .num 1 b.state.code, .num 3 (s.takeStart b), .num 3 (s.takeEnd b - s.takeStart b)]
        optional := [b.typist.map fun n => [.num 1 n], b.seq.map fun n => [.num 4 n.toNat], b.start.map fun c => [.ref c],
          b.resume.map fun n => [.num 4 n], b.next.map fun n => [.ref n],
          if s.ready.contains r.idx then some [.num 2 (s.ready.idxOf r.idx)] else none] })) ∧
  (∀ (l : Fin 16) (s : State) (who : Party) (tag : Byte), s.routed (.station l) .heldTakes = some (who, tag) →
    ∃ held : List (Nat × TakeBody), exec (.heldTakes l) s = .next (s.reply (.station l) .heldTakes tag .done
        { fixed := [.num 1 held.length]
          rest := held.flatMap fun x => [.ref (s.takeRef x.1), .ref x.2.job, .num 1 x.2.state.code] }) ∧
      (Canonical s → held.Pairwise (fun x y => x.1 < y.1) ∧
        ∀ i b, (i, b) ∈ held ↔ (s.take i).body = some b ∧ (b.state = .claimed ∨ b.state = .following) ∧
          b.typist = some who.person)) ∧
  (∀ (rank : Nat) (s : State) (who : Party) (tag : Byte), s.routed .console (.queueEntry rank) = some (who, tag) →
    rank ≤ 1023 →
    (∀ i b, s.ready[rank]? = some i → (s.take i).body = some b →
      exec (.queueEntry rank) s = .next (s.reply .console (.queueEntry rank) tag .done
        { fixed := [.ref ⟨i, (s.take i).issue⟩, .num 1 b.state.code, .num 1 (s.job b.job.idx).cls.code,
            .num 2 (s.job b.job.idx).due.toNat, .num 4 (b.seq.getD 0).toNat] })) ∧
    (s.ready.length ≤ rank → exec (.queueEntry rank) s = .next (s.reply .console (.queueEntry rank) tag .none {})))

/-! ### Store -/

/-- SET BANK MAP writes the four windows together and gives every extent the state SCRUB or ABSENT with count 0 and taint clear;
FORMAT empties both lists, scrubs every present extent that is not DAMAGED in ascending order and leaves the pool
FORMATTED; SET BULK PRIORITY writes its values together (R96, R103, R107). As an access ends (`State.endAccess`, the whole
effect of a completion that nobody wants), the arbiter grants, of the claims waiting: the burst channel's oldest while a
burst goes on; otherwise, in the highest class with a claim, the oldest claim of the first claiming channel after the one
served last, which then is the one served last; or the scrub's, which is alone in its class (R105 to R107). That the channel
served last is kept by class number, and that the grant comes before the completion's own effect, are the model's reading
(assumptions 7 and 6), and that enable code 1 is enabled, and that no burst continues from
an access granted in INTERLEAVE whose channel is made HOG before it completes, are its choices (assumptions 20 and 52). The
access in progress drives its direction, its store byte address, the bank line of its extent and
its claimant (R94): the line of the lowest-numbered window that is enabled and agrees with the extent's group at every bit of
its mask (R95). -/
def Obligations.BankMapFormatPriority : Prop :=
  (∀ (w0 w1 w2 w3 : WindowSpec) (s : State) (who : Party) (tag : Byte) (b : BankMap),
    s.routed .console (.setBankMap w0 w1 w2 w3) = some (who, tag) →
    (∀ w, w = w0 ∨ w = w1 ∨ w = w2 ∨ w = w3 → w.enable ≤ 1 ∧ w.base ≤ 15 ∧ w.mask ≤ 15) → s.formatted = false →
    b = { w0 := windowOf w0, w1 := windowOf w1, w2 := windowOf w2, w3 := windowOf w3 } → s.bank ≠ b →
    ∃ u : State, exec (.setBankMap w0 w1 w2 w3) s = .next (u.reply .console (.setBankMap w0 w1 w2 w3) tag .done {}) ∧
      (Canonical s → ∀ e, e < 4096 → u.ext e = { state := if b.present e then .scrub else .absent, refs := 0, taint := false }) ∧
      u = { s with bank := b, exts := u.exts }) ∧
  (∀ (s : State) (who : Party) (tag : Byte), s.routed .console .format = some (who, tag) →
    s.formatted = false ∨ ((∀ x ∈ s.jobs, x.2.state = .vacant) ∧ ∀ c, c < 16 → (s.chan c).isIdle = true) →
    ∃ u : State, exec .format s = .next (u.reply .console .format tag .done {}) ∧
      u.formatted = true ∧ u.freeList = [] ∧
      u.scrubList = ((List.range 4096).filter fun e => s.bank.present e && decide ((s.ext e).state ≠ .damaged)) ∧
      u.formatLeft = u.scrubList.length ∧ u.scrubNext = 0 ∧
      (Canonical s → ∀ e ∈ u.scrubList, u.ext e = { state := .scrub, refs := 0, taint := false }) ∧
      (Canonical s → ∀ e, e ∉ u.scrubList → u.ext e = s.ext e) ∧
      u.jobs = s.jobs ∧ u.chans = s.chans ∧ u.bank = s.bank ∧ u.threshold = s.threshold ∧ u.links = s.links) ∧
  (∀ (placement m14 b14 m15 b15 : Nat) (s : State) (who : Party) (tag : Byte),
    s.routed .console (.setBulkPriority placement m14 b14 m15 b15) = some (who, tag) →
    placement ≤ 1 → m14 ≤ 1 → m15 ≤ 1 → 1 ≤ b14 → b14 ≤ 16 → 1 ≤ b15 → b15 ≤ 16 →
    exec (.setBulkPriority placement m14 b14 m15 b15) s = .next (
      if s.bulkAbove = decide (placement = 0) ∧ s.bulk14 = ⟨bulkModeOf m14, b14⟩ ∧ s.bulk15 = ⟨bulkModeOf m15, b15⟩ then
        s.reply .console (.setBulkPriority placement m14 b14 m15 b15) tag .already {}
      else ({ s with
          bulkAbove := decide (placement = 0), bulk14 := ⟨bulkModeOf m14, b14⟩, bulk15 := ⟨bulkModeOf m15, b15⟩ } : State).reply
        .console (.setBulkPriority placement m14 b14 m15 b15) tag .done {})) ∧
  (∀ (s : State) (a : Access), s.port = some a → s.storeWire = some
    { write := (match a.claim.use with | .capture .. | .scrub => true | .play _ | .bulk .. => false)
      address := a.claim.extent * 262144 + a.claim.frame * 64
      line := s.bank.line a.claim.extent
      claimant := (match a.claim.use with | .capture ch .. | .play ch | .bulk ch _ => some ch | .scrub => none)
      data := (match a.claim.use with | .capture _ _ data => some data | .scrub => some 0 | .play _ | .bulk .. => none) }) ∧
  (∀ s : State, s.port = none → s.storeWire = none) ∧
  (∀ (b : BankMap) (e : Nat), b.line e = [b.w0, b.w1, b.w2, b.w3].findIdx? fun w =>
    w.enable && [0, 1, 2, 3].all fun k => !w.mask.testBit k || (e / 256).testBit k == w.base.testBit k) ∧
  (∀ (above : Bool) (ch pos : Nat) (job : Ref) (data : Frame), claimClass above (.capture ch job data) = 1 ∧
    claimClass above (.play ch) = 2 ∧ claimClass above (.bulk ch pos) = (if above then 3 else 4) ∧
    claimClass above .scrub = if above then 4 else 3) ∧
  (∀ (s : State) (a : Access) (ch : Nat), s.port = some a → a.claim.use = .play ch → a.live = false →
    exec (.playReadCompletion false) s = .next (s.endAccess a)) ∧
  (∀ (s : State) (a : Access), s.waiting = [] → s.endAccess a = { s with port := none }) ∧
  (∀ (s : State) (a : Access) (ch pos p : Nat) (w : Claim) (pre post : List Claim), a.claim.use = .bulk ch pos →
    0 < a.burst → (s.bulkSetting ch).mode = .hog → a.burst < (s.bulkSetting ch).burst → s.waiting = pre ++ w :: post →
    w.use = .bulk ch p → (∀ x ∈ pre, ∀ q, x.use ≠ .bulk ch q) →
    s.endAccess a = { s with
      waiting := pre ++ post, port := some { claim := w, burst := a.burst + 1, place := true } }) ∧
  (∀ (s : State) (a : Access) (w : Claim) (pre post : List Claim) (k : Nat),
    (∀ ch pos, a.claim.use = .bulk ch pos → a.burst = 0 ∨ (s.bulkSetting ch).mode = .interleave ∨
      (s.bulkSetting ch).burst ≤ a.burst ∨ ∀ x ∈ s.waiting, ∀ q, x.use ≠ .bulk ch q) →
    s.waiting = pre ++ w :: post → k = claimClass s.bulkAbove w.use →
    (∀ x ∈ s.waiting, k ≤ claimClass s.bulkAbove x.use) →
    (w.use = .scrub → (∀ x ∈ pre, x.use ≠ .scrub) →
      s.endAccess a = { s with waiting := pre ++ post, port := some { claim := w } }) ∧
    ∀ i ch, i < 16 → ch = (s.served.get k + 1 + i) % 16 → w.use.chan? = some ch →
      (∀ x ∈ pre, claimClass s.bulkAbove x.use = k → x.use.chan? ≠ some ch) →
      (∀ m, m < i → ∀ x ∈ s.waiting, claimClass s.bulkAbove x.use = k →
        x.use.chan? ≠ some ((s.served.get k + 1 + m) % 16)) →
      s.endAccess a = { s with
        waiting := pre ++ post, served := s.served.set k ch
        port := some { claim := w, place := w.use.isBulk
                       burst := if w.use.isBulk = true ∧ (s.bulkSetting ch).mode = .hog then 1 else 0 } })

/-- SET POOL THRESHOLD is refused RANGE above 4,095 and ALREADY for the present threshold; otherwise the threshold is written
and the mark tested at once: an ARMED mark above whose free count the new threshold lies raises POOL-LOW and becomes
SPENT, a SPENT mark at or above it becomes ARMED, otherwise the mark is unchanged (R102). -/
def Obligations.SetPoolThresholdTestsTheMark : Prop :=
  ∀ (n : Nat) (s : State) (who : Party) (tag : Byte), s.routed .console (.setPoolThreshold n) = some (who, tag) →
    exec (.setPoolThreshold n) s = .next (
      if 4095 < n then s.reply .console (.setPoolThreshold n) tag .range {}
      else if n = s.threshold then s.reply .console (.setPoolThreshold n) tag .already {}
      else (if s.lowArmed = true ∧ s.freeList.length < n then
          ({ s with threshold := n, lowArmed := false } : State).raise (.poolLow s.freeList.length n)
        else if s.lowArmed = false ∧ n ≤ s.freeList.length then { s with threshold := n, lowArmed := true }
        else { s with threshold := n }).reply .console (.setPoolThreshold n) tag .done {})

/-! ### Capture -/

/-- SET CAPTURE MODE on a PAUSED capture with no frame in flight: APPEND, or an edit point at the job's length, sets the
point to END and the mode to APPEND; an editable point below the length sets the point to the anchor of the frame there
and the mode named, splitting a segment the point falls inside (`splitSeg`, whose effect RangesWriteParts states; R33). SEAL MODE writes the seal class, CAPTURE SETUP the counts
and the END enables. Each clears NO-CONTINUATION (R44, R124, R125). -/
def Obligations.CaptureModesAreSet : Prop :=
  (∀ (l : Fin 16) (m : ModeRequest) (s : State) (who : Party) (tag : Byte) (c : Capture),
    s.routed (.station l) (.setCaptureMode m) = some (who, tag) → (s.chan l).stream = .capture c → c.running = false →
    (s.placement l).inflight = [] →
    m = .append ∨ m = .insert (s.job c.job.idx).length ∨ m = .overwrite (s.job c.job.idx).length →
    ∃ u : State, exec (.setCaptureMode l m) s = .next (u.reply (.station l) (.setCaptureMode m) tag .done {}) ∧
      u.chan l = { s.chan l with
        stream := .capture { c with ctx := { c.ctx with point := .jobEnd, mode := .append } }, noContinuation := false } ∧
      u.placement l = { s.placement l with runStart := none } ∧ (∀ k, k ≠ l.val → u.chan k = s.chan k) ∧
      (∀ k, k ≠ l.val → u.placement k = s.placement k) ∧ u = { s with chans := u.chans, places := u.places }) ∧
  (∀ (l : Fin 16) (p : Nat) (m : ModeRequest) (s : State) (who : Party) (tag : Byte) (c : Capture) (i k : Nat)
      (b : SegBody),
    s.routed (.station l) (.setCaptureMode m) = some (who, tag) → m = .insert p ∨ m = .overwrite p →
    (s.chan l).stream = .capture c → c.running = false → (s.placement l).inflight = [] →
    p < (s.job c.job.idx).length → s.editable c.job.idx p = true → s.locate c.job.idx p = some (i, b, k) →
    k = 0 ∨ 0 < s.segFree →
    ∃ u : State, exec (.setCaptureMode l m) s = .next (u.reply (.station l) (.setCaptureMode m) tag .done {}) ∧
      (u.chan l).stream = .capture { c with ctx := { c.ctx with
        point := u.anchorAt c.job.idx p, mode := if m = .insert p then .insert else .overwrite } } ∧
      (u.chan l).noContinuation = false ∧ (u.placement l).runStart = none ∧ (u.placement l).inflight = [] ∧
      u.segFree = (if k = 0 then s.segFree else s.segFree - 1) ∧
      (k = 0 → u.segs = s.segs ∧ u.cues = s.cues ∧ u.exts = s.exts ∧
        ∀ x, x ≠ l.val → u.chan x = s.chan x ∧ u.placement x = s.placement x) ∧
      (0 < k → u.segs = (s.splitSeg i k).segs ∧ u.cues = (s.splitSeg i k).cues ∧ u.exts = (s.splitSeg i k).exts ∧
        ∀ x, x ≠ l.val → u.chan x = (s.splitSeg i k).chan x ∧ u.placement x = (s.splitSeg i k).placement x) ∧
      (∀ e, e ≠ b.extent → u.ext e = s.ext e) ∧
      u = { s with
        segs := u.segs, segFree := u.segFree, cues := u.cues, exts := u.exts, chans := u.chans, places := u.places }) ∧
  (∀ (l : Fin 16) (n : Nat) (s : State) (who : Party) (tag : Byte) (c : Capture),
    s.routed (.station l) (.sealMode n) = some (who, tag) → n ≤ 3 → (s.chan l).stream = .capture c → c.running = false →
    (s.placement l).inflight = [] →
    ∃ u : State, exec (.sealMode l n) s = .next (u.reply (.station l) (.sealMode n) tag .done {}) ∧
      ChannelSetTo s u l { s.chan l with
        stream := .capture { c with ctx := { c.ctx with sealClass := n } }, noContinuation := false }) ∧
  (∀ (l : Fin 16) (n base : Nat) (reload chain notify : Bool) (s : State) (who : Party) (tag : Byte) (c : Capture),
    s.routed (.station l) (.captureSetup n base reload chain notify) = some (who, tag) →
    n = 0 ∨ (6000 ≤ n ∧ n ≤ 1048575) → base = 0 ∨ (6000 ≤ base ∧ base ≤ 1048575) → (s.chan l).stream = .capture c →
    ∃ u : State, exec (.captureSetup l n base reload chain notify) s =
        .next (u.reply (.station l) (.captureSetup n base reload chain notify) tag .done {}) ∧
      ChannelSetTo s u l { s.chan l with
        stream := .capture { c with ctx := { c.ctx with remaining := n, base := base } }
        noContinuation := false, chainAbort := false
        matrix := { (s.chan l).matrix with endReload := reload, endChain := chain, endNotify := notify } })

/-- RECORD, and a RECORD press that reaches the channel, make a PAUSED capture RUNNING with its frame timeout counter at 0;
PAUSE and a RECORD release make a RUNNING one PAUSED; PAUSE on typist play leaves it PAUSED where it stands, its read
discarded (R122, R135, R189). -/
def Obligations.RecordAndPauseRun : Prop :=
  (∀ (l : Fin 16) (s : State) (who : Party) (tag : Byte) (c : Capture),
    s.routed (.station l) .record = some (who, tag) → (s.chan l).stream = .capture c → c.running = false →
    (s.chan l).second = none →
    ∃ u : State, exec (.record l) s = .next (u.reply (.station l) .record tag .done {}) ∧
      ChannelSetTo s u l
        { s.chan l with stream := .capture { c with running := true, counter := 0 }, noContinuation := false }) ∧
  (∀ (l : Fin 16) (s : State) (who : Party) (tag : Byte) (c : Capture),
    s.routed (.station l) .pause = some (who, tag) → (s.chan l).stream = .capture c → c.running = true →
    ∃ u : State, exec (.pause l) s = .next (u.reply (.station l) .pause tag .done {}) ∧
      ChannelSetTo s u l { s.chan l with stream := .capture { c with running := false, counter := 0 } }) ∧
  (∀ (l : Fin 16) (s : State) (who : Party) (tag : Byte) (p : Play),
    s.routed (.station l) .pause = some (who, tag) → (s.chan l).stream = .play p → p.run ≠ .paused →
    ∃ u : State, exec (.pause l) s = .next (u.reply (.station l) .pause tag .done {}) ∧
      ChannelHaltedTo s u l { s.chan l with stream := .play { p with run := .paused, read := none } }) ∧
  (∀ (l : Fin 16) (s : State) (c : Capture), (s.link l).up = true → (s.chan l).binding = .link →
    (s.link l).role = .reporter → (s.link l).pedalMask = false → (s.chan l).stream = .capture c →
    (c.running = true → ∃ u : State, exec (.recordRelease l) s = .next u ∧
      ChannelSetTo s u l { s.chan l with stream := .capture { c with running := false, counter := 0 } }) ∧
    (c.running = false → (s.chan l).noContinuation = false → (s.chan l).second = none → (s.chan l).suspended = false →
      ∃ u : State, exec (.recordPress l) s = .next u ∧
        ChannelSetTo s u l { s.chan l with stream := .capture { c with running := true, counter := 0 } }))

/-- READBACK parks a PAUSED capture with no frame in flight, places a READBACK cue at its point and plays from the start
named, SUSPENDED while SECOND-NOTICE is set; READBACK END restores the capture PAUSED, and RECORD during a read-back
restores it RUNNING (R129, R131, R61). -/
def Obligations.ReadbackStartsAndEnds : Prop :=
  (∀ (l : Fin 16) (label : BitVec 16) (start : CueOrPos) (s : State) (who : Party) (tag : Byte) (c : Capture),
    s.routed (.station l) (.readback label start) = some (who, tag) → (s.chan l).stream = .capture c →
    c.running = false → (s.placement l).inflight = [] → 0 < s.cueFree →
    (match start with
      | .pos p => p < (s.job c.job.idx).length
      | .cue r => s.cueCurrent r = true ∧
          ∃ b, (s.cue r.idx).body = some b ∧ b.job.idx = c.job.idx ∧ b.anchor ≠ .jobEnd) →
    ∃ (u : State) (b : CueBody), exec (.readback l label start) s =
        .next (u.reply (.station l) (.readback label start) tag .done
          { fixed := [.ref ⟨s.lowestFreeCue, (s.cue s.lowestFreeCue).issue⟩] }) ∧
      u.chan l = { s.chan l with
        stream := .readback { job := c.job, parked := c.ctx
                              pos := (match start with | .pos p => p | .cue r => u.cuePos r.idx) * 64 }
        suspended := (s.chan l).second.isSome } ∧
      (u.cue s.lowestFreeCue).body = some b ∧ b.job = s.jobRef c.job.idx ∧ b.kind = .readback ∧ b.label = label ∧
      b.anchor = c.ctx.point ∧ b.placer = .reporter (s.job c.job.idx).reporter ∧ u.cueFree = s.cueFree - 1 ∧
      (∀ i, i ≠ s.lowestFreeCue → (u.cue i).body.map (fun c => { c with next := none }) =
        (s.cue i).body.map fun c => { c with next := none }) ∧
      (u.placement l).runStart = none ∧ (∀ k, k ≠ l.val → u.chan k = s.chan k) ∧
      u = { s with
        jobs := u.jobs, segs := u.segs, cues := u.cues, cueFree := u.cueFree, chans := u.chans, places := u.places }) ∧
  (∀ (l : Fin 16) (s : State) (who : Party) (tag : Byte) (r : Readback),
    s.routed (.station l) .readbackEnd = some (who, tag) → (s.chan l).stream = .readback r →
    ∃ u : State, exec (.readbackEnd l) s = .next (u.reply (.station l) .readbackEnd tag .done {}) ∧
      ChannelHaltedTo s u l { s.chan l with stream := .capture { job := r.job, ctx := r.parked }, suspended := false }) ∧
  (∀ (l : Fin 16) (s : State) (who : Party) (tag : Byte) (r : Readback),
    s.routed (.station l) .record = some (who, tag) → (s.chan l).stream = .readback r → (s.chan l).second = none →
    ∃ u : State, exec (.record l) s = .next (u.reply (.station l) .record tag .done {}) ∧
      ChannelHaltedTo s u l { s.chan l with
        stream := .capture { job := r.job, ctx := r.parked, running := true }, suspended := false, noContinuation := false })

/-- FRAME_ARRIVAL on a RUNNING capture: with four frames in flight the frame is discarded; with room in the tail extent it
takes the fill point there; with no tail extent it takes frame 0 of the head of the free list; and it claims its write.
With no free extent the capture ends STORE-FULL and its LIVE job becomes SET-ASIDE (R34, R35, R123, R128). -/
def Obligations.FrameArrivalClaimsAWrite : Prop :=
  ∀ (l : Fin 16) (data : Frame) (s : State) (c : Capture), (s.link l).up = true → (s.chan l).binding = .link →
    (s.link l).role = .reporter → (s.chan l).stream = .capture c → c.running = true →
    (4 ≤ (s.placement l).inflight.length → ∃ u : State, exec (.frameArrival l data) s = .next u ∧
      ChannelSetTo s u l { s.chan l with stream := .capture { c with counter := 0 } }) ∧
    ((s.placement l).inflight.length < 4 →
      State.arrivalMode c.ctx = .overwrite ∨ (s.job c.job.idx).length + State.raising (s.placement l).inflight < 16777215 →
      (∀ t, (s.job c.job.idx).tail = some t → t.fill < 4096 →
        ∃ u : State, exec (.frameArrival l data) s = .next u ∧
          u.chan l = { s.chan l with stream := .capture { c with counter := 0 } } ∧
          u.placement l = { s.placement l with inflight := (s.placement l).inflight ++
            [{ extent := t.extent, frame := t.fill, mode := State.arrivalMode c.ctx, data := data }] } ∧
          u.job c.job.idx = { s.job c.job.idx with tail := some { t with fill := t.fill + 1 } } ∧
          (s.port ≠ none → u.port = s.port ∧
            u.waiting = s.waiting ++ [⟨t.extent, t.fill, .capture l c.job data⟩]) ∧
          (s.port = none → s.waiting = [] → u.waiting = [] ∧
            u.port = some { claim := ⟨t.extent, t.fill, .capture l c.job data⟩ }) ∧
          (∀ k, k ≠ l.val → u.chan k = s.chan k ∧ u.placement k = s.placement k) ∧
          (∀ k, k ≠ c.job.idx → u.job k = s.job k) ∧
          u = { s with
            jobs := u.jobs, places := u.places, chans := u.chans, waiting := u.waiting, port := u.port, served := u.served }) ∧
      (∀ e rest, (s.job c.job.idx).tail = none → s.freeList = e :: rest →
        ∃ u : State, exec (.frameArrival l data) s = .next u ∧
          (u.placement l).inflight = (s.placement l).inflight ++
            [{ extent := e, frame := 0, mode := State.arrivalMode c.ctx, data := data }] ∧
          u.job c.job.idx = { s.job c.job.idx with tail := some { extent := e, fill := 1 } } ∧
          u.freeList = rest ∧ u.ext e = { s.ext e with state := .inUse, refs := 1 } ∧
          (∀ x, x ≠ e → u.ext x = s.ext x) ∧
          (s.port ≠ none → u.port = s.port ∧ u.waiting = s.waiting ++ [⟨e, 0, .capture l c.job data⟩]) ∧
          u.mem = s.mem ∧ u.segs = s.segs ∧ u.cues = s.cues ∧ u.takes = s.takes ∧ u.links = s.links) ∧
      ((s.job c.job.idx).tail = none → s.freeList = [] → s.notices.length < 32 →
        ∃ u : State, exec (.frameArrival l data) s = .next u ∧ (u.chan l).stream = .idle ∧ u.placement l = {} ∧
          u.job c.job.idx = { s.job c.job.idx with
            chan := none
            state := if (s.job c.job.idx).state = .live then .setAside else (s.job c.job.idx).state } ∧
          u.notices = s.notices ++ [.captureEnded c.job .storeFull] ∧ u.segs = s.segs ∧ u.takes = s.takes))

/-! ### Play -/

/-- LOAD TAKE puts a held take on an IDLE channel, PAUSED at its resume position or at 0; HALT stops the play, writes its
position into the take's resume position and, with HALT NOTIFY, places the notice after its reply (R134, R145). That the
take's frame count takes 3 bytes in the reply of LOAD TAKE is the model's choice (assumption 20). -/
def Obligations.LoadAndHalt : Prop :=
  (∀ (l : Fin 16) (r : Ref) (s : State) (who : Party) (tag : Byte) (b : TakeBody),
    s.routed (.station l) (.loadTake r) = some (who, tag) → s.takeCurrent r = true → (s.take r.idx).body = some b →
    b.typist = some who.person → b.state = .claimed ∨ b.state = .following → (s.job b.job.idx).state ≠ .retiring →
    (s.chan l).isIdle = true →
    ∃ u : State, exec (.loadTake l r) s = .next (u.reply (.station l) (.loadTake r) tag .done
        { fixed := [.num 3 (s.takeEnd b - s.takeStart b), .num 4 (b.resume.getD 0)] }) ∧
      ChannelSetTo s u l { s.chan l with
        stream := .play { job := b.job, take := r, pos := b.resume.getD 0 }, chainAbort := false, noContinuation := false }) ∧
  (∀ (l : Fin 16) (s : State) (who : Party) (tag : Byte) (p : Play),
    s.routed (.station l) .halt = some (who, tag) → (s.chan l).stream = .play p →
    ∃ u : State, exec (.halt l) s = .next
        (if (s.chan l).matrix.haltNotify then
          (u.reply (.station l) .halt tag .done {}).placeNotice
            { chan := l, cause := .halt, action := .stopped, job := p.job, take := some p.take, pos := p.pos } true
        else u.reply (.station l) .halt tag .done {}) ∧
      u.take p.take.idx = { s.take p.take.idx with
        body := (s.take p.take.idx).body.map fun b => { b with resume := some p.pos } } ∧
      u.chan l = { s.chan l with
        stream := .idle, chainAbort := false, noContinuation := false, active := .a
        profA := { active := (s.chan l).profA.active, stored := (s.chan l).profA.active }
        profB := { active := (s.chan l).profB.active, stored := (s.chan l).profB.active } } ∧
      (∀ k, k ≠ p.take.idx → u.take k = s.take k) ∧ (∀ k, k ≠ l.val → u.chan k = s.chan k) ∧
      u = { s with takes := u.takes, chans := u.chans, waiting := u.waiting, reserved := u.reserved, port := u.port })

/-- PLAY, and a PLAY press that reaches the channel, start a PAUSED play with NO-CONTINUATION clear, its position lowered by
the backstep of the profile that applies there, not below 0; a PLAY release pauses it where it stands (R135). The profile
that applies: A in mode 0, B in mode 1, in mode 2 B exactly over clearance, in mode 3 B exactly in the window (R153). -/
def Obligations.PlayStartsAndStops : Prop :=
  (∀ (l : Fin 16) (s : State) (p : Play), (s.chan l).stream = .play p →
      (∀ (who : Party) (tag : Byte), s.routed (.station l) .play = some (who, tag) → p.run = .paused →
        (s.chan l).noContinuation = false →
        ∃ u : State, exec (.play l) s = .next (u.reply (.station l) .play tag .done {}) ∧
          ChannelSetTo s u l { s.chan l with
            active := s.profileAt l p (p.pos / 64)
            stream := .play { p with
              pos := p.pos - ((s.chan l).activeCopy (s.profileAt l p (p.pos / 64))).backstep * 64
              lastSeg := none, run := .running, shuttle := .none } }) ∧
      ((s.link l).up = true → (s.chan l).binding = .link → (s.link l).role = .typist → (s.link l).pedalMask = false →
        (s.chan l).suspended = false →
        (p.run = .paused → (s.chan l).noContinuation = false → ∃ u : State, exec (.playPress l) s = .next u ∧
          ChannelSetTo s u l { s.chan l with
            active := s.profileAt l p (p.pos / 64)
            stream := .play { p with
              pos := p.pos - ((s.chan l).activeCopy (s.profileAt l p (p.pos / 64))).backstep * 64
              lastSeg := none, run := .running, shuttle := .none } }) ∧
        (p.run ≠ .paused → ∃ u : State, exec (.playRelease l) s = .next u ∧
          ChannelHaltedTo s u l { s.chan l with stream := .play { p with run := .paused, read := none } }))) ∧
  (∀ (s : State) (ch : Nat) (p : Play) (n : Nat),
    ((s.chan ch).mode = 0 → s.profileAt ch p n = .a) ∧ ((s.chan ch).mode = 1 → s.profileAt ch p n = .b) ∧
    ((s.chan ch).mode = 2 → (s.profileAt ch p n = .b ↔ n < s.playFrames p ∧ ∃ i b off,
      s.locate p.job.idx (s.playStart p + n) = some (i, b, off) ∧ (s.link ch).clearance < b.sealPart.getD 0)) ∧
    ((s.chan ch).mode = 3 → (s.profileAt ch p n = .b ↔ (s.chan ch).winStart ≤ n ∧ n < (s.chan ch).winEnd)))

/-- REWIND and FORWARD move the position by a count of frames, within 0 and the take's end, and leave the play PAUSED; JUMP
goes to a cue of the take or to a position and pushes the old position; RETURN goes to the position on top of the stack
and pops it. Each replies with the new position, discards the read outstanding, and clears the matched cue and
NO-CONTINUATION (R136, R137, R143, R144). -/
def Obligations.PositioningMoves : Prop :=
  ∀ (l : Fin 16) (s : State) (p : Play), (s.chan l).stream = .play p →
    (∀ (n : Nat) (who : Party) (tag : Byte), s.routed (.station l) (.rewind n) = some (who, tag) → 1 ≤ n → n ≤ 1048575 →
      ∃ u : State, exec (.rewind l n) s =
          .next (u.reply (.station l) (.rewind n) tag .done { fixed := [.num 4 (p.pos - n * 64)] }) ∧
        ChannelHaltedTo s u l { s.chan l with
          noContinuation := false
          stream := .play { p with pos := p.pos - n * 64, read := none, matched := none, lastSeg := none, run := .paused
                                   shuttle := .none } }) ∧
    (∀ (n : Nat) (who : Party) (tag : Byte), s.routed (.station l) (.forward n) = some (who, tag) → 1 ≤ n → n ≤ 1048575 →
      ∃ u : State, exec (.forward l n) s = .next (u.reply (.station l) (.forward n) tag .done
          { fixed := [.num 4 (min (p.pos + n * 64) (s.playFrames p * 64))] }) ∧
        ChannelHaltedTo s u l { s.chan l with
          noContinuation := false
          stream := .play { p with pos := min (p.pos + n * 64) (s.playFrames p * 64), read := none, matched := none
                                   lastSeg := none, run := .paused, shuttle := .none } }) ∧
    (∀ (t : CueOrPos) (pos : Nat) (who : Party) (tag : Byte), s.routed (.station l) (.jump t) = some (who, tag) →
      (match t with
        | .pos n => pos = n ∧ n ≤ s.playFrames p
        | .cue r => s.cueCurrent r = true ∧ s.cueJob r.idx = p.job.idx ∧ s.cuePos r.idx = s.playStart p + pos ∧
            pos < s.playFrames p) →
      p.stack.length < 4 →
      ∃ u : State, exec (.jump l t) s =
          .next (u.reply (.station l) (.jump t) tag .done { fixed := [.num 4 (pos * 64)] }) ∧
        ChannelHaltedTo s u l { s.chan l with
          noContinuation := false
          stream := .play { p with pos := pos * 64, read := none, matched := none, lastSeg := none, stack := p.pos :: p.stack
                                   shuttle := .none, run := if p.run = .followWait then .running else p.run } }) ∧
    (∀ (top : Nat) (rest : List Nat) (who : Party) (tag : Byte), s.routed (.station l) .returnPlay = some (who, tag) →
      p.stack = top :: rest →
      ∃ u : State, exec (.returnPlay l) s = .next (u.reply (.station l) .returnPlay tag .done { fixed := [.num 4 top] }) ∧
        ChannelHaltedTo s u l { s.chan l with
          noContinuation := false
          stream := .play { p with pos := top, read := none, matched := none, lastSeg := none, stack := rest
                                   shuttle := .none, run := if p.run = .followWait then .running else p.run } })

/-- A REWIND or FORWARD press that reaches a typist play channel leaves it PAUSED with that shuttle held, its position moved
within the take, the read outstanding discarded and the matched cue and NO-CONTINUATION cleared; that the press moves it by
the 8 frames of one period is the model's choice (assumption 8). The release of the control held ends the shuttle, any
other release changes nothing (R136, R137). -/
def Obligations.ShuttlePedals : Prop :=
  ∀ (l : Fin 16) (s : State) (p : Play), (s.chan l).stream = .play p → (s.link l).up = true →
    (s.chan l).binding = .link → (s.link l).role = .typist → (s.link l).pedalMask = false → (s.chan l).suspended = false →
    (∃ u : State, exec (.rewindPress l) s = .next u ∧ ChannelHaltedTo s u l { s.chan l with
      noContinuation := false
      stream := .play { p with pos := p.pos - 8 * 64, read := none, matched := none, lastSeg := none, run := .paused
                               shuttle := .rewind } }) ∧
    (∃ u : State, exec (.forwardPress l) s = .next u ∧ ChannelHaltedTo s u l { s.chan l with
      noContinuation := false
      stream := .play { p with pos := min (p.pos + 8 * 64) (s.playFrames p * 64), read := none, matched := none
                               lastSeg := none, run := .paused, shuttle := .forward } }) ∧
    (∀ (c : ShuttleControl), p.shuttle = (match c with | .rewind => .rewind | .forward => .forward) →
      ∃ u : State, exec (.shuttleRelease l c) s = .next u ∧
        ChannelSetTo s u l { s.chan l with stream := .play { p with shuttle := .none } }) ∧
    (∀ (c : ShuttleControl), p.shuttle ≠ (match c with | .rewind => .rewind | .forward => .forward) →
      exec (.shuttleRelease l c) s = .next s)

/-- PLAY SETUP writes the fields it selects together and no other, a selected take position with the effects of a positioning
request; it clears CHAIN-ABORT (R147). SET PROFILE writes the selected fields of one profile: IMMEDIATE into both copies,
their marks cleared; AT-BOUNDARY into the stored copy, each mark saying whether the field differs from the active copy
(R160, R161). -/
def Obligations.PlaySetupAndProfilesWrite : Prop :=
  (∀ (l : Fin 16) (d : PlaySetup) (s : State) (who : Party) (tag : Byte) (p : Play),
    s.routed (.station l) (.playSetup d) = some (who, tag) → (s.chan l).stream = .play p → d ≠ {} →
    (∀ t, d.pos = some t → t ≤ s.playFrames p) → (∀ b, d.base = some b → b = 0 ∨ b < s.playFrames p) →
    (∀ n, d.remaining = some n → n ≤ 1048575) → (∀ n, d.baseCount = some n → n ≤ 1048575) →
    (∀ m, d.mode = some m → m ≤ 3) → (∀ a b, d.window = some (a, b) → a ≤ b) →
    ∃ u : State, exec (.playSetup l d) s = .next (u.reply (.station l) (.playSetup d) tag .done {}) ∧
      (let x := { s.chan l with
          pattern := d.pattern.getD (s.chan l).pattern, mask := d.mask.getD (s.chan l).mask
          matrix := d.matrix.getD (s.chan l).matrix, mode := d.mode.getD (s.chan l).mode, chainAbort := false
          winStart := (d.window.map Prod.fst).getD (s.chan l).winStart
          winEnd := (d.window.map Prod.snd).getD (s.chan l).winEnd }
        let q := { p with
          base := d.base.getD p.base, remaining := d.remaining.getD p.remaining
          baseCount := d.baseCount.getD p.baseCount }
        (d.pos = none → ChannelSetTo s u l { x with stream := .play q }) ∧
        ∀ t, d.pos = some t → ChannelHaltedTo s u l { x with
          noContinuation := false
          stream := .play { q with pos := t * 64, read := none, matched := none, lastSeg := none, shuttle := .none
                                   run := if p.run = .followWait then .running else p.run } })) ∧
  (∀ (l : Fin 16) (profile timing : Nat) (f : ProfileFields) (s : State) (who : Party) (tag : Byte) (old : ProfilePair),
    s.routed (.station l) (.setProfile profile timing f) = some (who, tag) → profile ≤ 1 → timing ≤ 1 →
    profileOut f = false → (timing = 1 → (s.chan l).stream ≠ .idle) → f ≠ {} → profileHeld f old = false →
    old = (if profile = 0 then (s.chan l).profA else (s.chan l).profB) →
    ∃ (u : State) (w : ProfilePair),
      exec (.setProfile l profile timing f) s = .next (u.reply (.station l) (.setProfile profile timing f) tag .done {}) ∧
      ChannelSetTo s u l (if profile = 0 then { s.chan l with profA := w } else { s.chan l with profB := w }) ∧
      w.stored = writeProfile f old.stored ∧ w.active = (if timing = 0 then writeProfile f old.active else old.active) ∧
      (w.rateMark, w.backstepMark, w.sealMark, w.paceMark) =
        (if f.rate = none then old.rateMark else decide (timing = 1 ∧ w.stored.rate ≠ old.active.rate),
          if f.backstep = none then old.backstepMark else decide (timing = 1 ∧ w.stored.backstep ≠ old.active.backstep),
          if f.sealAct = none then old.sealMark else decide (timing = 1 ∧ w.stored.sealAct ≠ old.active.sealAct),
          if f.pace = none then old.paceMark else decide (timing = 1 ∧ w.stored.pace ≠ old.active.pace)))

/-- READ PROFILES: the console names a channel and is refused RANGE above 15; a station reads its own link's channel. DONE
carries the profile mode, the active profile, both profiles with their copies and marks, and the window (R163; codes and
widths, and a byte for each mark: the model's choice, assumption 20). -/
def Obligations.ReadProfilesAnswers : Prop :=
  let copy := fun (x : Profile) =>
    [Item.num 1 x.rate, .num 1 x.backstep, .num 1 (if x.sealAct = .mute then 0 else 1), .num 1 (if x.pace then 1 else 0)]
  let marks := fun (x : ProfilePair) =>
    [Item.num 1 (if x.rateMark then 1 else 0), .num 1 (if x.backstepMark then 1 else 0),
      .num 1 (if x.sealMark then 1 else 0), .num 1 (if x.paceMark then 1 else 0)]
  let out := fun (c : Channel) => ({
    fixed := [Item.num 1 c.mode, .num 1 (if c.active = .a then 0 else 1)] ++
      copy c.profA.active ++ copy c.profA.stored ++ marks c.profA ++
      copy c.profB.active ++ copy c.profB.stored ++ marks c.profB ++ [.num 3 c.winStart, .num 3 c.winEnd] } : Result)
  (∀ (n : Nat) (s : State) (who : Party) (tag : Byte), s.routed .console (.readProfiles (some n)) = some (who, tag) →
    exec (.readProfiles .console (some n)) s = .next (
      if 15 < n then s.reply .console (.readProfiles (some n)) tag .range {}
      else s.reply .console (.readProfiles (some n)) tag .done (out (s.chan n)))) ∧
  (∀ (l : Fin 16) (s : State) (who : Party) (tag : Byte), s.routed (.station l) (.readProfiles none) = some (who, tag) →
    exec (.readProfiles (.station l) none) s =
      .next (s.reply (.station l) (.readProfiles none) tag .done (out (s.chan l))))

/-! ### Channels, links and exports -/

/-- BIND CHANNEL binds channel 14 or 15 and empties its notice slots; SET FRAME TIMEOUT writes a timeout; CONFIGURE STATION
writes role, person number, clearance and eligibility together and, when the role or the person number changes, clears
the pedal mask and empties the channel's notice slots; PEDAL MASK sets or clears the mask, and setting it ends a shuttle
held (R116, R127, R148, R183). -/
def Obligations.ChannelAndLinkSettings : Prop :=
  (∀ (ch n : Nat) (s : State) (who : Party) (tag : Byte), s.routed .console (.bindChannel ch n) = some (who, tag) →
    ch = 14 ∨ ch = 15 → n ≤ 1 → (s.chan ch).isIdle = true → n = 0 ∨ (s.link ch).role = .vacant →
    (s.chan ch).binding ≠ (if n = 0 then .link else .bulk) →
    ∃ u : State, exec (.bindChannel ch n) s = .next (u.reply .console (.bindChannel ch n) tag .done {}) ∧
      ChannelSetTo s u ch
        { s.chan ch with binding := if n = 0 then .link else .bulk, slot := none, second := none }) ∧
  (∀ (ch n : Nat) (s : State) (who : Party) (tag : Byte), s.routed .console (.setFrameTimeout ch n) = some (who, tag) →
    ch ≤ 15 → 10 ≤ n → n ≤ 250 → (s.chan ch).timeout ≠ n →
    ∃ u : State, exec (.setFrameTimeout ch n) s = .next (u.reply .console (.setFrameTimeout ch n) tag .done {}) ∧
      ChannelSetTo s u ch { s.chan ch with timeout := n }) ∧
  (∀ (l role person clearance : Nat) (elig : Byte) (s : State) (who : Party) (tag : Byte) (k : Link),
    s.routed .console (.configureStation l role person clearance elig) = some (who, tag) →
    l ≤ 15 → role ≤ 2 → (role ≠ 0 → 1 ≤ person ∧ person ≤ 63) → (role = 2 → clearance ≤ 3 ∧ elig.toNat ≤ 7) →
    (∀ x, x < 16 → x ≠ l → role = 0 ∨ (s.link x).role ≠ (if role = 1 then .reporter else .typist) ∨
      (s.link x).person ≠ person) →
    (role = 0 ∨ (s.chan l).binding = .link) → (s.chan l).isIdle = true →
    k = { s.link l with
      role := if role = 0 then .vacant else if role = 1 then .reporter else .typist
      person := if role = 0 then 0 else person
      clearance := if role = 2 then clearance else 0
      elig := if role = 2 then elig.setWidth 3 else 0 } → k ≠ s.link l →
    ∃ u : State, exec (.configureStation l role person clearance elig) s =
        .next (u.reply .console (.configureStation l role person clearance elig) tag .done {}) ∧
      (k.role = (s.link l).role → k.person = (s.link l).person → LinkSetTo s u l k) ∧
      (k.role ≠ (s.link l).role ∨ k.person ≠ (s.link l).person →
        u.link l = { k with pedalMask := false } ∧ u.chan l = { s.chan l with slot := none, second := none } ∧
        (∀ x, x ≠ l → u.link x = s.link x ∧ u.chan x = s.chan x) ∧ u = { s with links := u.links, chans := u.chans })) ∧
  (∀ (l : Fin 16) (n : Nat) (s : State) (who : Party) (tag : Byte), s.routed (.station l) (.pedalMask n) = some (who, tag) →
    n ≤ 1 → (s.link l).pedalMask = decide (n = 1) →
    ∃ u : State, exec (.pedalMask l n) s = .next (u.reply (.station l) (.pedalMask n) tag .done {}) ∧
      u.link l = { s.link l with pedalMask := decide (n = 0) } ∧ (∀ k, k ≠ l.val → u.link k = s.link k) ∧
      (∀ p, n = 0 → (s.chan l).stream = .play p →
        u.chan l = { s.chan l with stream := .play { p with shuttle := .none } }) ∧
      (n = 1 ∨ s.playOf l = none → u.chans = s.chans) ∧ (∀ k, k ≠ l.val → u.chan k = s.chan k) ∧
      u = { s with links := u.links, chans := u.chans })

/-- READ CHANNEL and READ LINK answer the record as it stands: the console names a channel or a link and is refused RANGE
above 15, a station reads its own link's channel (R121, R184; codes and widths, and that a channel with no
count carries 0: the model's choice, assumption 20). -/
def Obligations.ChannelAndLinkReadsAnswer : Prop :=
  (∀ (p : Port) (chan : Option Nat) (s : State) (who : Party) (tag : Byte) (ch : Nat),
    s.routed p (.readChannel chan) = some (who, tag) → (p = .console → chan = some ch) →
    (∀ l, p = .station l → ch = l.val) →
    (15 < ch → exec (.readChannel p chan) s = .next (s.reply p (.readChannel chan) tag .range {})) ∧
    (ch ≤ 15 → ∃ res : Result, exec (.readChannel p chan) s = .next (s.reply p (.readChannel chan) tag .done res) ∧
      res.fixed = [.num 1 (if (s.chan ch).binding = .link then 0 else 1), .num 1 (s.chan ch).stream.direction,
        .num 1 (if (s.chan ch).suspended then 4 else (s.chan ch).stream.stateCode),
        .num 1 (if (s.readbackOf ch).isSome then 1 else 0), .num 3 (s.chan ch).stream.counts.1,
        .num 3 (s.chan ch).stream.counts.2, .num 2 (Matrix.bits (s.chan ch).matrix), .num 1 (s.chan ch).stream.depth,
        .num 1 (if s.waitingForStore ch then 1 else 0), .num 1 (if (s.chan ch).chainAbort then 1 else 0),
        .num 1 (if (s.chan ch).noContinuation then 1 else 0), .num 1 (if (s.chan ch).second.isSome then 1 else 0),
        .num 1 (s.chan ch).timeout] ∧
      res.optional = [if (s.chan ch).suspended then some [.num 1 (s.chan ch).stream.stateCode] else none,
        (s.chan ch).stream.job.map fun r => [.ref r], (s.chan ch).loaded.map fun r => [.ref r],
        (s.chan ch).stream.pos.map fun n => [.num 4 n],
        (s.captureOf ch).map fun c => [.num 3 (s.anchorPos c.job.idx c.ctx.point)],
        (s.captureOf ch).map fun c => [.num 1 c.ctx.mode.code], (s.captureOf ch).map fun c => [.num 1 c.ctx.sealClass],
        (s.chan ch).slot.map Notice.items, (s.chan ch).second.map Notice.items])) ∧
  (∀ (l : Nat) (s : State) (who : Party) (tag : Byte), s.routed .console (.readLink l) = some (who, tag) →
    exec (.readLink l) s = .next (
      if 15 < l then s.reply .console (.readLink l) tag .range {}
      else s.reply .console (.readLink l) tag .done
        { fixed := [.num 1 (if (s.link l).up then 1 else 0),
            .num 1 (match (s.link l).role with | .vacant => 0 | .reporter => 1 | .typist => 2),
            .num 1 (s.link l).person, .num 1 (s.link l).clearance, .num 1 (s.link l).elig.toNat,
            .num 1 (if (s.link l).pedalMask then 1 else 0), .num 1 (s.link l).sequence.toNat,
            .num 1 (if (s.chan l).binding = .link then 0 else 1)]
          optional := [(s.link l).outstanding.map fun o => [.num 1 (requestKind o.request), .num 1 o.tag.toNat]] }))

/-- EXPORT starts an export from position 0 on an IDLE bulk-bound channel, marking the job export-busy, or ends it at once
when it has no frame to claim; EXPORT STOP ends it with the notice HALT when HALT NOTIFY is set (R149, R151, R176, R177). -/
def Obligations.ExportsStartAndStop : Prop :=
  (∀ (r : Ref) (ch choice notify : Nat) (s : State) (who : Party) (tag : Byte),
    s.routed .console (.exportJob r ch choice notify) = some (who, tag) → choice ≤ 1 → s.jobCurrent r = true →
    (s.job r.idx).state = .closed ∨ (s.job r.idx).state = .complete ∨ (s.job r.idx).state = .releasing →
    (s.job r.idx).held = false → (s.job r.idx).exportBusy = false → ch = 14 ∨ ch = 15 → (s.chan ch).binding = .bulk →
    (s.chan ch).isIdle = true → (∀ b ∈ s.buffer, b.chan ≠ ch) →
    ∃ u : State, exec (.exportJob r ch choice notify) s =
        .next (u.reply .console (.exportJob r ch choice notify) tag .done {}) ∧
      (s.exportFrom { job := r, excludeSealed := decide (choice = 1) } < (s.job r.idx).length →
        u.job r.idx = { s.job r.idx with exportBusy := true } ∧
        u.chan ch = { s.chan ch with
          stream := .exporting { job := r, excludeSealed := decide (choice = 1) }
          matrix := { (s.chan ch).matrix with endNotify := notify.testBit 0, haltNotify := notify.testBit 1 } } ∧
        u.buffer = s.buffer ∧ u.waiting = s.waiting ∧ u.port = s.port ∧ u.notices = s.notices) ∧
      ((s.job r.idx).length ≤ s.exportFrom { job := r, excludeSealed := decide (choice = 1) } →
        (u.job r.idx).exportBusy = false ∧ (u.chan ch).stream = .idle) ∧
      (∀ k, k ≠ r.idx → u.job k = s.job k) ∧ u.segs = s.segs ∧ u.cues = s.cues ∧ u.takes = s.takes ∧ u.mem = s.mem) ∧
  (∀ (ch : Nat) (s : State) (who : Party) (tag : Byte) (e : Exporting),
    s.routed .console (.exportStop ch) = some (who, tag) → ch = 14 ∨ ch = 15 → (s.chan ch).stream = .exporting e →
    ∃ u : State, exec (.exportStop ch) s = .next (u.reply .console (.exportStop ch) tag .done {}) ∧
      (u.chan ch).stream = .idle ∧ (u.job e.job.idx).exportBusy = false ∧ (∀ c ∈ u.waiting, c.use.chan? ≠ some ch) ∧
      ((s.chan ch).matrix.haltNotify = false → u.notices = s.notices ∧ (u.chan ch).slot = (s.chan ch).slot) ∧
      ((s.chan ch).matrix.haltNotify = true → (s.chan ch).slot = none →
        (u.chan ch).slot = some { chan := ch, cause := .halt, action := .stopped, job := e.job, pos := e.pos * 64 }) ∧
      (∀ k, k ≠ e.job.idx → u.job k = s.job k) ∧ (∀ k, k ≠ ch → u.chan k = s.chan k) ∧ u.buffer = s.buffer ∧ u.segs = s.segs)

/-- BULK_CLAIM claims the frame at a RUNNING export's position, with a place of the buffer reserved; the read's completion fills
the place, an uncorrectable check with silent frame content marked damaged; BULK READ takes up to so many entries of a
channel, oldest first, and leaves the others (R150, R109, R200; the reply's layout: assumption 32). Under EXCLUDE-SEALED
the claim is for the first frame not under SEAL, if any (R150). The first failing check of an extent that is no job's tail
makes it DAMAGED with STORE-ERROR (R109, R110); the last completion at the job's end is END (R151). -/
def Obligations.ExportFramesMove : Prop :=
  (∀ (ch : Fin 16) (s : State) (e : Exporting) (i off : Nat) (b : SegBody), (s.chan ch).stream = .exporting e →
    (s.chan ch).suspended = false → e.excludeSealed = false → s.buffer.length + s.reserved < 32 → e.outstanding < 16 →
    e.pos < (s.job e.job.idx).length → s.locate e.job.idx e.pos = some (i, b, off) →
    ∃ u : State, exec (.bulkClaim ch) s = .next u ∧ u.reserved = s.reserved + 1 ∧
      u.chan ch = { s.chan ch with
        stream := .exporting { e with pos := e.pos + 1, outstanding := e.outstanding + 1 } } ∧
      (s.port ≠ none → u.port = s.port ∧ u.waiting = s.waiting ++ [⟨b.extent, b.first + off, .bulk ch e.pos⟩]) ∧
      (s.port = none → s.waiting = [] → u.waiting = [] ∧ u.port = some {
        claim := ⟨b.extent, b.first + off, .bulk ch e.pos⟩, place := true
        burst := if (s.bulkSetting ch).mode = .hog then 1 else 0 }) ∧
      (∀ k, k ≠ ch.val → u.chan k = s.chan k) ∧
      u = { s with reserved := u.reserved, chans := u.chans, waiting := u.waiting, port := u.port, served := u.served }) ∧
  (∀ (check : Bool) (s : State) (a : Access) (ch pos : Nat) (e : Exporting), s.port = some a →
    a.claim.use = .bulk ch pos → a.live = true → a.place = true → (s.chan ch).stream = .exporting e →
    e.pos < (s.job e.job.idx).length ∨ e.outstanding ≠ 1 → 1 ≤ e.outstanding →
    (check = true → (s.ext a.claim.extent).state = .damaged) →
    ∃ u : State, exec (.exportReadCompletion check) s = .next u ∧
      u.buffer = s.buffer ++ [{ chan := ch, pos := pos, damaged := check
                                data := if check then 0 else s.readFrame a.claim.extent a.claim.frame }] ∧
      u.reserved = s.reserved - 1 ∧
      u.chan ch = { s.chan ch with stream := .exporting { e with outstanding := e.outstanding - 1 } } ∧
      u.jobs = s.jobs ∧ u.segs = s.segs ∧ u.exts = s.exts ∧ u.links = s.links ∧ u.notices = s.notices) ∧
  (∀ (ch n : Nat) (s : State) (who : Party) (tag : Byte), s.routed .console (.bulkRead ch n) = some (who, tag) →
    ch = 14 ∨ ch = 15 → 1 ≤ n → n ≤ 16 →
    ∃ left : List BufEntry, exec (.bulkRead ch n) s = .next (({ s with buffer := left } : State).reply .console (.bulkRead ch n)
        tag .done
        { fixed := [.num 1 ((s.buffer.filter fun b => b.chan == ch).length - n),
            .num 1 (if (s.exportOf ch).isNone then 0 else if (s.chan ch).suspended = true then 4 else 1)]
          bulk := (s.buffer.filter fun b => b.chan == ch).take n }) ∧
      (left.filter fun b => b.chan == ch) = (s.buffer.filter fun b => b.chan == ch).drop n ∧
      (left.filter fun b => !(b.chan == ch)) = s.buffer.filter fun b => !(b.chan == ch)) ∧
  (∀ (ch : Fin 16) (s : State) (e : Exporting) (q i off : Nat) (b : SegBody), (s.chan ch).stream = .exporting e →
    (s.chan ch).suspended = false → e.excludeSealed = true → s.buffer.length + s.reserved < 32 → e.outstanding < 16 →
    e.pos < (s.job e.job.idx).length → (∀ x ∈ s.jobSegs e.job.idx, 0 < x.2.count) → e.pos ≤ q →
    s.locate e.job.idx q = some (i, b, off) → b.sealPart = none →
    (∀ p, e.pos ≤ p → p < q → ∀ k g o, s.locate e.job.idx p = some (k, g, o) → g.sealPart ≠ none) →
    ∃ u : State, exec (.bulkClaim ch) s = .next u ∧ u.reserved = s.reserved + 1 ∧
      u.chan ch = { s.chan ch with stream := .exporting { e with pos := q + 1, outstanding := e.outstanding + 1 } } ∧
      (s.port ≠ none → u.port = s.port ∧ u.waiting = s.waiting ++ [⟨b.extent, b.first + off, .bulk ch q⟩]) ∧
      (∀ k, k ≠ ch.val → u.chan k = s.chan k) ∧
      u = { s with reserved := u.reserved, chans := u.chans, waiting := u.waiting, port := u.port, served := u.served }) ∧
  (∀ (ch : Fin 16) (s : State) (e : Exporting), (s.chan ch).stream = .exporting e → (s.chan ch).suspended = false →
    e.excludeSealed = true → s.buffer.length + s.reserved < 32 → 1 ≤ e.outstanding → e.outstanding < 16 →
    e.pos < (s.job e.job.idx).length → (∀ x ∈ s.jobSegs e.job.idx, 0 < x.2.count) →
    s.locate e.job.idx (s.job e.job.idx).length = none →
    (∀ p, e.pos ≤ p → ∀ k g o, s.locate e.job.idx p = some (k, g, o) → g.sealPart ≠ none) →
    ∃ u : State, exec (.bulkClaim ch) s = .next u ∧ ChannelSetTo s u ch
      { s.chan ch with stream := .exporting { e with pos := (s.job e.job.idx).length } }) ∧
  (∀ (s : State) (a : Access) (ch pos : Nat) (e : Exporting), s.port = some a → a.claim.use = .bulk ch pos → a.live = true →
    a.place = true → (s.chan ch).stream = .exporting e → e.pos < (s.job e.job.idx).length ∨ e.outstanding ≠ 1 →
    1 ≤ e.outstanding → (s.ext a.claim.extent).state = .inUse →
    (∀ y ∈ s.jobs, ∀ t, y.2.tail = some t → t.extent ≠ a.claim.extent) → s.notices.length < 32 →
    ∃ u : State, exec (.exportReadCompletion true) s = .next u ∧
      u.ext a.claim.extent = { s.ext a.claim.extent with state := .damaged } ∧
      (∀ x, x ≠ a.claim.extent → u.ext x = s.ext x) ∧ u.notices = s.notices ++ [.storeError a.claim.extent .read] ∧
      u.buffer = s.buffer ++ [{ chan := ch, pos := pos, damaged := true, data := 0 }] ∧ u.reserved = s.reserved - 1 ∧
      u.chan ch = { s.chan ch with stream := .exporting { e with outstanding := e.outstanding - 1 } } ∧ u.jobs = s.jobs ∧
      u.segs = s.segs ∧ u.links = s.links) ∧
  (∀ (s : State) (a : Access) (ch pos : Nat) (e : Exporting), s.port = some a → a.claim.use = .bulk ch pos → a.live = true →
    a.place = true → (s.chan ch).stream = .exporting e → (s.job e.job.idx).length ≤ e.pos → e.outstanding = 1 →
    ∃ u : State, exec (.exportReadCompletion false) s = .next u ∧
      u.buffer = s.buffer ++ [{ chan := ch, pos := pos, damaged := false
                                data := s.readFrame a.claim.extent a.claim.frame }] ∧
      (u.chan ch).stream = .idle ∧ u.job e.job.idx = { s.job e.job.idx with exportBusy := false } ∧
      ((s.chan ch).matrix.endNotify = false → u.notices = s.notices ∧ (u.chan ch).slot = (s.chan ch).slot) ∧
      ((s.chan ch).matrix.endNotify = true → (s.chan ch).slot = none → (u.chan ch).slot =
        some { chan := ch, cause := .ended, action := .stopped, job := e.job, pos := e.pos * 64 }) ∧
      (∀ k, k ≠ e.job.idx → u.job k = s.job k) ∧ (∀ k, k ≠ ch → u.chan k = s.chan k) ∧ u.segs = s.segs ∧
      u.exts = s.exts)

/-! ### The console port -/

/-- READ NOTICE: the oldest notice leaves the queue and the reply DONE carries it, the number left and the OVERFLOWED mark as
it stood; on an empty queue the reply is NONE with the mark. In either case OVERFLOWED is cleared, and a read that
empties the queue negates the attention line (R198). A notice offered joins the tail of a queue of fewer than 32, and is dropped
with OVERFLOWED set by a queue of 32, LINK-UP among them (R197). The layout of the reply, with the number left and the mark behind the
notice's own optional fields, is the model's choice (assumption 20). -/
def Obligations.ReadNoticeTakesOldest : Prop :=
  (∀ (s : State) (n : ConsoleNotice),
    (s.notices.length < 32 → s.raise n = { s with notices := s.notices ++ [n] }) ∧
    (32 ≤ s.notices.length → s.raise n = { s with overflowed := true }) ∧
    (s.attention = true ↔ s.notices ≠ [])) ∧
  (∀ (l : Fin 16) (s : State), (s.link l).up = false → 32 ≤ s.notices.length → ∃ u : State,
    exec (.linkUp l) s = .next u ∧ u.overflowed = true ∧ u.notices = s.notices ∧ (u.link l).up = true) ∧
  ∀ (s : State) (who : Party) (tag : Byte), s.routed .console .readNotice = some (who, tag) →
    (∀ n rest, s.notices = n :: rest →
      exec .readNotice s = .next (({ s with notices := rest, overflowed := false } : State).reply .console .readNotice tag
        .done { fixed := n.fixed, optional := n.optional
                rest := [.num 1 rest.length, .num 1 (if s.overflowed then 1 else 0)] }) ∧
      (({ s with notices := rest, overflowed := false } : State).attention = false ↔ rest = [])) ∧
    (s.notices = [] → exec .readNotice s = .next (({ s with overflowed := false } : State).reply .console .readNotice tag
      .none { fixed := [.num 1 (if s.overflowed then 1 else 0)] }))

/-- An acknowledgement empties the channel's current slot; a second notice moves up, is handed to the console for a
bulk-bound channel (ACKNOWLEDGE NOTICE) and to the link otherwise (NOTICE_ACK), and a SUSPENDED channel takes its
underlying state. A NOTICE-ACK with the slot empty changes nothing (R119, R120, R192, R199). A notice placed takes an empty
current slot and is sent at once; behind a current one it takes the second slot, which is SECOND-NOTICE, and a notice of a
play or export channel then SUSPENDS the channel, its claims withdrawn; a second one already there is superseded (R119,
R120). -/
def Obligations.AcknowledgementsMoveNotices : Prop :=
  (∀ (s : State) (n : Notice) (suspends : Bool),
    ((s.chan n.chan).slot = none → (s.chan n.chan).binding = .link →
      (s.placeNotice n suspends).chan n.chan = { s.chan n.chan with slot := some n } ∧
      (s.placeNotice n suspends).link n.chan = { s.link n.chan with
        unsent := if (s.link n.chan).up = true then (s.link n.chan).unsent ++ [.notice n] else (s.link n.chan).unsent } ∧
      (∀ k, k ≠ n.chan → (s.placeNotice n suspends).chan k = s.chan k ∧ (s.placeNotice n suspends).link k = s.link k) ∧
      ∃ chans links, s.placeNotice n suspends = { s with chans := chans, links := links }) ∧
    ((s.chan n.chan).slot = none → (s.chan n.chan).binding = .bulk → ∃ u : State,
      s.placeNotice n suspends = u.raise (.channel n.chan n) ∧ ChannelSetTo s u n.chan { s.chan n.chan with slot := some n }) ∧
    ((s.chan n.chan).slot ≠ none → (s.chan n.chan).second = none →
      (suspends = false →
        ChannelSetTo s (s.placeNotice n suspends) n.chan { s.chan n.chan with second := some n }) ∧
      (suspends = true → ChannelHaltedTo s (s.placeNotice n suspends) n.chan { s.chan n.chan with
        second := some n, suspended := true
        stream := match (s.chan n.chan).stream with
          | .play p => .play { p with read := none, shuttle := .none }
          | .readback r => .readback { r with read := none }
          | .exporting e => .exporting { e with outstanding := 0 }
          | .capture c => .capture c
          | .idle => .idle })) ∧
    ((s.chan n.chan).slot ≠ none → (s.chan n.chan).second ≠ none → ChannelSetTo s (s.placeNotice n suspends) n.chan
      { s.chan n.chan with second := some { n with superseded := true } })) ∧
  (∀ c : Channel, c.secondNotice = true ↔ c.second ≠ none) ∧
  (∀ (ch : Nat) (s : State) (who : Party) (tag : Byte) (n : Notice),
    s.routed .console (.acknowledgeNotice ch) = some (who, tag) → ch = 14 ∨ ch = 15 → (s.chan ch).binding = .bulk →
    (s.chan ch).slot = some n →
    ((s.chan ch).second = none → ∃ u : State,
      exec (.acknowledgeNotice ch) s = .next (u.reply .console (.acknowledgeNotice ch) tag .done {}) ∧
      ChannelSetTo s u ch { s.chan ch with slot := none }) ∧
    (∀ m, (s.chan ch).second = some m → m.chan = ch → ∃ u : State,
      exec (.acknowledgeNotice ch) s = .next ((u.raise (.channel ch m)).reply .console (.acknowledgeNotice ch) tag .done {}) ∧
      ChannelSetTo s u ch { s.chan ch with slot := some m, second := none, suspended := false })) ∧
  (∀ (l : Fin 16) (s : State), (s.link l).up = true → (s.chan l).binding = .link →
    ((s.chan l).slot = none → exec (.noticeAck l) s = .next s) ∧
    (∀ n, (s.chan l).slot = some n → (s.chan l).second = none → ∃ u : State, exec (.noticeAck l) s = .next u ∧
      ChannelSetTo s u l { s.chan l with slot := none }) ∧
    (∀ n m, (s.chan l).slot = some n → (s.chan l).second = some m → m.chan = l.val →
      ∃ u : State, exec (.noticeAck l) s = .next u ∧
        u.chan l = { s.chan l with slot := some m, second := none, suspended := false } ∧
        u.link l = { s.link l with unsent := (s.link l).unsent ++ [.notice m] } ∧
        (∀ k, k ≠ l.val → u.chan k = s.chan k ∧ u.link k = s.link k) ∧ u = { s with chans := u.chans, links := u.links }))

/-- WARM RESET stops every channel, empties every notice slot, the notice queue and the export buffer, answers every link's
outstanding request BUSY and withdraws it, and ends every capture. The records stay: of a job only the channel, the state
of a LIVE job captured (SET-ASIDE) and the export-busy flag change, of a take only the resume position, which for a take
loaded is the position of its play; maps, cues, queue and settings are as they were (R128, R132, R146, R164, R194, R202). -/
def Obligations.WarmResetStops : Prop :=
  ∀ (s : State) (who : Party) (tag : Byte), s.routed .console .warmReset = some (who, tag) →
    ∃ u : State, exec .warmReset s = .next (u.reply .console .warmReset tag .done {}) ∧
      (∀ c, c < 16 → (u.chan c).stream = .idle ∧ (u.chan c).suspended = false ∧ (u.chan c).slot = none ∧
        (u.chan c).second = none ∧ (u.chan c).chainAbort = false ∧ (u.chan c).noContinuation = false ∧
        (u.chan c).active = .a ∧ (u.chan c).binding = (s.chan c).binding ∧ (u.chan c).timeout = (s.chan c).timeout ∧
        (u.chan c).mode = (s.chan c).mode ∧ (u.chan c).profA.active = (s.chan c).profA.active) ∧
      (∀ l, l < 16 → (u.link l).outstanding = none ∧ (u.link l).up = (s.link l).up ∧ (u.link l).role = (s.link l).role ∧
        (u.link l).person = (s.link l).person) ∧
      (∀ l, l < 16 → (u.link l).unsent = match (s.link l).outstanding with
        | some o => if (s.link l).up = true ∧ (s.chan l).binding = .link then
            (s.link l).unsent ++ [.reply (requestKind o.request) o.tag .busy {}] else (s.link l).unsent
        | none => (s.link l).unsent) ∧
      (∀ c job ctx, c < 16 → s.captureFields c = some (job, ctx) →
        (u.job job.idx).chan = none ∧ (u.job job.idx).state ≠ .live ∧
        (u.job job.idx).state = (if (s.job job.idx).state = .live then .setAside else (s.job job.idx).state)) ∧
      (∀ c e, c < 16 → s.exportOf c = some e → (u.job e.job.idx).exportBusy = false) ∧
      (∀ i, ∃ ch st busy, u.job i = { s.job i with chan := ch, state := st, exportBusy := busy } ∧
        (st = (s.job i).state ∨ (st = .setAside ∧ (s.job i).state = .live))) ∧
      (∀ i, (∀ c x, c < 16 → s.captureFields c = some x → x.1.idx ≠ i) →
        (∀ c e, c < 16 → s.exportOf c = some e → e.job.idx ≠ i) → u.job i = s.job i) ∧
      (∀ i, (u.take i).issue = (s.take i).issue ∧
        (u.take i).body.map (fun b => { b with resume := none }) = (s.take i).body.map fun b => { b with resume := none }) ∧
      (∀ i, (∀ c p, c < 16 → s.playOf c = some p → p.take.idx ≠ i) → u.take i = s.take i) ∧
      (∀ c p, c < 16 → s.playOf c = some p →
        (∀ d q, d < 16 → d ≠ c → s.playOf d = some q → q.take.idx ≠ p.take.idx) →
        (u.take p.take.idx).body = (s.take p.take.idx).body.map fun b => { b with resume := some p.pos }) ∧
      u.takeFree = s.takeFree ∧ u.segFree = s.segFree ∧ u.cueFree = s.cueFree ∧
      u.notices = [] ∧ u.overflowed = false ∧ u.buffer = [] ∧ u.reserved = 0 ∧
      u.segs = s.segs ∧ u.cues = s.cues ∧ u.ready = s.ready ∧ u.readiness = s.readiness ∧ u.holds = s.holds ∧
      u.bank = s.bank ∧ u.exts = s.exts ∧ u.formatted = s.formatted ∧ u.threshold = s.threshold ∧
      u.freeList = s.freeList ∧ u.scrubList = s.scrubList ∧ u.scrubNext = 0 ∧ u.retiring = s.retiring ∧
      u.bulk14 = s.bulk14 ∧ u.bulk15 = s.bulk15 ∧ u.bulkAbove = s.bulkAbove

/-- The console may issue every request kind but the station-only ones, which are refused NOT-PERMITTED at step 2 of R195;
a request of the console's form then becomes the port's outstanding request, or is refused BUSY while one is
outstanding (R196, R195). -/
def Obligations.ConsoleRequestsAreRouted : Prop :=
  ∀ (tag : Byte) (r : Request) (s : State), fitsPort true r = true →
    (match r with
      | .openJob .. | .attach .. | .detach .. | .claimNext | .returnTake .. | .heldTakes | .setCaptureMode .. | .sealMode ..
      | .captureSetup .. | .record | .readback .. | .readbackEnd | .play | .pause | .loadTake .. | .halt | .rewind ..
      | .forward .. | .jump .. | .returnPlay | .playSetup .. | .setProfile .. | .pedalMask .. =>
        exec (.consoleRequest tag r) s =
          .next { s with conUnsent := s.conUnsent ++ [⟨requestKind r, tag, .notPermitted, {}⟩] }
      | _ =>
        exec (.consoleRequest tag r) s = .next (
          if s.conOutstanding = none then { s with conOutstanding := some ⟨r, tag⟩ }
          else { s with conUnsent := s.conUnsent ++ [⟨requestKind r, tag, .busy, {}⟩] }))

/-! ### Station links -/

/-- A request on a link that is UP and bound to its channel becomes the link's outstanding request, stamped with the link's
role and person number; one of another form is answered MALFORMED, one the role is not allowed NOT-PERMITTED, one sent
while another is outstanding BUSY. A malformed envelope is answered MALFORMED with the kind and tag its judgement gives.
Nothing is taken from a link that is DOWN or bound to BULK (R179, R186, R187, R193; assumptions 39 and 40). The kinds a
reporter and a typist may send are those of R188. An envelope is judged as R205 says, on a link and at the console
port alike (assumption 36): a request is taken when its operands fill the layout of its kind exactly, otherwise answered
MALFORMED with its kind and tag when both arrived, and with kind 0 and tag 0 for a body of one byte whose length field
agrees; any other envelope that does not fit is discarded. The bytes of a well-formed request are judged to be that request
(layouts that the manual leaves open: assumption 20). -/
def Obligations.StationMessagesArrive : Prop :=
  (∀ (l : Fin 16) (tag : Byte) (r : Request) (s : State), (s.link l).up = true → (s.chan l).binding = .link →
    ∃ u : State, exec (.inboundRequest l tag r) s = .next u ∧ LinkSetTo s u l (
      if fitsPort false r = false then
        { s.link l with unsent := (s.link l).unsent ++ [.reply (requestKind r) tag .malformed {}] }
      else if allowedTo r (s.link l).role = false then
        { s.link l with unsent := (s.link l).unsent ++ [.reply (requestKind r) tag .notPermitted {}] }
      else if (s.link l).outstanding ≠ none then
        { s.link l with unsent := (s.link l).unsent ++ [.reply (requestKind r) tag .busy {}] }
      else { s.link l with outstanding := some ⟨r, tag, (s.link l).role, (s.link l).person⟩ })) ∧
  (∀ (l : Fin 16) (e : Envelope) (k : Nat) (t : Byte) (s : State), judge false e = .malformed k t →
    (s.link l).up = true → (s.chan l).binding = .link →
    ∃ u : State, exec (.malformedMessage (.station l) e) s = .next u ∧
      LinkSetTo s u l { s.link l with unsent := (s.link l).unsent ++ [.reply k t .malformed {}] }) ∧
  (∀ (e : Envelope) (k : Nat) (t : Byte) (s : State), judge true e = .malformed k t →
    exec (.malformedMessage .console e) s = .next { s with conUnsent := s.conUnsent ++ [⟨k, t, .malformed, {}⟩] }) ∧
  (∀ (l : Fin 16) (tag : Byte) (r : Request) (e : Envelope) (s : State),
    (s.link l).up = false ∨ (s.chan l).binding = .bulk →
    exec (.inboundRequest l tag r) s = .next s ∧ exec (.malformedMessage (.station l) e) s = .next s) ∧
  (∀ r : Request, allowedTo r .vacant = false ∧
    (allowedTo r .reporter = true ↔ match r with
      | .openJob .. | .attach .. | .detach .. | .closeDictation .. | .readJob .. | .findJob .. | .release ..
      | .readSegment .. | .placeCue .. | .removeCue .. | .readCue .. | .cueAt .. | .lastCue .. | .findCue .. | .readTake ..
      | .setCaptureMode .. | .sealMode .. | .captureSetup .. | .record | .pause | .readback .. | .readbackEnd | .play
      | .readChannel .. | .setProfile .. | .readProfiles .. | .pedalMask .. => True
      | _ => False) ∧
    (allowedTo r .typist = true ↔ match r with
      | .readJob .. | .readSegment .. | .placeCue .. | .removeCue .. | .readCue .. | .cueAt .. | .lastCue .. | .findCue ..
      | .readTake .. | .claimNext | .returnTake .. | .heldTakes | .play | .pause | .loadTake .. | .halt | .rewind ..
      | .forward .. | .jump .. | .returnPlay | .playSetup .. | .readChannel .. | .setProfile .. | .readProfiles ..
      | .pedalMask .. => True
      | _ => False)) ∧
  (∀ (console : Bool) (e : Envelope), e.kind.toNat = 2 →
    (∀ k t ops, e.length.toNat = e.body.length → e.body = k :: t :: ops → judge console e =
      match parseRequest console k.toNat ops with
      | some r => .message (.request t r)
      | none => .malformed k.toNat t) ∧
    (∀ k, e.length.toNat = e.body.length → e.body = [k] → judge console e = .malformed 0 0) ∧
    (∀ k t ops, e.length.toNat ≠ e.body.length → e.body = k :: t :: ops → judge console e = .malformed k.toNat t) ∧
    (∀ k, e.length.toNat ≠ e.body.length → e.body = [k] → judge console e = .discard) ∧
    (e.body = [] → judge console e = .discard)) ∧
  (∀ (console : Bool) (e : Envelope), e.kind.toNat ≠ 2 →
    (e.length.toNat ≠ e.body.length ∨ e.kind.toNat ∉ [1, 5, 6] → judge console e = .discard) ∧
    (e.length.toNat = e.body.length → e.kind.toNat = 1 →
      judge console e = if e.body.length = 66 then .message (.frame (frameOf (e.body.drop 2))) else .discard) ∧
    (e.length.toNat = e.body.length → e.kind.toNat = 5 →
      judge console e = if e.body = [] then .message .noticeAck else .discard) ∧
    (∀ c a, e.length.toNat = e.body.length → e.kind.toNat = 6 → e.body = [c, a] → judge console e =
      if c.toNat ∈ [1, 2, 3, 4] ∧ a.toNat ∈ [1, 2] then .message (.pedal c.toNat (decide (a.toNat = 1))) else .discard) ∧
    (e.kind.toNat = 6 → e.body.length ≠ 2 → judge console e = .discard)) ∧
  (∀ (console : Bool) (tag : Byte) (r : Request), fitsPort console r = true → r.wf = true →
    (∀ l p c x, (r = .configureStation l 0 p c x → p = 0 ∧ c = 0 ∧ x = 0) ∧
      (r = .configureStation l 1 p c x → c = 0 ∧ x = 0)) →
    judge console (requestEnvelope tag r) = .message (.request tag r)) ∧
  (∀ (console : Bool) (k : Nat) (ops : List Byte), (∀ r, requestKind r ≠ k) → parseRequest console k ops = none) ∧
  (∀ (e : Envelope), (∀ tag r, judge true e = .message (.request tag r) →
      envelopeCommand .console e = some (.consoleRequest tag r)) ∧
    (∀ k t, judge true e = .malformed k t → envelopeCommand .console e = some (.malformedMessage .console e)) ∧
    (judge true e = .discard → envelopeCommand .console e = none) ∧ (e.kind.toNat ≠ 2 → envelopeCommand .console e = none) ∧
    ∀ l : Fin 16, (∀ tag r, judge false e = .message (.request tag r) →
        envelopeCommand (.station l) e = some (.inboundRequest l tag r)) ∧
      (∀ k t, judge false e = .malformed k t →
        envelopeCommand (.station l) e = some (.malformedMessage (.station l) e)) ∧
      (∀ data, judge false e = .message (.frame data) → envelopeCommand (.station l) e = some (.frameArrival l data)) ∧
      (judge false e = .message .noticeAck → envelopeCommand (.station l) e = some (.noticeAck l)) ∧
      (∀ c x, judge false e = .message (.pedal c x) → envelopeCommand (.station l) e = some (match c, x with
        | 1, true => .recordPress l
        | 1, false => .recordRelease l
        | 2, true => .playPress l
        | 2, false => .playRelease l
        | 3, true => .rewindPress l
        | 3, false => .shuttleRelease l .rewind
        | _, true => .forwardPress l
        | _, false => .shuttleRelease l .forward)) ∧
      (judge false e = .discard → envelopeCommand (.station l) e = none))

/-- LINK_UP sets the link UP with its frame sequence at 0 and offers LINK-UP to the console. LINK_DOWN sets it DOWN, withdraws
its outstanding request and drops its unsent messages, stops its channel and empties the channel's notice slots unless
the channel is bound to BULK, and offers LINK-DOWN with the job captured and the take loaded (R179 to R181, R191). -/
def Obligations.LinksGoUpAndDown : Prop :=
  (∀ (l : Fin 16) (s : State), (s.link l).up = false → ∃ u : State,
    exec (.linkUp l) s = .next (u.raise (.linkUp l (s.link l).role (s.link l).person)) ∧
    LinkSetTo s u l { s.link l with up := true, sequence := 0 }) ∧
  (∀ (l : Fin 16) (s : State), (s.link l).up = true → (s.chan l).binding = .bulk → ∃ u : State,
    exec (.linkDown l) s = .next (u.raise (.linkDown l (s.link l).role (s.link l).person none none)) ∧
    LinkSetTo s u l { s.link l with up := false, outstanding := none, unsent := [] }) ∧
  (∀ (l : Fin 16) (s : State), (s.link l).up = true → (s.chan l).binding = .link → ∃ u : State,
    exec (.linkDown l) s = .next (u.raise (.linkDown l (s.link l).role (s.link l).person
      ((s.captureFields l).map Prod.fst) (s.chan l).loaded)) ∧
    u.link l = { s.link l with up := false, outstanding := none, unsent := [] } ∧
    (u.chan l).stream = .idle ∧ (u.chan l).suspended = false ∧ (u.chan l).slot = none ∧ (u.chan l).second = none ∧
    (∀ c, c ∈ u.waiting → (s.chan l).stream = .idle ∨ c.use.chan? ≠ some l.val) ∧
    (∀ p, (s.chan l).stream = .play p → u.take p.take.idx = { s.take p.take.idx with
      body := (s.take p.take.idx).body.map fun b => { b with resume := some p.pos } }) ∧
    (∀ job ctx, s.captureFields l = some (job, ctx) → u.job job.idx = { s.job job.idx with
      chan := none, state := if (s.job job.idx).state = .live then .setAside else (s.job job.idx).state }) ∧
    (∀ k, k ≠ l.val → u.link k = s.link k ∧ u.chan k = s.chan k) ∧ u.segs = s.segs ∧ u.cues = s.cues ∧
    u.notices = s.notices)

/-! ### Events of the part -/

/-- FRAME_PERIOD on a RUNNING capture raises its frame timeout counter, and the period that reaches the timeout (FRAME_TIMEOUT,
assumption 5) ends the capture with CAPTURE-ENDED; on a RUNNING play it claims the frame at the position under the
profile that applies there; a shuttle held moves the position by 8 frames (R127, R128, R136, R138, R153). A frame over
clearance is sent silent under MUTE, with no claim (R155); SKIP goes to the first segment after it that is within
clearance, crosses a boundary and claims its first frame, or goes to the take's end (R156; that the matched cue then stays
is the model's choice, assumption 45). In FOLLOW-WAIT a take now CLAIMED raises END, one FOLLOWING with no new frame changes
nothing, and one with new frames makes the channel RUNNING, crosses a boundary when the new frame lies in another segment
than the last one sent, and goes on with that frame in the same period (R142, R158; that the record in which
the last frame lay at its advance is compared, whatever was split since, is the model's choice, assumption 51). A read-back
claims the frame at its job
position under profile A, or B in mode 1; at no frame it ends with its capture restored PAUSED (R130, R131, R138, R153; that
it sets NO-CONTINUATION and suspends no channel: the model's reading, assumptions 16 and 15). A period changes nothing on a
SUSPENDED channel, nor on an IDLE one (the model's choice, assumption 2). -/
def Obligations.FramePeriods : Prop :=
  (∀ (ch : Fin 16) (s : State) (c : Capture), (s.chan ch).suspended = false → (s.chan ch).stream = .capture c →
    c.running = true →
    (c.counter + 1 < (s.chan ch).timeout → ∃ u : State, exec (.framePeriod ch) s = .next u ∧
      ChannelSetTo s u ch { s.chan ch with stream := .capture { c with counter := c.counter + 1 } }) ∧
    ((s.chan ch).timeout ≤ c.counter + 1 → (s.chan ch).binding = .link → s.notices.length < 32 →
      ∃ u : State, exec (.framePeriod ch) s = .next u ∧ exec (.frameTimeout ch) s = .next u ∧
        (u.chan ch).stream = .idle ∧ u.placement ch = {} ∧
        u.job c.job.idx = { s.job c.job.idx with
          chan := none
          state := if (s.job c.job.idx).state = .live then .setAside else (s.job c.job.idx).state } ∧
        u.notices = s.notices ++ [.captureEnded c.job .frameTimeout] ∧
        ((s.chan ch).slot = none → (u.chan ch).slot = some
          { chan := ch, cause := .frameTimeout, action := .stopped, job := c.job
            pos := s.anchorPos c.job.idx c.ctx.point * 64 }) ∧
        ((s.chan ch).slot ≠ none → (s.chan ch).second = none → (u.chan ch).suspended = false ∧
          (u.chan ch).second = some
            { chan := ch, cause := .frameTimeout, action := .stopped, job := c.job
              pos := s.anchorPos c.job.idx c.ctx.point * 64 }) ∧
        (∀ k, k ≠ ch.val → u.chan k = s.chan k) ∧ u.segs = s.segs ∧ u.takes = s.takes)) ∧
  (∀ (ch : Fin 16) (s : State) (p : Play) (i off : Nat) (b : SegBody), (s.chan ch).suspended = false →
    (s.chan ch).stream = .play p → p.run = .running → p.read = none → p.pos / 64 < s.playFrames p →
    s.locate p.job.idx (s.playStart p + p.pos / 64) = some (i, b, off) → b.sealPart.getD 0 ≤ (s.link ch).clearance →
    ∃ u : State, exec (.framePeriod ch) s = .next u ∧
      u.chan ch = { s.chan ch with
        active := s.profileAt ch p (p.pos / 64)
        stream := .play { p with
          read := some { extent := b.extent, frame := b.first + off, prof := s.profileAt ch p (p.pos / 64)
                         pace := b.pace } } } ∧
      (s.port ≠ none → u.port = s.port ∧ u.waiting = s.waiting ++ [⟨b.extent, b.first + off, .play ch⟩]) ∧
      (s.port = none → s.waiting = [] → u.waiting = [] ∧
        u.port = some { claim := ⟨b.extent, b.first + off, .play ch⟩ }) ∧
      (∀ k, k ≠ ch.val → u.chan k = s.chan k) ∧
      u = { s with chans := u.chans, waiting := u.waiting, port := u.port, served := u.served }) ∧
  (∀ (ch : Fin 16) (s : State) (p : Play), (s.chan ch).suspended = false → (s.chan ch).stream = .play p →
    p.run = .paused → p.shuttle ≠ .none →
    ∃ u : State, exec (.framePeriod ch) s = .next u ∧ ChannelHaltedTo s u ch { s.chan ch with
      noContinuation := false
      stream := .play { p with read := none, matched := none, lastSeg := none
                               pos := if p.shuttle = .rewind then p.pos - 8 * 64
                                 else min (p.pos + 8 * 64) (s.playFrames p * 64) } }) ∧
  (∀ (ch : Fin 16) (s : State), (s.chan ch).suspended = true ∨ (s.chan ch).stream = .idle →
    exec (.framePeriod ch) s = .next s) ∧
  (∀ (ch : Fin 16) (s : State) (p : Play), (s.chan ch).suspended = false → (s.chan ch).stream = .play p →
    p.run = .followWait →
    (s.takeState p.take = some .claimed → exec (.framePeriod ch) s = .next (s.raiseEnd ch)) ∧
    (s.takeState p.take = some .following → s.playFrames p * 64 ≤ p.pos → exec (.framePeriod ch) s = .next s) ∧
    ∀ i off b c, s.takeState p.take = some .following → p.pos < s.playFrames p * 64 → p.read = none →
      s.locate p.job.idx (s.playStart p + p.pos / 64) = some (i, b, off) →
      c = (if p.lastSeg = none ∨ p.lastSeg = some (s.segRef i) then s.chan ch else (s.chan ch).cross) →
      (∃ v : State, ChannelSetTo s v ch { c with stream := .play { p with run := .running } } ∧
        exec (.framePeriod ch) s = exec (.framePeriod ch) v) ∧
      (b.sealPart.getD 0 ≤ (s.link ch).clearance → ∃ u : State, exec (.framePeriod ch) s = .next u ∧
        u.chan ch = { c with
          active := s.profileAt ch p (p.pos / 64)
          stream := .play { p with
            run := .running
            read := some { extent := b.extent, frame := b.first + off, prof := s.profileAt ch p (p.pos / 64)
                           pace := b.pace } } } ∧
        (s.port ≠ none → u.port = s.port ∧ u.waiting = s.waiting ++ [⟨b.extent, b.first + off, .play ch⟩]) ∧
        (s.port = none → s.waiting = [] → u.waiting = [] ∧
          u.port = some { claim := ⟨b.extent, b.first + off, .play ch⟩ }) ∧
        (∀ k, k ≠ ch.val → u.chan k = s.chan k) ∧
        u = { s with chans := u.chans, waiting := u.waiting, port := u.port, served := u.served })) ∧
  (∀ (ch : Fin 16) (s : State) (r : Readback), (s.chan ch).suspended = false → (s.chan ch).stream = .readback r →
    (r.read ≠ none → exec (.framePeriod ch) s = .next s) ∧
    (∀ i off b prof, r.read = none → s.locate r.job.idx (r.pos / 64) = some (i, b, off) →
      prof = (if (s.chan ch).mode = 1 then .b else .a) → ∃ u : State, exec (.framePeriod ch) s = .next u ∧
        u.chan ch = { s.chan ch with
          active := prof
          stream := .readback { r with
            read := some { extent := b.extent, frame := b.first + off, prof := prof, pace := b.pace } } } ∧
        (s.port ≠ none → u.port = s.port ∧ u.waiting = s.waiting ++ [⟨b.extent, b.first + off, .play ch⟩]) ∧
        (s.port = none → s.waiting = [] → u.waiting = [] ∧
          u.port = some { claim := ⟨b.extent, b.first + off, .play ch⟩ }) ∧
        (∀ k, k ≠ ch.val → u.chan k = s.chan k) ∧
        u = { s with chans := u.chans, waiting := u.waiting, port := u.port, served := u.served }) ∧
    (r.read = none → s.locate r.job.idx (r.pos / 64) = none → ∃ v : State,
      exec (.framePeriod ch) s = .next (if (s.chan ch).matrix.endNotify then
          v.placeNotice { chan := ch, cause := .ended, action := .stopped, job := r.job
                          pos := (s.job r.job.idx).length * 64 } false
        else v) ∧
      ChannelHaltedTo s v ch { s.chan ch with
        stream := .capture { job := r.job, ctx := r.parked }, suspended := false, noContinuation := true })) ∧
  (∀ (ch : Fin 16) (s : State) (p : Play) (i off n pos : Nat) (b : SegBody), (s.chan ch).suspended = false →
    (s.chan ch).stream = .play p → p.run = .running → p.read = none → (s.chan ch).matrix = {} → p.remaining ≠ 1 →
    (s.link ch).up = true → (s.chan ch).binding = .link → n = s.playFrames p → p.pos / 64 < n →
    s.locate p.job.idx (s.playStart p + p.pos / 64) = some (i, b, off) → (s.link ch).clearance < b.sealPart.getD 0 →
    ((s.chan ch).activeCopy (s.profileAt ch p (p.pos / 64))).sealAct = .mute →
    pos = min (p.pos + s.rateOf ch (s.profileAt ch p (p.pos / 64)) b.pace) (n * 64) →
    ∃ (u : State) (q : Play), exec (.framePeriod ch) s = .next u ∧
      (u.link ch).unsent = (s.link ch).unsent ++ [.frame true false 0] ∧ (u.chan ch).stream = .play q ∧ q.job = p.job ∧
      q.take = p.take ∧ q.pos = pos ∧ q.read = none ∧ q.remaining = p.remaining - 1 ∧ (pos < n * 64 → q.run = .running ∧
        u.chan ch = { (if s.segAt p.job.idx (s.playStart p + pos / 64) = some (s.segRef i) then s.chan ch
            else (s.chan ch).cross) with
          active := s.profileAt ch p (p.pos / 64), stream := .play q }) ∧
      u.waiting = s.waiting ∧ u.port = s.port ∧ (∀ k, k ≠ ch.val → u.link k = s.link k ∧ u.chan k = s.chan k) ∧
      u.notices = s.notices ∧ u.jobs = s.jobs ∧ u.takes = s.takes) ∧
  (∀ (ch : Fin 16) (s : State) (p : Play) (i off : Nat) (b : SegBody), (s.chan ch).suspended = false →
    (s.chan ch).stream = .play p → p.run = .running → p.read = none → p.pos / 64 < s.playFrames p →
    s.locate p.job.idx (s.playStart p + p.pos / 64) = some (i, b, off) → (s.link ch).clearance < b.sealPart.getD 0 →
    ((s.chan ch).activeCopy (s.profileAt ch p (p.pos / 64))).sealAct = .skip →
    (∀ j g q, (withStarts 0 (s.jobSegs p.job.idx)).find? (fun x => decide (s.playStart p + p.pos / 64 < x.2.2) &&
        decide (x.2.2 < s.playStart p + s.playFrames p) && decide (x.2.1.sealPart.getD 0 ≤ (s.link ch).clearance)) =
        some (j, g, q) →
      ∃ u : State, exec (.framePeriod ch) s = .next u ∧
        u.chan ch = { (s.chan ch).cross with
          active := s.profileAt ch p (q - s.playStart p)
          stream := .play { p with
            pos := (q - s.playStart p) * 64
            matched := p.matched.bind fun r => if s.cueCurrent r = true ∧ q ≤ s.cuePos r.idx then some r else none
            read := some { extent := g.extent, frame := g.first, prof := s.profileAt ch p (q - s.playStart p)
                           pace := g.pace } } } ∧
        (s.port ≠ none → u.port = s.port ∧ u.waiting = s.waiting ++ [⟨g.extent, g.first, .play ch⟩]) ∧
        (s.port = none → s.waiting = [] → u.waiting = [] ∧ u.port = some { claim := ⟨g.extent, g.first, .play ch⟩ }) ∧
        (∀ k, k ≠ ch.val → u.chan k = s.chan k) ∧
        u = { s with chans := u.chans, waiting := u.waiting, port := u.port, served := u.served }) ∧
    ((∀ x ∈ withStarts 0 (s.jobSegs p.job.idx), s.playStart p + p.pos / 64 < x.2.2 →
        x.2.2 < s.playStart p + s.playFrames p → (s.link ch).clearance < x.2.1.sealPart.getD 0) →
      (s.takeState p.take = some .following → ∃ u : State, exec (.framePeriod ch) s = .next u ∧
        ChannelSetTo s u ch { s.chan ch with
          active := s.profileAt ch p (p.pos / 64)
          stream := .play { p with pos := s.playFrames p * 64, run := .followWait } }) ∧
      (s.takeState p.take = some .claimed → (s.chan ch).matrix = {} → ∃ u : State, exec (.framePeriod ch) s = .next u ∧
        ChannelSetTo s u ch { s.chan ch with
          active := s.profileAt ch p (p.pos / 64), noContinuation := true
          stream := .play { p with pos := s.playFrames p * 64, run := .paused } })))

/-- A good capture write puts the frame in the store, and a frame written with placement APPEND at the head of the list joins
the job's end: the length rises by one. One that ends in an uncorrectable check makes its extent DAMAGED with STORE-ERROR,
the tail extent is dropped, and the frame is given a new destination in a new tail extent. A good scrub write stores the
silent content; the last frame of an extent makes it FREE at the tail of the free list (R34, R36, R41, R94, R104, R110, R111).
A frame placed INSERT joins before the segment of the capture point, extending the segment before it or taking a new one
(R37); one placed OVERWRITE does so in place of the first frame of that segment, whose cues move to the run start (R38), and
turns to APPEND at the end and to INSERT with a notice at a TAKE cue (R39); where the editable test fails, the capture
pauses in APPEND with a notice (R40). Each frame placed lowers a count above 0; at 0 its END is RELOAD, CHAIN or a pause
(R126; the chain's label is a free value, assumption 13). That R39 comes before R40, and that ENTERED-INSERT names the position
of the point before the placement, are the model's reading (assumptions 17 and 18). -/
def Obligations.WritesComplete : Prop :=
  (∀ (s : State) (a : Access) (ch : Nat) (job : Ref) (data : Frame), s.port = some a →
    a.claim.use = .capture ch job data → ∃ u : State, exec (.captureWriteCompletion false) s = .next u ∧
      u.readFrame a.claim.extent a.claim.frame = data ∧
      (a.live = false → u.jobs = s.jobs ∧ u.segs = s.segs ∧ u.places = s.places ∧ u.chans = s.chans) ∧
      ∀ (c : Capture) (x : Entry), a.live = true → (s.chan ch).stream = .capture c → (s.placement ch).inflight = [x] →
        x.extent = a.claim.extent → x.frame = a.claim.frame → x.mode = .append → x.changed = false →
        c.ctx.remaining = 0 → 0 < s.segFree →
        (u.job c.job.idx).length = (s.job c.job.idx).length + 1 ∧ (u.placement ch).inflight = [] ∧
        u.chan ch = s.chan ch ∧ u.takes = s.takes ∧ u.notices = s.notices ∧
        (∀ k, k ≠ c.job.idx → u.job k = s.job k) ∧
        ((s.job c.job.idx).segHead = none → u.segFree = s.segFree - 1 ∧
          ∃ q, (u.seg s.lowestFreeSeg).body = some
            { job := s.jobRef c.job.idx, extent := x.extent, first := x.frame, count := 1
              sealPart := if c.ctx.sealClass = 0 then none else some c.ctx.sealClass, cue := q }) ∧
        (∀ i b, (s.jobSegs c.job.idx).getLast? = some (i, b) → b.extent = x.extent → b.first + b.count = x.frame →
          b.sealPart.getD 0 = c.ctx.sealClass → b.pace = none →
          u.segFree = s.segFree ∧ ∃ q, (u.seg i).body = some { b with count := b.count + 1, cue := q }) ∧
        ∀ i b, Canonical s → (s.jobSegs c.job.idx).getLast? = some (i, b) →
          ¬(b.extent = x.extent ∧ b.first + b.count = x.frame ∧ b.sealPart.getD 0 = c.ctx.sealClass ∧ b.pace = none) →
          u.segFree = s.segFree - 1 ∧
          u.ext x.extent = { s.ext x.extent with
            refs := (s.ext x.extent).refs + 1
            taint := (s.ext x.extent).taint || decide (c.ctx.sealClass ≠ 0) } ∧
          ∃ q r, (u.seg i).body = some
              { b with next := some ⟨s.lowestFreeSeg, (s.seg s.lowestFreeSeg).issue⟩, cue := r } ∧
            (u.seg s.lowestFreeSeg).body = some
              { job := s.jobRef c.job.idx, extent := x.extent, first := x.frame, count := 1, next := b.next
                sealPart := if c.ctx.sealClass = 0 then none else some c.ctx.sealClass, cue := q }) ∧
  (∀ (s : State) (a : Access) (ch : Nat) (job : Ref) (data : Frame) (c : Capture) (x : Entry) (t : Tail) (y : Nat)
      (rest : List Nat), s.port = some a → a.claim.use = .capture ch job data → a.live = true →
    (s.chan ch).stream = .capture c → c.job = job → s.jobCurrent job = true → (s.placement ch).inflight = [x] →
    x.extent = a.claim.extent → x.frame = a.claim.frame → (s.job job.idx).tail = some t → t.extent = a.claim.extent →
    (s.ext a.claim.extent).state = .inUse → s.freeList = y :: rest → y ≠ a.claim.extent →
    ∃ u : State, exec (.captureWriteCompletion true) s = .next u ∧
      (u.ext a.claim.extent).state = .damaged ∧ u.ext y = { s.ext y with state := .inUse, refs := 1 } ∧ u.freeList = rest ∧
      u.job job.idx = { s.job job.idx with tail := some { extent := y, fill := 1 } } ∧
      (u.placement ch).inflight = [{ x with extent := y, frame := 0, status := .writing }] ∧ u.chans = s.chans ∧
      u.segs = s.segs ∧ u.takes = s.takes ∧
      (s.notices.length < 32 → .storeError a.claim.extent .write ∈ u.notices)) ∧
  (∀ (s : State) (a : Access), s.port = some a → a.claim.use = .scrub →
    ∃ u : State, exec (.scrubWriteCompletion false) s = .next u ∧ u.readFrame a.claim.extent a.claim.frame = 0 ∧
      (a.live = true → s.scrubNext < 4095 → u.scrubNext = s.scrubNext + 1 ∧ u.scrubList = s.scrubList ∧ u.exts = s.exts) ∧
      (∀ rest, a.live = true → s.scrubNext = 4095 → s.scrubList = a.claim.extent :: rest →
        u.scrubNext = 0 ∧ u.scrubList = rest ∧ u.freeList = s.freeList ++ [a.claim.extent] ∧
        u.ext a.claim.extent = { s.ext a.claim.extent with state := .free, taint := false } ∧
        u.formatLeft = s.formatLeft - 1) ∧
      u.jobs = s.jobs ∧ u.segs = s.segs ∧ u.chans = s.chans ∧ u.links = s.links) ∧
  (∀ (s : State) (a : Access), s.port = some a → a.claim.use = .scrub → (s.ext a.claim.extent).state = .scrub →
    ∃ u : State, exec (.scrubWriteCompletion true) s = .next u ∧
      u.ext a.claim.extent = { s.ext a.claim.extent with state := .damaged } ∧
      u.scrubList = s.scrubList.erase a.claim.extent ∧ u.freeList = s.freeList ∧
      (s.notices.length < 32 → u.notices = s.notices ++ [.storeError a.claim.extent .scrub])) ∧
  (∀ (s : State) (a : Access) (ch : Nat) (job n q : Ref) (data : Frame) (c : Capture) (x : Entry) (k : Nat), s.port = some a →
    a.claim.use = .capture ch job data → a.live = true → (s.chan ch).stream = .capture c →
    (s.placement ch).inflight = [x] → x.extent = a.claim.extent → x.frame = a.claim.frame → x.changed = false →
    c.ctx.remaining = 0 → 0 < s.segFree → Canonical s → c.ctx.point = .frame q k →
    s.editable c.job.idx (s.anchorPos c.job.idx (.frame q k)) = true →
    n = ⟨s.lowestFreeSeg, (s.seg s.lowestFreeSeg).issue⟩ →
    (x.mode = .insert → ∃ u : State, exec (.captureWriteCompletion false) s = .next u ∧
      (u.job c.job.idx).length = (s.job c.job.idx).length + 1 ∧ (u.placement ch).inflight = [] ∧ u.chan ch = s.chan ch ∧
      u.cues = s.cues ∧ u.takes = s.takes ∧ (∀ m, m ≠ c.job.idx → u.job m = s.job m) ∧
      (∀ i b, segBefore (s.jobSegs c.job.idx) q.idx = some i → (s.seg i).body = some b →
        (b.extent = x.extent ∧ b.first + b.count = x.frame ∧ b.sealPart.getD 0 = c.ctx.sealClass ∧ b.pace = none →
          u.seg i = { s.seg i with body := some { b with count := b.count + 1 } } ∧ (∀ m, m ≠ i → u.seg m = s.seg m) ∧
          u.segFree = s.segFree) ∧
        (¬(b.extent = x.extent ∧ b.first + b.count = x.frame ∧ b.sealPart.getD 0 = c.ctx.sealClass ∧ b.pace = none) →
          u.seg i = { s.seg i with body := some { b with next := some n } } ∧
          (u.seg n.idx).body = some
            { job := s.jobRef c.job.idx, extent := x.extent, first := x.frame, count := 1, next := b.next
              sealPart := if c.ctx.sealClass = 0 then none else some c.ctx.sealClass } ∧
          (∀ m, m ≠ i → m ≠ n.idx → u.seg m = s.seg m) ∧ u.segFree = s.segFree - 1)) ∧
      (segBefore (s.jobSegs c.job.idx) q.idx = none → (u.job c.job.idx).segHead = some n ∧
        (u.seg n.idx).body = some
          { job := s.jobRef c.job.idx, extent := x.extent, first := x.frame, count := 1
            next := (s.job c.job.idx).segHead
            sealPart := if c.ctx.sealClass = 0 then none else some c.ctx.sealClass } ∧
        (∀ m, m ≠ n.idx → u.seg m = s.seg m) ∧ u.segFree = s.segFree - 1)) ∧
    (∀ g i b run, x.mode = .overwrite → s.takeCueAt c.job.idx (.frame q k) = false → (s.seg q.idx).body = some g →
      1 ≤ g.count → segBefore (s.jobSegs c.job.idx) q.idx = some i → i ≠ q.idx → (s.seg i).body = some b →
      b.extent = x.extent → b.first + b.count = x.frame → b.sealPart.getD 0 = c.ctx.sealClass → b.pace = none →
      run = (s.placement ch).runStart.getD (.frame (s.segRef i) b.count) →
      ∃ u : State, exec (.captureWriteCompletion false) s = .next u ∧
        (u.job c.job.idx).length = (s.job c.job.idx).length ∧ (u.placement ch).inflight = [] ∧ u.takes = s.takes ∧
        (∀ m, (u.cue m).body.map (fun z => { z with next := none }) = (s.cue m).body.map fun z => { z with
          next := none
          anchor := match z.anchor with
            | .frame r o => if r.idx = q.idx then (if o = 0 then run else .frame r (o - 1)) else .frame r o
            | .jobEnd => .jobEnd }) ∧
        (2 ≤ g.count → u.chan ch = s.chan ch ∧ (u.placement ch).runStart = some run ∧ u.segFree = s.segFree ∧
          ∃ y z, (u.seg q.idx).body = some { g with first := g.first + 1, count := g.count - 1, cue := y } ∧
            (u.seg i).body = some { b with count := b.count + 1, cue := z }) ∧
        (g.count = 1 → u.seg q.idx = { issue := (s.seg q.idx).issue + 1, body := none } ∧ u.segFree = s.segFree + 1 ∧
          u.chan ch = { s.chan ch with stream := .capture { c with ctx := { c.ctx with
            point := match g.next with | some r => .frame r 0 | none => .jobEnd } } }))) ∧
  (∀ (s : State) (a : Access) (ch : Nat) (job : Ref) (data : Frame) (c : Capture) (x : Entry), s.port = some a →
    a.claim.use = .capture ch job data → a.live = true → (s.chan ch).stream = .capture c →
    (s.placement ch).inflight = [x] → x.extent = a.claim.extent → x.frame = a.claim.frame →
    (x.mode = .overwrite → c.ctx.remaining = 0 → 0 < s.segFree → (s.job c.job.idx).length < 16777215 →
      (c.ctx.point = .jobEnd → ∃ u : State, exec (.captureWriteCompletion false) s = .next u ∧
        (u.job c.job.idx).length = (s.job c.job.idx).length + 1 ∧ u.placement ch = {} ∧
        u.chan ch = { s.chan ch with stream := .capture { c with ctx := { c.ctx with mode := .append } } } ∧
        u.takes = s.takes) ∧
      (∀ q k, c.ctx.point = .frame q k → s.takeCueAt c.job.idx (.frame q k) = true →
        s.editable c.job.idx (s.anchorPos c.job.idx (.frame q k)) = true → (s.chan ch).slot = none →
        ∃ u : State, exec (.captureWriteCompletion false) s = .next u ∧
          (u.job c.job.idx).length = (s.job c.job.idx).length + 1 ∧ u.placement ch = {} ∧
          u.chan ch = { s.chan ch with
            stream := .capture { c with ctx := { c.ctx with mode := .insert } }
            slot := some { chan := ch, cause := .enteredInsert, action := .continued, job := c.job
                           pos := s.anchorPos c.job.idx (.frame q k) * 64 } } ∧
          u.cues = s.cues ∧ u.takes = s.takes)) ∧
    (∀ q k, x.changed = false → c.ctx.point = .frame q k →
      x.mode = .insert ∨ (x.mode = .overwrite ∧ s.takeCueAt c.job.idx (.frame q k) = false) →
      s.editable c.job.idx (s.anchorPos c.job.idx (.frame q k)) = false → (s.chan ch).slot = none →
      ∃ u : State, exec (.captureWriteCompletion false) s = .next u ∧ u.placement ch = {} ∧
        u.chan ch = { s.chan ch with
          stream := .capture { c with
            running := false, counter := 0, ctx := { c.ctx with mode := .append, point := .jobEnd } }
          slot := some { chan := ch, cause := .halt, action := .stopped, job := c.job
                         pos := s.anchorPos c.job.idx (.frame q k) * 64 } } ∧
        (∀ w ∈ u.waiting, w.use.chan? ≠ some ch) ∧ u.jobs = s.jobs ∧ u.segs = s.segs ∧ u.cues = s.cues ∧
        u.takes = s.takes)) ∧
  (∀ (s : State) (a : Access) (ch : Nat) (job : Ref) (data : Frame) (c : Capture) (x : Entry), s.port = some a →
    a.claim.use = .capture ch job data → a.live = true → (s.chan ch).stream = .capture c →
    (s.placement ch).inflight = [x] → x.extent = a.claim.extent → x.frame = a.claim.frame → x.mode = .append →
    x.changed = false → 0 < c.ctx.remaining → 0 < s.segFree →
    ∃ t : State, exec (.captureWriteCompletion false) s = .next (if c.ctx.remaining = 1 then t.countEnd ch else t) ∧
      t.chan ch = { s.chan ch with
        stream := .capture { c with ctx := { c.ctx with remaining := c.ctx.remaining - 1 } } } ∧
      (t.job c.job.idx).length = (s.job c.job.idx).length + 1 ∧ (t.placement ch).inflight = [] ∧ t.takes = s.takes ∧
      t.notices = s.notices) ∧
  (∀ (s : State) (ch : Nat) (c : Capture) (m : Matrix) (note : Cause → Action → Notice), (s.chan ch).stream = .capture c →
    m = (s.chan ch).matrix → (s.chan ch).slot = none →
    (∀ x y, note x y = { chan := ch, cause := x, action := y, job := c.job
                         pos := s.anchorPos c.job.idx c.ctx.point * 64 }) →
    (m.endChain = false → (s.countEnd ch).takes = s.takes ∧ (s.countEnd ch).cues = s.cues ∧
      (s.countEnd ch).chan ch = (if m.endReload then { s.chan ch with
          stream := .capture { c with ctx := { c.ctx with remaining := c.ctx.base } }
          slot := if m.endNotify then some (note .ended .reloaded) else none }
        else { s.chan ch with
          stream := .capture { c with running := false, counter := 0 }, noContinuation := true
          slot := if m.endNotify then some (note .ended .stopped) else none })) ∧
    (m.endChain = true →
      c.ctx.mode ≠ .append ∨ s.emptyHead c.job.idx = true ∨ s.cueFree = 0 ∨ s.takeFree = 0 →
      (s.countEnd ch).takes = s.takes ∧ (s.countEnd ch).cues = s.cues ∧ (s.countEnd ch).chan ch = { s.chan ch with
        stream := .capture { c with ctx := { c.ctx with
          remaining := if m.endReload then c.ctx.base else c.ctx.remaining } }
        chainAbort := true, slot := some (note .chainAbort (if m.endReload then .reloaded else .continued)) }) ∧
    (m.endChain = true → c.ctx.mode = .append → s.emptyHead c.job.idx = false → 0 < s.cueFree → 0 < s.takeFree →
      Canonical s → (s.countEnd ch).chan ch = { s.chan ch with
        stream := .capture { c with ctx := { c.ctx with
          remaining := if m.endReload then c.ctx.base else c.ctx.remaining } }
        chainAbort := false, slot := if m.endNotify then some (note .ended .chained) else none } ∧
      (∃ b, ((s.countEnd ch).cue s.lowestFreeCue).body = some b ∧ b.job = s.jobRef c.job.idx ∧ b.kind = .take ∧
        b.anchor = .jobEnd ∧ b.placer = .reporter (s.job c.job.idx).reporter) ∧
      ((s.countEnd ch).take s.lowestFreeTake).body.map (fun x => { x with seq := none }) = some
        { job := s.jobRef c.job.idx, start := some ⟨s.lowestFreeCue, (s.cue s.lowestFreeCue).issue⟩ } ∧
      (s.countEnd ch).cueFree = s.cueFree - 1 ∧ (s.countEnd ch).takeFree = s.takeFree - 1))

/-- A play read that its channel still wants sends its frame on the link and advances the position by the rate in force, not
beyond the take's end; the remaining count falls. With the action matrix clear, a CLAIMED take at its end leaves the
channel PAUSED with NO-CONTINUATION, a FOLLOWING take leaves it in FOLLOW-WAIT. A check on an extent already DAMAGED sends
silent content marked damaged. A read no longer wanted sends nothing (R108, R109, R139, R141, R142, R157, R190). The first
failing check of an extent makes it DAMAGED with STORE-ERROR, and a job whose tail it was drops it, with a new destination
for a frame in flight there (R109 to R111). MATCH goes on under CHAIN, returns to the base position under RELOAD, and
otherwise stops at the cue (R140). END feeds the first eligible take under CHAIN, or marks CHAIN-ABORT; with no chain made
it returns to the base position under RELOAD and otherwise pauses (R84, R141; the positions of the notices of END: the
model's reading, assumption 25). An advance that leaves the position below the end crosses a boundary when the frame there
lies in another segment than the frame just sent (R139, R158; the latter as the map stands at the advance, assumption 24): in
both profiles every marked field takes its stored value and the marks are cleared (R159). A read-back read sends its frame
and advances by the rate in force over the whole job, with no count and no MATCH; at the job end its capture is restored
PAUSED, NO-CONTINUATION set, with END when END NOTIFY is set (R130, R131; assumptions 15 and 16). -/
def Obligations.PlayReadCompletes : Prop :=
  (∀ (s : State) (j p : Nat), s.segAt j p = (s.locate j p).map fun x => s.segRef x.1) ∧
  (∀ c : Channel, c.cross = { c with
    profA :=
      { active :=
          { rate := if c.profA.rateMark then c.profA.stored.rate else c.profA.active.rate
            backstep := if c.profA.backstepMark then c.profA.stored.backstep else c.profA.active.backstep
            sealAct := if c.profA.sealMark then c.profA.stored.sealAct else c.profA.active.sealAct
            pace := if c.profA.paceMark then c.profA.stored.pace else c.profA.active.pace }
        stored := c.profA.stored, rateMark := false, backstepMark := false, sealMark := false, paceMark := false }
    profB :=
      { active :=
          { rate := if c.profB.rateMark then c.profB.stored.rate else c.profB.active.rate
            backstep := if c.profB.backstepMark then c.profB.stored.backstep else c.profB.active.backstep
            sealAct := if c.profB.sealMark then c.profB.stored.sealAct else c.profB.active.sealAct
            pace := if c.profB.paceMark then c.profB.stored.pace else c.profB.active.pace }
        stored := c.profB.stored, rateMark := false, backstepMark := false, sealMark := false, paceMark := false } }) ∧
  (∀ (s : State) (ch : Nat) (prof : ProfId) (pace : Option Nat), s.rateOf ch prof pace =
    if ((s.chan ch).activeCopy prof).pace then pace.getD ((s.chan ch).activeCopy prof).rate
    else ((s.chan ch).activeCopy prof).rate) ∧
  (∀ (check : Bool) (s : State) (a : Access) (ch n pos : Nat) (r : Readback) (x : Chosen), s.port = some a →
    a.claim.use = .play ch → a.live = true → (s.chan ch).stream = .readback r → r.read = some x →
    (s.link ch).up = true → (s.chan ch).binding = .link →
    (check = true → (s.ext a.claim.extent).state = .damaged) → n = (s.job r.job.idx).length →
    pos = min (r.pos + s.rateOf ch x.prof x.pace) (n * 64) →
    ∃ v : State,
      exec (.playReadCompletion check) s = .next (if n * 64 ≤ pos ∧ (s.chan ch).matrix.endNotify = true then
          v.placeNotice { chan := ch, cause := .ended, action := .stopped, job := r.job, pos := n * 64 } false else v) ∧
      (v.link ch).unsent = (s.link ch).unsent ++
        [.frame check check (if check then 0 else s.readFrame a.claim.extent a.claim.frame)] ∧
      (pos < n * 64 → v.chan ch = { (if s.segAt r.job.idx (pos / 64) = s.segAt r.job.idx (r.pos / 64) then s.chan ch
          else (s.chan ch).cross) with
        stream := .readback { r with read := none, pos := pos, lastSeg := s.segAt r.job.idx (r.pos / 64) } }) ∧
      (n * 64 ≤ pos → v.chan ch = { s.chan ch with
        stream := .capture { job := r.job, ctx := r.parked }, suspended := false, noContinuation := true }) ∧
      (∀ k, k ≠ ch → v.link k = s.link k ∧ v.chan k = s.chan k) ∧ v.jobs = s.jobs ∧ v.segs = s.segs ∧ v.cues = s.cues ∧
      v.takes = s.takes ∧ v.exts = s.exts ∧ v.places = s.places ∧ v.notices = s.notices ∧ v.mem = s.mem) ∧
  (∀ (check : Bool) (s : State) (a : Access) (ch n pos : Nat) (p : Play) (x : Chosen), s.port = some a →
    a.claim.use = .play ch → a.live = true → (s.chan ch).stream = .play p → p.read = some x → p.run = .running →
    (s.chan ch).matrix = {} → p.remaining ≠ 1 → (s.link ch).up = true → (s.chan ch).binding = .link →
    (check = true → (s.ext a.claim.extent).state = .damaged) →
    n = s.playFrames p → pos = min (p.pos + s.rateOf ch x.prof x.pace) (n * 64) →
    ∃ (u : State) (q : Play), exec (.playReadCompletion check) s = .next u ∧
      (u.link ch).unsent = (s.link ch).unsent ++
        [.frame check check (if check then 0 else s.readFrame a.claim.extent a.claim.frame)] ∧
      (u.chan ch).stream = .play q ∧ q.job = p.job ∧ q.take = p.take ∧ q.read = none ∧ q.pos = pos ∧
      q.remaining = p.remaining - 1 ∧ q.stack = p.stack ∧
      q.lastSeg = s.segAt p.job.idx (s.playStart p + p.pos / 64) ∧
      (pos < n * 64 → q.run = .running ∧ (u.chan ch).noContinuation = (s.chan ch).noContinuation ∧
        u.chan ch = { (if s.segAt p.job.idx (s.playStart p + pos / 64) =
            s.segAt p.job.idx (s.playStart p + p.pos / 64) then s.chan ch else (s.chan ch).cross) with
          stream := .play q }) ∧
      (pos = n * 64 → s.takeState p.take = some .claimed → q.run = .paused ∧ (u.chan ch).noContinuation = true) ∧
      (pos = n * 64 → s.takeState p.take = some .following → q.run = .followWait) ∧
      (∀ k, k ≠ ch → u.link k = s.link k ∧ u.chan k = s.chan k) ∧ u.jobs = s.jobs ∧ u.segs = s.segs ∧ u.cues = s.cues ∧
      u.takes = s.takes ∧ u.exts = s.exts ∧ u.notices = s.notices) ∧
  (∀ (s : State) (a : Access) (ch : Nat), s.port = some a → a.claim.use = .play ch → a.live = false →
    ∃ u : State, exec (.playReadCompletion false) s = .next u ∧
      u = { s with waiting := u.waiting, port := u.port, served := u.served }) ∧
  (∀ (s : State) (a : Access) (ch : Nat) (p : Play) (x : Chosen), s.port = some a → a.claim.use = .play ch → a.live = true →
    (s.chan ch).stream = .play p → p.read = some x → p.run = .running → (s.chan ch).matrix = {} → p.remaining ≠ 1 →
    (s.link ch).up = true → (s.chan ch).binding = .link → (s.ext a.claim.extent).state = .inUse →
    (∀ y ∈ s.jobs, ∀ t, y.2.tail = some t → t.extent ≠ a.claim.extent) → s.notices.length < 32 →
    ∃ (u : State) (q : Play), exec (.playReadCompletion true) s = .next u ∧
      u.ext a.claim.extent = { s.ext a.claim.extent with state := .damaged } ∧
      (∀ e, e ≠ a.claim.extent → u.ext e = s.ext e) ∧ u.notices = s.notices ++ [.storeError a.claim.extent .read] ∧
      (u.link ch).unsent = (s.link ch).unsent ++ [.frame true true 0] ∧ (u.chan ch).stream = .play q ∧ q.read = none ∧
      q.pos = min (p.pos + s.rateOf ch x.prof x.pace) (s.playFrames p * 64) ∧ q.remaining = p.remaining - 1 ∧
      u.jobs = s.jobs ∧ u.segs = s.segs ∧ u.takes = s.takes) ∧
  (∀ (s : State) (a : Access) (ch j : Nat) (t : Tail), s.port = some a → a.claim.use = .play ch → a.live = false →
    (s.job j).tail = some t → t.extent = a.claim.extent → (s.ext a.claim.extent).state = .inUse →
    (∀ y ∈ s.jobs, ∀ z, y.2.tail = some z → z.extent = a.claim.extent → y.1 = j) →
    ((s.job j).chan = none → ∃ u : State, exec (.playReadCompletion true) s = .next u ∧
      u.ext a.claim.extent = { s.ext a.claim.extent with state := .damaged, refs := (s.ext a.claim.extent).refs - 1 } ∧
      u.job j = { s.job j with tail := none } ∧ (∀ k, k ≠ j → u.job k = s.job k) ∧
      (s.notices.length < 32 → u.notices = s.notices ++ [.storeError a.claim.extent .read]) ∧ u.freeList = s.freeList ∧
      u.segs = s.segs ∧ u.chans = s.chans ∧ u.places = s.places) ∧
    ∀ k x y rest, (s.job j).chan = some k → (s.placement k).inflight = [x] → x.extent = a.claim.extent →
      s.freeList = y :: rest → y ≠ a.claim.extent → ∃ u : State, exec (.playReadCompletion true) s = .next u ∧
        u.ext a.claim.extent = { s.ext a.claim.extent with state := .damaged, refs := (s.ext a.claim.extent).refs - 1 } ∧
        u.job j = { s.job j with tail := some { extent := y, fill := 1 } } ∧ (∀ m, m ≠ j → u.job m = s.job m) ∧
        (u.placement k).inflight = [{ x with extent := y, frame := 0, status := .writing }] ∧
        u.ext y = { s.ext y with state := .inUse, refs := 1 } ∧ u.freeList = rest ∧
        (s.notices.length < 32 → .storeError a.claim.extent .read ∈ u.notices) ∧ u.segs = s.segs ∧ u.chans = s.chans) ∧
  (∀ (s : State) (a : Access) (ch n pos start i at_ : Nat) (p : Play) (x : Chosen) (b : CueBody) (m : Matrix),
    s.port = some a → a.claim.use = .play ch → a.live = true → (s.chan ch).stream = .play p → p.read = some x →
    p.run = .running → m = (s.chan ch).matrix → m.matchReload = true ∨ m.matchChain = true ∨ m.matchNotify = true →
    p.remaining ≠ 1 → (s.chan ch).slot = none → n = s.playFrames p → start = s.playStart p →
    pos = min (p.pos + s.rateOf ch x.prof x.pace) (n * 64) →
    s.passage p.job.idx (start + p.pos / 64 + 1) (min (start + pos / 64 + 1) (start + n)) (s.chan ch).pattern
      (s.chan ch).mask p.matched = some (i, b, at_) →
    ∃ (u : State) (q : Play), exec (.playReadCompletion false) s = .next u ∧ (u.chan ch).stream = .play q ∧
      (m.matchChain = true → pos < n * 64 → q.pos = pos ∧ q.run = .running ∧ q.remaining = p.remaining - 1 ∧
        (u.chan ch).slot = if m.matchNotify then
          some { chan := ch, cause := .matched, action := .chained, job := p.job, take := some p.take, pos := pos
                 cue := some (s.cueRef i) } else none) ∧
      (m.matchChain = false → m.matchReload = true → p.base < n → q.pos = p.base * 64 ∧ q.run = .running ∧
        q.remaining = p.remaining - 1 ∧ (u.chan ch).slot = if m.matchNotify then
          some { chan := ch, cause := .matched, action := .reloaded, job := p.job, take := some p.take
                 pos := p.base * 64, cue := some (s.cueRef i) } else none) ∧
      (m.matchChain = false → m.matchReload = false → q.pos = (at_ - start) * 64 ∧ q.run = .paused ∧
        q.remaining = p.remaining - 1 ∧ q.matched = some (s.cueRef i) ∧ (u.chan ch).slot =
          some { chan := ch, cause := .matched, action := .stopped, job := p.job, take := some p.take
                 pos := (at_ - start) * 64, cue := some (s.cueRef i) })) ∧
  (∀ (s : State) (a : Access) (ch n pos : Nat) (p : Play) (x : Chosen), s.port = some a → a.claim.use = .play ch →
    a.live = true → (s.chan ch).stream = .play p → p.read = some x → p.run = .running →
    (s.chan ch).matrix.matchReload = false → (s.chan ch).matrix.matchChain = false →
    (s.chan ch).matrix.matchNotify = false → (s.link ch).up = true → (s.chan ch).binding = .link → n = s.playFrames p →
    pos = min (p.pos + s.rateOf ch x.prof x.pace) (n * 64) →
    p.remaining = 1 ∨ (pos = n * 64 ∧ s.takeState p.take = some .claimed) →
    ∃ (t : State) (q : Play), exec (.playReadCompletion false) s = .next (t.raiseEnd ch) ∧ (t.chan ch).stream = .play q ∧
      q.job = p.job ∧ q.take = p.take ∧ q.pos = pos ∧ q.base = p.base ∧ q.baseCount = p.baseCount ∧
      q.remaining = p.remaining - 1 ∧ q.run = .running ∧ (t.chan ch).matrix = (s.chan ch).matrix ∧
      (t.chan ch).slot = (s.chan ch).slot ∧ t.takes = s.takes ∧ t.ready = s.ready ∧ t.holds = s.holds ∧ t.jobs = s.jobs ∧
      (t.link ch).unsent = (s.link ch).unsent ++ [.frame false false (s.readFrame a.claim.extent a.claim.frame)]) ∧
  (∀ (s : State) (ch : Nat) (p q : Play) (m : Matrix), (s.chan ch).stream = .play p → m = (s.chan ch).matrix →
    (m.endChain = false ∨ 4 ≤ s.hold (s.link ch).person ∨ (∀ k ∈ s.ready, ∀ b, (s.take k).body = some b →
      (s.link ch).elig.getLsbD (s.job b.job.idx).cls.code = false)) →
    q = (if m.endReload then { p with pos := p.base * 64, remaining := p.baseCount, lastSeg := none, run := .running }
      else { p with run := .paused }) →
    ∃ v : State, ChannelSetTo s v ch { s.chan ch with
        stream := .play q, chainAbort := (s.chan ch).chainAbort || m.endChain
        noContinuation := (s.chan ch).noContinuation || !m.endReload } ∧
      s.raiseEnd ch = if m.endChain = true ∨ m.endNotify = true then
          v.placeNotice { chan := ch, cause := if m.endChain then .chainAbort else .ended
                          action := if m.endReload then .reloaded else .stopped, job := p.job, take := some p.take
                          pos := q.pos } true
        else v) ∧
  (∀ (s : State) (ch : Nat) (p : Play) (m : Matrix), (s.chan ch).stream = .play p → m = (s.chan ch).matrix →
    (s.chan ch).slot = none →
    (m.endChain = false ∨ 4 ≤ s.hold (s.link ch).person ∨ (∀ k ∈ s.ready, ∀ b, (s.take k).body = some b →
        (s.link ch).elig.getLsbD (s.job b.job.idx).cls.code = false) →
      (s.raiseEnd ch).takes = s.takes ∧ (s.raiseEnd ch).ready = s.ready ∧ (s.raiseEnd ch).chan ch = { s.chan ch with
        stream := .play (if m.endReload then
            { p with pos := p.base * 64, remaining := p.baseCount, lastSeg := none, run := .running }
          else { p with run := .paused })
        chainAbort := (s.chan ch).chainAbort || m.endChain
        noContinuation := (s.chan ch).noContinuation || !m.endReload
        slot := if m.endChain = true ∨ m.endNotify = true then some
            { chan := ch, cause := if m.endChain then .chainAbort else .ended
              action := if m.endReload then .reloaded else .stopped, job := p.job, take := some p.take
              pos := if m.endReload then p.base * 64 else p.pos }
          else none }) ∧
    ∀ pre post i b, m.endChain = true → s.hold (s.link ch).person < 4 → s.ready = pre ++ i :: post →
      (∀ k ∈ pre, ∀ c, (s.take k).body = some c → (s.link ch).elig.getLsbD (s.job c.job.idx).cls.code = false) →
      (s.take i).body = some b → (s.link ch).elig.getLsbD (s.job b.job.idx).cls.code = true → p.take.idx ≠ i →
      (s.raiseEnd ch).chan ch = { s.chan ch with
        stream := .play { p with
          job := b.job, take := ⟨i, (s.take i).issue⟩, pos := b.resume.getD 0, base := 0, remaining := p.baseCount
          stack := [], matched := none, lastSeg := none, read := none, run := .running }
        chainAbort := false
        slot := if m.endNotify then some
            { chan := ch, cause := .ended, action := .chained, job := p.job, take := some p.take, pos := p.pos }
          else none } ∧
      ((s.raiseEnd ch).take i).body = some { b with
        typist := some (s.link ch).person, state := if b.state = .opened then .following else .claimed } ∧
      (s.raiseEnd ch).take p.take.idx = { s.take p.take.idx with
        body := (s.take p.take.idx).body.map fun x => { x with resume := some p.pos } } ∧
      (s.raiseEnd ch).hold (s.link ch).person = s.hold (s.link ch).person + 1 ∧
      (s.raiseEnd ch).ready = s.ready.filter fun k => k != i)

/-- SWEEP_STEP frees one record of the job at the head of the retiring list, its segments, then its cues, then its takes, and
last makes the slot VACANT at the next issue with RETIRED; a phase with nothing left gives way to the next. A completion
report, the oldest sent (assumption 38), makes a CLOSED job whose takes are all RETURNED COMPLETE with JOB-COMPLETE, and is
otherwise dropped (R14, R91, R171 to R174). A segment freed moves the cues anchored on it to the first frame of the new head,
or to END, and lowers its extent's reference count, at 0 with the disposal of R98; a TAKE cue freed clears the start boundary
of the take that began at it. -/
def Obligations.SweepsAndReports : Prop :=
  (∀ (s : State) (j : Nat) (rest : List Nat) (w : Sweep), s.retiring = j :: rest → (s.job j).sweep = some w →
    ∃ u : State, exec .sweepStep s = .next u ∧ (∀ k, k ≠ j → u.job k = s.job k) ∧ u.chans = s.chans ∧ u.links = s.links ∧
      (∀ i b more, w.phase = .segments → s.jobSegs j = (i, b) :: more →
        u.seg i = { issue := (s.seg i).issue + 1, body := none } ∧ u.segFree = s.segFree + 1 ∧
        (u.job j).segHead = b.next ∧ (u.job j).length = (s.job j).length - b.count ∧
        (u.job j).sweep = some { w with freed := w.freed + 1 } ∧
        u.ext b.extent = { s.ext b.extent with
          refs := (s.ext b.extent).refs - 1
          state := if (s.ext b.extent).refs ≤ 1 ∧ (s.ext b.extent).state = .inUse then
            (if (s.ext b.extent).taint then .scrub else .free) else (s.ext b.extent).state } ∧
        (∀ e, e ≠ b.extent → u.ext e = s.ext e) ∧
        u.freeList = (if (s.ext b.extent).refs ≤ 1 ∧ (s.ext b.extent).state = .inUse ∧ (s.ext b.extent).taint = false then
          s.freeList ++ [b.extent] else s.freeList) ∧
        u.scrubList = (if (s.ext b.extent).refs ≤ 1 ∧ (s.ext b.extent).state = .inUse ∧ (s.ext b.extent).taint = true then
          s.scrubList ++ [b.extent] else s.scrubList) ∧
        (s.lowArmed = false → u.notices = s.notices ∧
          u.lowArmed = decide (s.freeList.length < u.freeList.length ∧ s.threshold ≤ u.freeList.length)) ∧
        (∀ m, m ≠ i → (u.seg m).body.map (fun x => { x with cue := none }) =
          (s.seg m).body.map fun x => { x with cue := none }) ∧
        (Canonical s → ∀ m, u.cue m = { s.cue m with
          body := (s.cue m).body.map fun c => { c with anchor := match c.anchor with
            | .frame q o => if q.idx = i then (match b.next with | some h => .frame h 0 | none => .jobEnd) else .frame q o
            | .jobEnd => .jobEnd } }) ∧
        ∀ h g, b.next = some h → h.idx ≠ i → (s.seg h.idx).body = some g →
          (u.seg h.idx).body = some { g with cue := u.firstCueIn (u.jobCues j) h.idx }) ∧
      (w.phase = .segments → s.jobSegs j = [] →
        u = { s with jobs := u.jobs } ∧ u.job j = { s.job j with sweep := some { phase := .cues, freed := 0 } }) ∧
      (∀ i b more, w.phase = .cues → s.jobCues j = (i, b) :: more →
        u.cue i = { issue := (s.cue i).issue + 1, body := none } ∧ u.cueFree = s.cueFree + 1 ∧
        u.job j = { s.job j with firstCue := b.next, sweep := some { w with freed := w.freed + 1 } } ∧
        (∀ k, k ≠ i → u.cue k = s.cue k) ∧ u.segs = s.segs ∧ (b.kind ≠ .take → u.takes = s.takes) ∧
        (Canonical s → b.kind = .take → ∀ m, u.take m = { s.take m with
          body := (s.take m).body.map fun x =>
            if x.start = some (s.cueRef i) then { x with start := none } else x })) ∧
      (w.phase = .cues → s.jobCues j = [] →
        u = { s with jobs := u.jobs } ∧ u.job j = { s.job j with sweep := some { phase := .takes, freed := 0 } }) ∧
      (∀ i b more, w.phase = .takes → s.jobTakes j = (i, b) :: more →
        u.take i = { issue := (s.take i).issue + 1, body := none } ∧ u.takeFree = s.takeFree + 1 ∧
        u.job j = { s.job j with takeHead := b.next, takeCount := (s.job j).takeCount - 1
                                 sweep := some { w with freed := w.freed + 1 } } ∧
        (∀ k, k ≠ i → u.take k = s.take k) ∧ u.segs = s.segs ∧ u.cues = s.cues) ∧
      (w.phase = .takes → s.jobTakes j = [] → s.notices.length < 32 →
        u.job j = { issue := (s.job j).issue + 1 } ∧ u.retiring = (s.retiring.filter fun k => k != j) ∧
        u.notices = s.notices ++ [.retired (s.jobRef j) (s.job j).docket (s.job j).reporter] ∧
        u.segs = s.segs ∧ u.cues = s.cues ∧ u.takes = s.takes)) ∧
  (∀ (s : State) (r : Ref) (rest : List Ref), s.reports = r :: rest →
    (s.jobCurrent r = true → (s.job r.idx).state = .closed → s.allReturned r.idx = true → ∃ u : State,
      exec .completionReport s = .next (u.raise (.jobComplete r)) ∧
      u.job r.idx = { s.job r.idx with state := .complete } ∧ (∀ k, k ≠ r.idx → u.job k = s.job k) ∧
      u = { s with reports := rest, jobs := u.jobs }) ∧
    (s.jobCurrent r = false ∨ (s.job r.idx).state ≠ .closed ∨ s.allReturned r.idx = false →
      exec .completionReport s = .next { s with reports := rest }))
end

