-- ==== Sys2Proof/Laws/State.lean ====
section
/-! SUPPORT. One lemma per field per setter of State, each true by rfl: the setter's own table takes the record, every
other field stands. No later proof unfolds a record update. -/

set_option Elab.async false

namespace Sys2Proof.Machine.State

variable (s : State) (i : Nat)

@[simp] theorem setJob_jobs (x : Job) : (s.setJob i x).jobs = Table.put {} i x s.jobs := rfl
@[simp] theorem setJob_pending (x : Job) : (s.setJob i x).pending = s.pending := rfl
@[simp] theorem setJob_segs (x : Job) : (s.setJob i x).segs = s.segs := rfl
@[simp] theorem setJob_segFree (x : Job) : (s.setJob i x).segFree = s.segFree := rfl
@[simp] theorem setJob_places (x : Job) : (s.setJob i x).places = s.places := rfl
@[simp] theorem setJob_cues (x : Job) : (s.setJob i x).cues = s.cues := rfl
@[simp] theorem setJob_cueFree (x : Job) : (s.setJob i x).cueFree = s.cueFree := rfl
@[simp] theorem setJob_takes (x : Job) : (s.setJob i x).takes = s.takes := rfl
@[simp] theorem setJob_takeFree (x : Job) : (s.setJob i x).takeFree = s.takeFree := rfl
@[simp] theorem setJob_ready (x : Job) : (s.setJob i x).ready = s.ready := rfl
@[simp] theorem setJob_readiness (x : Job) : (s.setJob i x).readiness = s.readiness := rfl
@[simp] theorem setJob_holds (x : Job) : (s.setJob i x).holds = s.holds := rfl
@[simp] theorem setJob_reports (x : Job) : (s.setJob i x).reports = s.reports := rfl
@[simp] theorem setJob_bank (x : Job) : (s.setJob i x).bank = s.bank := rfl
@[simp] theorem setJob_exts (x : Job) : (s.setJob i x).exts = s.exts := rfl
@[simp] theorem setJob_formatted (x : Job) : (s.setJob i x).formatted = s.formatted := rfl
@[simp] theorem setJob_freeList (x : Job) : (s.setJob i x).freeList = s.freeList := rfl
@[simp] theorem setJob_scrubList (x : Job) : (s.setJob i x).scrubList = s.scrubList := rfl
@[simp] theorem setJob_scrubNext (x : Job) : (s.setJob i x).scrubNext = s.scrubNext := rfl
@[simp] theorem setJob_formatLeft (x : Job) : (s.setJob i x).formatLeft = s.formatLeft := rfl
@[simp] theorem setJob_threshold (x : Job) : (s.setJob i x).threshold = s.threshold := rfl
@[simp] theorem setJob_lowArmed (x : Job) : (s.setJob i x).lowArmed = s.lowArmed := rfl
@[simp] theorem setJob_bulkAbove (x : Job) : (s.setJob i x).bulkAbove = s.bulkAbove := rfl
@[simp] theorem setJob_bulk14 (x : Job) : (s.setJob i x).bulk14 = s.bulk14 := rfl
@[simp] theorem setJob_bulk15 (x : Job) : (s.setJob i x).bulk15 = s.bulk15 := rfl
@[simp] theorem setJob_served (x : Job) : (s.setJob i x).served = s.served := rfl
@[simp] theorem setJob_waiting (x : Job) : (s.setJob i x).waiting = s.waiting := rfl
@[simp] theorem setJob_port (x : Job) : (s.setJob i x).port = s.port := rfl
@[simp] theorem setJob_mem (x : Job) : (s.setJob i x).mem = s.mem := rfl
@[simp] theorem setJob_retiring (x : Job) : (s.setJob i x).retiring = s.retiring := rfl
@[simp] theorem setJob_chans (x : Job) : (s.setJob i x).chans = s.chans := rfl
@[simp] theorem setJob_links (x : Job) : (s.setJob i x).links = s.links := rfl
@[simp] theorem setJob_conOutstanding (x : Job) : (s.setJob i x).conOutstanding = s.conOutstanding := rfl
@[simp] theorem setJob_conUnsent (x : Job) : (s.setJob i x).conUnsent = s.conUnsent := rfl
@[simp] theorem setJob_conLine (x : Job) : (s.setJob i x).conLine = s.conLine := rfl
@[simp] theorem setJob_notices (x : Job) : (s.setJob i x).notices = s.notices := rfl
@[simp] theorem setJob_overflowed (x : Job) : (s.setJob i x).overflowed = s.overflowed := rfl
@[simp] theorem setJob_buffer (x : Job) : (s.setJob i x).buffer = s.buffer := rfl
@[simp] theorem setJob_reserved (x : Job) : (s.setJob i x).reserved = s.reserved := rfl
@[simp] theorem setJob_freeCount (x : Job) : (s.setJob i x).freeCount = s.freeCount := rfl

@[simp] theorem setSeg_segs (x : Seg) : (s.setSeg i x).segs = Table.put {} i x s.segs := rfl
@[simp] theorem setSeg_pending (x : Seg) : (s.setSeg i x).pending = s.pending := rfl
@[simp] theorem setSeg_jobs (x : Seg) : (s.setSeg i x).jobs = s.jobs := rfl
@[simp] theorem setSeg_segFree (x : Seg) : (s.setSeg i x).segFree = s.segFree := rfl
@[simp] theorem setSeg_places (x : Seg) : (s.setSeg i x).places = s.places := rfl
@[simp] theorem setSeg_cues (x : Seg) : (s.setSeg i x).cues = s.cues := rfl
@[simp] theorem setSeg_cueFree (x : Seg) : (s.setSeg i x).cueFree = s.cueFree := rfl
@[simp] theorem setSeg_takes (x : Seg) : (s.setSeg i x).takes = s.takes := rfl
@[simp] theorem setSeg_takeFree (x : Seg) : (s.setSeg i x).takeFree = s.takeFree := rfl
@[simp] theorem setSeg_ready (x : Seg) : (s.setSeg i x).ready = s.ready := rfl
@[simp] theorem setSeg_readiness (x : Seg) : (s.setSeg i x).readiness = s.readiness := rfl
@[simp] theorem setSeg_holds (x : Seg) : (s.setSeg i x).holds = s.holds := rfl
@[simp] theorem setSeg_reports (x : Seg) : (s.setSeg i x).reports = s.reports := rfl
@[simp] theorem setSeg_bank (x : Seg) : (s.setSeg i x).bank = s.bank := rfl
@[simp] theorem setSeg_exts (x : Seg) : (s.setSeg i x).exts = s.exts := rfl
@[simp] theorem setSeg_formatted (x : Seg) : (s.setSeg i x).formatted = s.formatted := rfl
@[simp] theorem setSeg_freeList (x : Seg) : (s.setSeg i x).freeList = s.freeList := rfl
@[simp] theorem setSeg_scrubList (x : Seg) : (s.setSeg i x).scrubList = s.scrubList := rfl
@[simp] theorem setSeg_scrubNext (x : Seg) : (s.setSeg i x).scrubNext = s.scrubNext := rfl
@[simp] theorem setSeg_formatLeft (x : Seg) : (s.setSeg i x).formatLeft = s.formatLeft := rfl
@[simp] theorem setSeg_threshold (x : Seg) : (s.setSeg i x).threshold = s.threshold := rfl
@[simp] theorem setSeg_lowArmed (x : Seg) : (s.setSeg i x).lowArmed = s.lowArmed := rfl
@[simp] theorem setSeg_bulkAbove (x : Seg) : (s.setSeg i x).bulkAbove = s.bulkAbove := rfl
@[simp] theorem setSeg_bulk14 (x : Seg) : (s.setSeg i x).bulk14 = s.bulk14 := rfl
@[simp] theorem setSeg_bulk15 (x : Seg) : (s.setSeg i x).bulk15 = s.bulk15 := rfl
@[simp] theorem setSeg_served (x : Seg) : (s.setSeg i x).served = s.served := rfl
@[simp] theorem setSeg_waiting (x : Seg) : (s.setSeg i x).waiting = s.waiting := rfl
@[simp] theorem setSeg_port (x : Seg) : (s.setSeg i x).port = s.port := rfl
@[simp] theorem setSeg_mem (x : Seg) : (s.setSeg i x).mem = s.mem := rfl
@[simp] theorem setSeg_retiring (x : Seg) : (s.setSeg i x).retiring = s.retiring := rfl
@[simp] theorem setSeg_chans (x : Seg) : (s.setSeg i x).chans = s.chans := rfl
@[simp] theorem setSeg_links (x : Seg) : (s.setSeg i x).links = s.links := rfl
@[simp] theorem setSeg_conOutstanding (x : Seg) : (s.setSeg i x).conOutstanding = s.conOutstanding := rfl
@[simp] theorem setSeg_conUnsent (x : Seg) : (s.setSeg i x).conUnsent = s.conUnsent := rfl
@[simp] theorem setSeg_conLine (x : Seg) : (s.setSeg i x).conLine = s.conLine := rfl
@[simp] theorem setSeg_notices (x : Seg) : (s.setSeg i x).notices = s.notices := rfl
@[simp] theorem setSeg_overflowed (x : Seg) : (s.setSeg i x).overflowed = s.overflowed := rfl
@[simp] theorem setSeg_buffer (x : Seg) : (s.setSeg i x).buffer = s.buffer := rfl
@[simp] theorem setSeg_reserved (x : Seg) : (s.setSeg i x).reserved = s.reserved := rfl
@[simp] theorem setSeg_freeCount (x : Seg) : (s.setSeg i x).freeCount = s.freeCount := rfl

@[simp] theorem setCue_cues (x : Cue) : (s.setCue i x).cues = Table.put {} i x s.cues := rfl
@[simp] theorem setCue_pending (x : Cue) : (s.setCue i x).pending = s.pending := rfl
@[simp] theorem setCue_jobs (x : Cue) : (s.setCue i x).jobs = s.jobs := rfl
@[simp] theorem setCue_segs (x : Cue) : (s.setCue i x).segs = s.segs := rfl
@[simp] theorem setCue_segFree (x : Cue) : (s.setCue i x).segFree = s.segFree := rfl
@[simp] theorem setCue_places (x : Cue) : (s.setCue i x).places = s.places := rfl
@[simp] theorem setCue_cueFree (x : Cue) : (s.setCue i x).cueFree = s.cueFree := rfl
@[simp] theorem setCue_takes (x : Cue) : (s.setCue i x).takes = s.takes := rfl
@[simp] theorem setCue_takeFree (x : Cue) : (s.setCue i x).takeFree = s.takeFree := rfl
@[simp] theorem setCue_ready (x : Cue) : (s.setCue i x).ready = s.ready := rfl
@[simp] theorem setCue_readiness (x : Cue) : (s.setCue i x).readiness = s.readiness := rfl
@[simp] theorem setCue_holds (x : Cue) : (s.setCue i x).holds = s.holds := rfl
@[simp] theorem setCue_reports (x : Cue) : (s.setCue i x).reports = s.reports := rfl
@[simp] theorem setCue_bank (x : Cue) : (s.setCue i x).bank = s.bank := rfl
@[simp] theorem setCue_exts (x : Cue) : (s.setCue i x).exts = s.exts := rfl
@[simp] theorem setCue_formatted (x : Cue) : (s.setCue i x).formatted = s.formatted := rfl
@[simp] theorem setCue_freeList (x : Cue) : (s.setCue i x).freeList = s.freeList := rfl
@[simp] theorem setCue_scrubList (x : Cue) : (s.setCue i x).scrubList = s.scrubList := rfl
@[simp] theorem setCue_scrubNext (x : Cue) : (s.setCue i x).scrubNext = s.scrubNext := rfl
@[simp] theorem setCue_formatLeft (x : Cue) : (s.setCue i x).formatLeft = s.formatLeft := rfl
@[simp] theorem setCue_threshold (x : Cue) : (s.setCue i x).threshold = s.threshold := rfl
@[simp] theorem setCue_lowArmed (x : Cue) : (s.setCue i x).lowArmed = s.lowArmed := rfl
@[simp] theorem setCue_bulkAbove (x : Cue) : (s.setCue i x).bulkAbove = s.bulkAbove := rfl
@[simp] theorem setCue_bulk14 (x : Cue) : (s.setCue i x).bulk14 = s.bulk14 := rfl
@[simp] theorem setCue_bulk15 (x : Cue) : (s.setCue i x).bulk15 = s.bulk15 := rfl
@[simp] theorem setCue_served (x : Cue) : (s.setCue i x).served = s.served := rfl
@[simp] theorem setCue_waiting (x : Cue) : (s.setCue i x).waiting = s.waiting := rfl
@[simp] theorem setCue_port (x : Cue) : (s.setCue i x).port = s.port := rfl
@[simp] theorem setCue_mem (x : Cue) : (s.setCue i x).mem = s.mem := rfl
@[simp] theorem setCue_retiring (x : Cue) : (s.setCue i x).retiring = s.retiring := rfl
@[simp] theorem setCue_chans (x : Cue) : (s.setCue i x).chans = s.chans := rfl
@[simp] theorem setCue_links (x : Cue) : (s.setCue i x).links = s.links := rfl
@[simp] theorem setCue_conOutstanding (x : Cue) : (s.setCue i x).conOutstanding = s.conOutstanding := rfl
@[simp] theorem setCue_conUnsent (x : Cue) : (s.setCue i x).conUnsent = s.conUnsent := rfl
@[simp] theorem setCue_conLine (x : Cue) : (s.setCue i x).conLine = s.conLine := rfl
@[simp] theorem setCue_notices (x : Cue) : (s.setCue i x).notices = s.notices := rfl
@[simp] theorem setCue_overflowed (x : Cue) : (s.setCue i x).overflowed = s.overflowed := rfl
@[simp] theorem setCue_buffer (x : Cue) : (s.setCue i x).buffer = s.buffer := rfl
@[simp] theorem setCue_reserved (x : Cue) : (s.setCue i x).reserved = s.reserved := rfl
@[simp] theorem setCue_freeCount (x : Cue) : (s.setCue i x).freeCount = s.freeCount := rfl

@[simp] theorem setTake_takes (x : Take) : (s.setTake i x).takes = Table.put {} i x s.takes := rfl
@[simp] theorem setTake_pending (x : Take) : (s.setTake i x).pending = s.pending := rfl
@[simp] theorem setTake_jobs (x : Take) : (s.setTake i x).jobs = s.jobs := rfl
@[simp] theorem setTake_segs (x : Take) : (s.setTake i x).segs = s.segs := rfl
@[simp] theorem setTake_segFree (x : Take) : (s.setTake i x).segFree = s.segFree := rfl
@[simp] theorem setTake_places (x : Take) : (s.setTake i x).places = s.places := rfl
@[simp] theorem setTake_cues (x : Take) : (s.setTake i x).cues = s.cues := rfl
@[simp] theorem setTake_cueFree (x : Take) : (s.setTake i x).cueFree = s.cueFree := rfl
@[simp] theorem setTake_takeFree (x : Take) : (s.setTake i x).takeFree = s.takeFree := rfl
@[simp] theorem setTake_ready (x : Take) : (s.setTake i x).ready = s.ready := rfl
@[simp] theorem setTake_readiness (x : Take) : (s.setTake i x).readiness = s.readiness := rfl
@[simp] theorem setTake_holds (x : Take) : (s.setTake i x).holds = s.holds := rfl
@[simp] theorem setTake_reports (x : Take) : (s.setTake i x).reports = s.reports := rfl
@[simp] theorem setTake_bank (x : Take) : (s.setTake i x).bank = s.bank := rfl
@[simp] theorem setTake_exts (x : Take) : (s.setTake i x).exts = s.exts := rfl
@[simp] theorem setTake_formatted (x : Take) : (s.setTake i x).formatted = s.formatted := rfl
@[simp] theorem setTake_freeList (x : Take) : (s.setTake i x).freeList = s.freeList := rfl
@[simp] theorem setTake_scrubList (x : Take) : (s.setTake i x).scrubList = s.scrubList := rfl
@[simp] theorem setTake_scrubNext (x : Take) : (s.setTake i x).scrubNext = s.scrubNext := rfl
@[simp] theorem setTake_formatLeft (x : Take) : (s.setTake i x).formatLeft = s.formatLeft := rfl
@[simp] theorem setTake_threshold (x : Take) : (s.setTake i x).threshold = s.threshold := rfl
@[simp] theorem setTake_lowArmed (x : Take) : (s.setTake i x).lowArmed = s.lowArmed := rfl
@[simp] theorem setTake_bulkAbove (x : Take) : (s.setTake i x).bulkAbove = s.bulkAbove := rfl
@[simp] theorem setTake_bulk14 (x : Take) : (s.setTake i x).bulk14 = s.bulk14 := rfl
@[simp] theorem setTake_bulk15 (x : Take) : (s.setTake i x).bulk15 = s.bulk15 := rfl
@[simp] theorem setTake_served (x : Take) : (s.setTake i x).served = s.served := rfl
@[simp] theorem setTake_waiting (x : Take) : (s.setTake i x).waiting = s.waiting := rfl
@[simp] theorem setTake_port (x : Take) : (s.setTake i x).port = s.port := rfl
@[simp] theorem setTake_mem (x : Take) : (s.setTake i x).mem = s.mem := rfl
@[simp] theorem setTake_retiring (x : Take) : (s.setTake i x).retiring = s.retiring := rfl
@[simp] theorem setTake_chans (x : Take) : (s.setTake i x).chans = s.chans := rfl
@[simp] theorem setTake_links (x : Take) : (s.setTake i x).links = s.links := rfl
@[simp] theorem setTake_conOutstanding (x : Take) : (s.setTake i x).conOutstanding = s.conOutstanding := rfl
@[simp] theorem setTake_conUnsent (x : Take) : (s.setTake i x).conUnsent = s.conUnsent := rfl
@[simp] theorem setTake_conLine (x : Take) : (s.setTake i x).conLine = s.conLine := rfl
@[simp] theorem setTake_notices (x : Take) : (s.setTake i x).notices = s.notices := rfl
@[simp] theorem setTake_overflowed (x : Take) : (s.setTake i x).overflowed = s.overflowed := rfl
@[simp] theorem setTake_buffer (x : Take) : (s.setTake i x).buffer = s.buffer := rfl
@[simp] theorem setTake_reserved (x : Take) : (s.setTake i x).reserved = s.reserved := rfl
@[simp] theorem setTake_freeCount (x : Take) : (s.setTake i x).freeCount = s.freeCount := rfl

@[simp] theorem setHold_holds (x : Nat) : (s.setHold i x).holds = Table.put 0 i x s.holds := rfl
@[simp] theorem setHold_pending (x : Nat) : (s.setHold i x).pending = s.pending := rfl
@[simp] theorem setHold_jobs (x : Nat) : (s.setHold i x).jobs = s.jobs := rfl
@[simp] theorem setHold_segs (x : Nat) : (s.setHold i x).segs = s.segs := rfl
@[simp] theorem setHold_segFree (x : Nat) : (s.setHold i x).segFree = s.segFree := rfl
@[simp] theorem setHold_places (x : Nat) : (s.setHold i x).places = s.places := rfl
@[simp] theorem setHold_cues (x : Nat) : (s.setHold i x).cues = s.cues := rfl
@[simp] theorem setHold_cueFree (x : Nat) : (s.setHold i x).cueFree = s.cueFree := rfl
@[simp] theorem setHold_takes (x : Nat) : (s.setHold i x).takes = s.takes := rfl
@[simp] theorem setHold_takeFree (x : Nat) : (s.setHold i x).takeFree = s.takeFree := rfl
@[simp] theorem setHold_ready (x : Nat) : (s.setHold i x).ready = s.ready := rfl
@[simp] theorem setHold_readiness (x : Nat) : (s.setHold i x).readiness = s.readiness := rfl
@[simp] theorem setHold_reports (x : Nat) : (s.setHold i x).reports = s.reports := rfl
@[simp] theorem setHold_bank (x : Nat) : (s.setHold i x).bank = s.bank := rfl
@[simp] theorem setHold_exts (x : Nat) : (s.setHold i x).exts = s.exts := rfl
@[simp] theorem setHold_formatted (x : Nat) : (s.setHold i x).formatted = s.formatted := rfl
@[simp] theorem setHold_freeList (x : Nat) : (s.setHold i x).freeList = s.freeList := rfl
@[simp] theorem setHold_scrubList (x : Nat) : (s.setHold i x).scrubList = s.scrubList := rfl
@[simp] theorem setHold_scrubNext (x : Nat) : (s.setHold i x).scrubNext = s.scrubNext := rfl
@[simp] theorem setHold_formatLeft (x : Nat) : (s.setHold i x).formatLeft = s.formatLeft := rfl
@[simp] theorem setHold_threshold (x : Nat) : (s.setHold i x).threshold = s.threshold := rfl
@[simp] theorem setHold_lowArmed (x : Nat) : (s.setHold i x).lowArmed = s.lowArmed := rfl
@[simp] theorem setHold_bulkAbove (x : Nat) : (s.setHold i x).bulkAbove = s.bulkAbove := rfl
@[simp] theorem setHold_bulk14 (x : Nat) : (s.setHold i x).bulk14 = s.bulk14 := rfl
@[simp] theorem setHold_bulk15 (x : Nat) : (s.setHold i x).bulk15 = s.bulk15 := rfl
@[simp] theorem setHold_served (x : Nat) : (s.setHold i x).served = s.served := rfl
@[simp] theorem setHold_waiting (x : Nat) : (s.setHold i x).waiting = s.waiting := rfl
@[simp] theorem setHold_port (x : Nat) : (s.setHold i x).port = s.port := rfl
@[simp] theorem setHold_mem (x : Nat) : (s.setHold i x).mem = s.mem := rfl
@[simp] theorem setHold_retiring (x : Nat) : (s.setHold i x).retiring = s.retiring := rfl
@[simp] theorem setHold_chans (x : Nat) : (s.setHold i x).chans = s.chans := rfl
@[simp] theorem setHold_links (x : Nat) : (s.setHold i x).links = s.links := rfl
@[simp] theorem setHold_conOutstanding (x : Nat) : (s.setHold i x).conOutstanding = s.conOutstanding := rfl
@[simp] theorem setHold_conUnsent (x : Nat) : (s.setHold i x).conUnsent = s.conUnsent := rfl
@[simp] theorem setHold_conLine (x : Nat) : (s.setHold i x).conLine = s.conLine := rfl
@[simp] theorem setHold_notices (x : Nat) : (s.setHold i x).notices = s.notices := rfl
@[simp] theorem setHold_overflowed (x : Nat) : (s.setHold i x).overflowed = s.overflowed := rfl
@[simp] theorem setHold_buffer (x : Nat) : (s.setHold i x).buffer = s.buffer := rfl
@[simp] theorem setHold_reserved (x : Nat) : (s.setHold i x).reserved = s.reserved := rfl
@[simp] theorem setHold_freeCount (x : Nat) : (s.setHold i x).freeCount = s.freeCount := rfl

@[simp] theorem setExt_exts (x : Ext) : (s.setExt i x).exts = Table.put {} i x s.exts := rfl
@[simp] theorem setExt_pending (x : Ext) : (s.setExt i x).pending = s.pending := rfl
@[simp] theorem setExt_jobs (x : Ext) : (s.setExt i x).jobs = s.jobs := rfl
@[simp] theorem setExt_segs (x : Ext) : (s.setExt i x).segs = s.segs := rfl
@[simp] theorem setExt_segFree (x : Ext) : (s.setExt i x).segFree = s.segFree := rfl
@[simp] theorem setExt_places (x : Ext) : (s.setExt i x).places = s.places := rfl
@[simp] theorem setExt_cues (x : Ext) : (s.setExt i x).cues = s.cues := rfl
@[simp] theorem setExt_cueFree (x : Ext) : (s.setExt i x).cueFree = s.cueFree := rfl
@[simp] theorem setExt_takes (x : Ext) : (s.setExt i x).takes = s.takes := rfl
@[simp] theorem setExt_takeFree (x : Ext) : (s.setExt i x).takeFree = s.takeFree := rfl
@[simp] theorem setExt_ready (x : Ext) : (s.setExt i x).ready = s.ready := rfl
@[simp] theorem setExt_readiness (x : Ext) : (s.setExt i x).readiness = s.readiness := rfl
@[simp] theorem setExt_holds (x : Ext) : (s.setExt i x).holds = s.holds := rfl
@[simp] theorem setExt_reports (x : Ext) : (s.setExt i x).reports = s.reports := rfl
@[simp] theorem setExt_bank (x : Ext) : (s.setExt i x).bank = s.bank := rfl
@[simp] theorem setExt_formatted (x : Ext) : (s.setExt i x).formatted = s.formatted := rfl
@[simp] theorem setExt_freeList (x : Ext) : (s.setExt i x).freeList = s.freeList := rfl
@[simp] theorem setExt_scrubList (x : Ext) : (s.setExt i x).scrubList = s.scrubList := rfl
@[simp] theorem setExt_scrubNext (x : Ext) : (s.setExt i x).scrubNext = s.scrubNext := rfl
@[simp] theorem setExt_formatLeft (x : Ext) : (s.setExt i x).formatLeft = s.formatLeft := rfl
@[simp] theorem setExt_threshold (x : Ext) : (s.setExt i x).threshold = s.threshold := rfl
@[simp] theorem setExt_lowArmed (x : Ext) : (s.setExt i x).lowArmed = s.lowArmed := rfl
@[simp] theorem setExt_bulkAbove (x : Ext) : (s.setExt i x).bulkAbove = s.bulkAbove := rfl
@[simp] theorem setExt_bulk14 (x : Ext) : (s.setExt i x).bulk14 = s.bulk14 := rfl
@[simp] theorem setExt_bulk15 (x : Ext) : (s.setExt i x).bulk15 = s.bulk15 := rfl
@[simp] theorem setExt_served (x : Ext) : (s.setExt i x).served = s.served := rfl
@[simp] theorem setExt_waiting (x : Ext) : (s.setExt i x).waiting = s.waiting := rfl
@[simp] theorem setExt_port (x : Ext) : (s.setExt i x).port = s.port := rfl
@[simp] theorem setExt_mem (x : Ext) : (s.setExt i x).mem = s.mem := rfl
@[simp] theorem setExt_retiring (x : Ext) : (s.setExt i x).retiring = s.retiring := rfl
@[simp] theorem setExt_chans (x : Ext) : (s.setExt i x).chans = s.chans := rfl
@[simp] theorem setExt_links (x : Ext) : (s.setExt i x).links = s.links := rfl
@[simp] theorem setExt_conOutstanding (x : Ext) : (s.setExt i x).conOutstanding = s.conOutstanding := rfl
@[simp] theorem setExt_conUnsent (x : Ext) : (s.setExt i x).conUnsent = s.conUnsent := rfl
@[simp] theorem setExt_conLine (x : Ext) : (s.setExt i x).conLine = s.conLine := rfl
@[simp] theorem setExt_notices (x : Ext) : (s.setExt i x).notices = s.notices := rfl
@[simp] theorem setExt_overflowed (x : Ext) : (s.setExt i x).overflowed = s.overflowed := rfl
@[simp] theorem setExt_buffer (x : Ext) : (s.setExt i x).buffer = s.buffer := rfl
@[simp] theorem setExt_reserved (x : Ext) : (s.setExt i x).reserved = s.reserved := rfl
@[simp] theorem setExt_freeCount (x : Ext) : (s.setExt i x).freeCount = s.freeCount := rfl

@[simp] theorem setPlacement_places (x : Placement) : (s.setPlacement i x).places = Table.put {} i x s.places := rfl
@[simp] theorem setPlacement_pending (x : Placement) : (s.setPlacement i x).pending = s.pending := rfl
@[simp] theorem setPlacement_jobs (x : Placement) : (s.setPlacement i x).jobs = s.jobs := rfl
@[simp] theorem setPlacement_segs (x : Placement) : (s.setPlacement i x).segs = s.segs := rfl
@[simp] theorem setPlacement_segFree (x : Placement) : (s.setPlacement i x).segFree = s.segFree := rfl
@[simp] theorem setPlacement_cues (x : Placement) : (s.setPlacement i x).cues = s.cues := rfl
@[simp] theorem setPlacement_cueFree (x : Placement) : (s.setPlacement i x).cueFree = s.cueFree := rfl
@[simp] theorem setPlacement_takes (x : Placement) : (s.setPlacement i x).takes = s.takes := rfl
@[simp] theorem setPlacement_takeFree (x : Placement) : (s.setPlacement i x).takeFree = s.takeFree := rfl
@[simp] theorem setPlacement_ready (x : Placement) : (s.setPlacement i x).ready = s.ready := rfl
@[simp] theorem setPlacement_readiness (x : Placement) : (s.setPlacement i x).readiness = s.readiness := rfl
@[simp] theorem setPlacement_holds (x : Placement) : (s.setPlacement i x).holds = s.holds := rfl
@[simp] theorem setPlacement_reports (x : Placement) : (s.setPlacement i x).reports = s.reports := rfl
@[simp] theorem setPlacement_bank (x : Placement) : (s.setPlacement i x).bank = s.bank := rfl
@[simp] theorem setPlacement_exts (x : Placement) : (s.setPlacement i x).exts = s.exts := rfl
@[simp] theorem setPlacement_formatted (x : Placement) : (s.setPlacement i x).formatted = s.formatted := rfl
@[simp] theorem setPlacement_freeList (x : Placement) : (s.setPlacement i x).freeList = s.freeList := rfl
@[simp] theorem setPlacement_scrubList (x : Placement) : (s.setPlacement i x).scrubList = s.scrubList := rfl
@[simp] theorem setPlacement_scrubNext (x : Placement) : (s.setPlacement i x).scrubNext = s.scrubNext := rfl
@[simp] theorem setPlacement_formatLeft (x : Placement) : (s.setPlacement i x).formatLeft = s.formatLeft := rfl
@[simp] theorem setPlacement_threshold (x : Placement) : (s.setPlacement i x).threshold = s.threshold := rfl
@[simp] theorem setPlacement_lowArmed (x : Placement) : (s.setPlacement i x).lowArmed = s.lowArmed := rfl
@[simp] theorem setPlacement_bulkAbove (x : Placement) : (s.setPlacement i x).bulkAbove = s.bulkAbove := rfl
@[simp] theorem setPlacement_bulk14 (x : Placement) : (s.setPlacement i x).bulk14 = s.bulk14 := rfl
@[simp] theorem setPlacement_bulk15 (x : Placement) : (s.setPlacement i x).bulk15 = s.bulk15 := rfl
@[simp] theorem setPlacement_served (x : Placement) : (s.setPlacement i x).served = s.served := rfl
@[simp] theorem setPlacement_waiting (x : Placement) : (s.setPlacement i x).waiting = s.waiting := rfl
@[simp] theorem setPlacement_port (x : Placement) : (s.setPlacement i x).port = s.port := rfl
@[simp] theorem setPlacement_mem (x : Placement) : (s.setPlacement i x).mem = s.mem := rfl
@[simp] theorem setPlacement_retiring (x : Placement) : (s.setPlacement i x).retiring = s.retiring := rfl
@[simp] theorem setPlacement_chans (x : Placement) : (s.setPlacement i x).chans = s.chans := rfl
@[simp] theorem setPlacement_links (x : Placement) : (s.setPlacement i x).links = s.links := rfl
@[simp] theorem setPlacement_conOutstanding (x : Placement) : (s.setPlacement i x).conOutstanding = s.conOutstanding := rfl
@[simp] theorem setPlacement_conUnsent (x : Placement) : (s.setPlacement i x).conUnsent = s.conUnsent := rfl
@[simp] theorem setPlacement_conLine (x : Placement) : (s.setPlacement i x).conLine = s.conLine := rfl
@[simp] theorem setPlacement_notices (x : Placement) : (s.setPlacement i x).notices = s.notices := rfl
@[simp] theorem setPlacement_overflowed (x : Placement) : (s.setPlacement i x).overflowed = s.overflowed := rfl
@[simp] theorem setPlacement_buffer (x : Placement) : (s.setPlacement i x).buffer = s.buffer := rfl
@[simp] theorem setPlacement_reserved (x : Placement) : (s.setPlacement i x).reserved = s.reserved := rfl
@[simp] theorem setPlacement_freeCount (x : Placement) : (s.setPlacement i x).freeCount = s.freeCount := rfl

@[simp] theorem setChan_chans (x : Channel) : (s.setChan i x).chans = Table.put {} i x s.chans := rfl
@[simp] theorem setChan_pending (x : Channel) : (s.setChan i x).pending = s.pending := rfl
@[simp] theorem setChan_jobs (x : Channel) : (s.setChan i x).jobs = s.jobs := rfl
@[simp] theorem setChan_segs (x : Channel) : (s.setChan i x).segs = s.segs := rfl
@[simp] theorem setChan_segFree (x : Channel) : (s.setChan i x).segFree = s.segFree := rfl
@[simp] theorem setChan_places (x : Channel) : (s.setChan i x).places = s.places := rfl
@[simp] theorem setChan_cues (x : Channel) : (s.setChan i x).cues = s.cues := rfl
@[simp] theorem setChan_cueFree (x : Channel) : (s.setChan i x).cueFree = s.cueFree := rfl
@[simp] theorem setChan_takes (x : Channel) : (s.setChan i x).takes = s.takes := rfl
@[simp] theorem setChan_takeFree (x : Channel) : (s.setChan i x).takeFree = s.takeFree := rfl
@[simp] theorem setChan_ready (x : Channel) : (s.setChan i x).ready = s.ready := rfl
@[simp] theorem setChan_readiness (x : Channel) : (s.setChan i x).readiness = s.readiness := rfl
@[simp] theorem setChan_holds (x : Channel) : (s.setChan i x).holds = s.holds := rfl
@[simp] theorem setChan_reports (x : Channel) : (s.setChan i x).reports = s.reports := rfl
@[simp] theorem setChan_bank (x : Channel) : (s.setChan i x).bank = s.bank := rfl
@[simp] theorem setChan_exts (x : Channel) : (s.setChan i x).exts = s.exts := rfl
@[simp] theorem setChan_formatted (x : Channel) : (s.setChan i x).formatted = s.formatted := rfl
@[simp] theorem setChan_freeList (x : Channel) : (s.setChan i x).freeList = s.freeList := rfl
@[simp] theorem setChan_scrubList (x : Channel) : (s.setChan i x).scrubList = s.scrubList := rfl
@[simp] theorem setChan_scrubNext (x : Channel) : (s.setChan i x).scrubNext = s.scrubNext := rfl
@[simp] theorem setChan_formatLeft (x : Channel) : (s.setChan i x).formatLeft = s.formatLeft := rfl
@[simp] theorem setChan_threshold (x : Channel) : (s.setChan i x).threshold = s.threshold := rfl
@[simp] theorem setChan_lowArmed (x : Channel) : (s.setChan i x).lowArmed = s.lowArmed := rfl
@[simp] theorem setChan_bulkAbove (x : Channel) : (s.setChan i x).bulkAbove = s.bulkAbove := rfl
@[simp] theorem setChan_bulk14 (x : Channel) : (s.setChan i x).bulk14 = s.bulk14 := rfl
@[simp] theorem setChan_bulk15 (x : Channel) : (s.setChan i x).bulk15 = s.bulk15 := rfl
@[simp] theorem setChan_served (x : Channel) : (s.setChan i x).served = s.served := rfl
@[simp] theorem setChan_waiting (x : Channel) : (s.setChan i x).waiting = s.waiting := rfl
@[simp] theorem setChan_port (x : Channel) : (s.setChan i x).port = s.port := rfl
@[simp] theorem setChan_mem (x : Channel) : (s.setChan i x).mem = s.mem := rfl
@[simp] theorem setChan_retiring (x : Channel) : (s.setChan i x).retiring = s.retiring := rfl
@[simp] theorem setChan_links (x : Channel) : (s.setChan i x).links = s.links := rfl
@[simp] theorem setChan_conOutstanding (x : Channel) : (s.setChan i x).conOutstanding = s.conOutstanding := rfl
@[simp] theorem setChan_conUnsent (x : Channel) : (s.setChan i x).conUnsent = s.conUnsent := rfl
@[simp] theorem setChan_conLine (x : Channel) : (s.setChan i x).conLine = s.conLine := rfl
@[simp] theorem setChan_notices (x : Channel) : (s.setChan i x).notices = s.notices := rfl
@[simp] theorem setChan_overflowed (x : Channel) : (s.setChan i x).overflowed = s.overflowed := rfl
@[simp] theorem setChan_buffer (x : Channel) : (s.setChan i x).buffer = s.buffer := rfl
@[simp] theorem setChan_reserved (x : Channel) : (s.setChan i x).reserved = s.reserved := rfl
@[simp] theorem setChan_freeCount (x : Channel) : (s.setChan i x).freeCount = s.freeCount := rfl

@[simp] theorem setLink_links (x : Link) : (s.setLink i x).links = Table.put {} i x s.links := rfl
@[simp] theorem setLink_pending (x : Link) : (s.setLink i x).pending = s.pending := rfl
@[simp] theorem setLink_jobs (x : Link) : (s.setLink i x).jobs = s.jobs := rfl
@[simp] theorem setLink_segs (x : Link) : (s.setLink i x).segs = s.segs := rfl
@[simp] theorem setLink_segFree (x : Link) : (s.setLink i x).segFree = s.segFree := rfl
@[simp] theorem setLink_places (x : Link) : (s.setLink i x).places = s.places := rfl
@[simp] theorem setLink_cues (x : Link) : (s.setLink i x).cues = s.cues := rfl
@[simp] theorem setLink_cueFree (x : Link) : (s.setLink i x).cueFree = s.cueFree := rfl
@[simp] theorem setLink_takes (x : Link) : (s.setLink i x).takes = s.takes := rfl
@[simp] theorem setLink_takeFree (x : Link) : (s.setLink i x).takeFree = s.takeFree := rfl
@[simp] theorem setLink_ready (x : Link) : (s.setLink i x).ready = s.ready := rfl
@[simp] theorem setLink_readiness (x : Link) : (s.setLink i x).readiness = s.readiness := rfl
@[simp] theorem setLink_holds (x : Link) : (s.setLink i x).holds = s.holds := rfl
@[simp] theorem setLink_reports (x : Link) : (s.setLink i x).reports = s.reports := rfl
@[simp] theorem setLink_bank (x : Link) : (s.setLink i x).bank = s.bank := rfl
@[simp] theorem setLink_exts (x : Link) : (s.setLink i x).exts = s.exts := rfl
@[simp] theorem setLink_formatted (x : Link) : (s.setLink i x).formatted = s.formatted := rfl
@[simp] theorem setLink_freeList (x : Link) : (s.setLink i x).freeList = s.freeList := rfl
@[simp] theorem setLink_scrubList (x : Link) : (s.setLink i x).scrubList = s.scrubList := rfl
@[simp] theorem setLink_scrubNext (x : Link) : (s.setLink i x).scrubNext = s.scrubNext := rfl
@[simp] theorem setLink_formatLeft (x : Link) : (s.setLink i x).formatLeft = s.formatLeft := rfl
@[simp] theorem setLink_threshold (x : Link) : (s.setLink i x).threshold = s.threshold := rfl
@[simp] theorem setLink_lowArmed (x : Link) : (s.setLink i x).lowArmed = s.lowArmed := rfl
@[simp] theorem setLink_bulkAbove (x : Link) : (s.setLink i x).bulkAbove = s.bulkAbove := rfl
@[simp] theorem setLink_bulk14 (x : Link) : (s.setLink i x).bulk14 = s.bulk14 := rfl
@[simp] theorem setLink_bulk15 (x : Link) : (s.setLink i x).bulk15 = s.bulk15 := rfl
@[simp] theorem setLink_served (x : Link) : (s.setLink i x).served = s.served := rfl
@[simp] theorem setLink_waiting (x : Link) : (s.setLink i x).waiting = s.waiting := rfl
@[simp] theorem setLink_port (x : Link) : (s.setLink i x).port = s.port := rfl
@[simp] theorem setLink_mem (x : Link) : (s.setLink i x).mem = s.mem := rfl
@[simp] theorem setLink_retiring (x : Link) : (s.setLink i x).retiring = s.retiring := rfl
@[simp] theorem setLink_chans (x : Link) : (s.setLink i x).chans = s.chans := rfl
@[simp] theorem setLink_conOutstanding (x : Link) : (s.setLink i x).conOutstanding = s.conOutstanding := rfl
@[simp] theorem setLink_conUnsent (x : Link) : (s.setLink i x).conUnsent = s.conUnsent := rfl
@[simp] theorem setLink_conLine (x : Link) : (s.setLink i x).conLine = s.conLine := rfl
@[simp] theorem setLink_notices (x : Link) : (s.setLink i x).notices = s.notices := rfl
@[simp] theorem setLink_overflowed (x : Link) : (s.setLink i x).overflowed = s.overflowed := rfl
@[simp] theorem setLink_buffer (x : Link) : (s.setLink i x).buffer = s.buffer := rfl
@[simp] theorem setLink_reserved (x : Link) : (s.setLink i x).reserved = s.reserved := rfl
@[simp] theorem setLink_freeCount (x : Link) : (s.setLink i x).freeCount = s.freeCount := rfl

@[simp] theorem handConsole_pending (m : ConsoleMsg) : (s.handConsole m).pending = s.pending := rfl
@[simp] theorem handConsole_jobs (m : ConsoleMsg) : (s.handConsole m).jobs = s.jobs := rfl
@[simp] theorem handConsole_segs (m : ConsoleMsg) : (s.handConsole m).segs = s.segs := rfl
@[simp] theorem handConsole_segFree (m : ConsoleMsg) : (s.handConsole m).segFree = s.segFree := rfl
@[simp] theorem handConsole_places (m : ConsoleMsg) : (s.handConsole m).places = s.places := rfl
@[simp] theorem handConsole_cues (m : ConsoleMsg) : (s.handConsole m).cues = s.cues := rfl
@[simp] theorem handConsole_cueFree (m : ConsoleMsg) : (s.handConsole m).cueFree = s.cueFree := rfl
@[simp] theorem handConsole_takes (m : ConsoleMsg) : (s.handConsole m).takes = s.takes := rfl
@[simp] theorem handConsole_takeFree (m : ConsoleMsg) : (s.handConsole m).takeFree = s.takeFree := rfl
@[simp] theorem handConsole_ready (m : ConsoleMsg) : (s.handConsole m).ready = s.ready := rfl
@[simp] theorem handConsole_readiness (m : ConsoleMsg) : (s.handConsole m).readiness = s.readiness := rfl
@[simp] theorem handConsole_holds (m : ConsoleMsg) : (s.handConsole m).holds = s.holds := rfl
@[simp] theorem handConsole_reports (m : ConsoleMsg) : (s.handConsole m).reports = s.reports := rfl
@[simp] theorem handConsole_bank (m : ConsoleMsg) : (s.handConsole m).bank = s.bank := rfl
@[simp] theorem handConsole_exts (m : ConsoleMsg) : (s.handConsole m).exts = s.exts := rfl
@[simp] theorem handConsole_formatted (m : ConsoleMsg) : (s.handConsole m).formatted = s.formatted := rfl
@[simp] theorem handConsole_freeList (m : ConsoleMsg) : (s.handConsole m).freeList = s.freeList := rfl
@[simp] theorem handConsole_scrubList (m : ConsoleMsg) : (s.handConsole m).scrubList = s.scrubList := rfl
@[simp] theorem handConsole_scrubNext (m : ConsoleMsg) : (s.handConsole m).scrubNext = s.scrubNext := rfl
@[simp] theorem handConsole_formatLeft (m : ConsoleMsg) : (s.handConsole m).formatLeft = s.formatLeft := rfl
@[simp] theorem handConsole_threshold (m : ConsoleMsg) : (s.handConsole m).threshold = s.threshold := rfl
@[simp] theorem handConsole_lowArmed (m : ConsoleMsg) : (s.handConsole m).lowArmed = s.lowArmed := rfl
@[simp] theorem handConsole_bulkAbove (m : ConsoleMsg) : (s.handConsole m).bulkAbove = s.bulkAbove := rfl
@[simp] theorem handConsole_bulk14 (m : ConsoleMsg) : (s.handConsole m).bulk14 = s.bulk14 := rfl
@[simp] theorem handConsole_bulk15 (m : ConsoleMsg) : (s.handConsole m).bulk15 = s.bulk15 := rfl
@[simp] theorem handConsole_served (m : ConsoleMsg) : (s.handConsole m).served = s.served := rfl
@[simp] theorem handConsole_waiting (m : ConsoleMsg) : (s.handConsole m).waiting = s.waiting := rfl
@[simp] theorem handConsole_port (m : ConsoleMsg) : (s.handConsole m).port = s.port := rfl
@[simp] theorem handConsole_mem (m : ConsoleMsg) : (s.handConsole m).mem = s.mem := rfl
@[simp] theorem handConsole_retiring (m : ConsoleMsg) : (s.handConsole m).retiring = s.retiring := rfl
@[simp] theorem handConsole_chans (m : ConsoleMsg) : (s.handConsole m).chans = s.chans := rfl
@[simp] theorem handConsole_links (m : ConsoleMsg) : (s.handConsole m).links = s.links := rfl
@[simp] theorem handConsole_conOutstanding (m : ConsoleMsg) : (s.handConsole m).conOutstanding = s.conOutstanding := rfl
@[simp] theorem handConsole_conLine (m : ConsoleMsg) : (s.handConsole m).conLine = s.conLine := rfl
@[simp] theorem handConsole_notices (m : ConsoleMsg) : (s.handConsole m).notices = s.notices := rfl
@[simp] theorem handConsole_overflowed (m : ConsoleMsg) : (s.handConsole m).overflowed = s.overflowed := rfl
@[simp] theorem handConsole_buffer (m : ConsoleMsg) : (s.handConsole m).buffer = s.buffer := rfl
@[simp] theorem handConsole_reserved (m : ConsoleMsg) : (s.handConsole m).reserved = s.reserved := rfl
@[simp] theorem handConsole_freeCount (m : ConsoleMsg) : (s.handConsole m).freeCount = s.freeCount := rfl
@[simp] theorem handConsole_conUnsent (m : ConsoleMsg) : (s.handConsole m).conUnsent = s.conUnsent ++ [m] := rfl

end Sys2Proof.Machine.State
end

