-- ==== Sys2Proof/Laws/Table.lean ====
section
/-! SUPPORT. What the table and memory operations do: the record read after a write, and the canonical form that every
operation keeps. -/

set_option Elab.async false

namespace Sys2Proof.Machine

variable {α : Type} [DecidableEq α]

/-! ### Reading after a write -/

theorem Table.get_erase_self {α : Type} (d : α) (n : Nat) (t : List (Nat × α)) : Table.get d (Table.erase n t) n = d := by
  induction t with
  | nil => rfl
  | cons p t ih =>
    obtain ⟨k, v⟩ := p
    simp only [Table.erase]
    split
    · exact ih
    · rename_i h; simp [Table.get, h, ih]

theorem Table.get_erase_ne {α : Type} (d : α) (n m : Nat) (t : List (Nat × α)) (h : m ≠ n) :
    Table.get d (Table.erase n t) m = Table.get d t m := by
  induction t with
  | nil => rfl
  | cons p t ih =>
    obtain ⟨k, v⟩ := p
    simp only [Table.erase]
    split
    · rename_i e; subst e; simp [Table.get, h, ih]
    · simp [Table.get, ih]

theorem Table.get_insert_self {α : Type} (d : α) (n : Nat) (v : α) (t : List (Nat × α)) :
    Table.get d (Table.insert n v t) n = v := by
  induction t with
  | nil => simp [Table.insert, Table.get]
  | cons p t ih =>
    obtain ⟨k, w⟩ := p
    simp only [Table.insert]
    split
    · simp [Table.get]
    · split
      · simp [Table.get]
      · rename_i e; simp [Table.get, e, ih]

theorem Table.get_insert_ne {α : Type} (d : α) (n m : Nat) (v : α) (t : List (Nat × α)) (h : m ≠ n) :
    Table.get d (Table.insert n v t) m = Table.get d t m := by
  induction t with
  | nil => simp [Table.insert, Table.get, h]
  | cons p t ih =>
    obtain ⟨k, w⟩ := p
    simp only [Table.insert]
    split
    · simp [Table.get, h]
    · split
      · rename_i e; subst e; simp [Table.get, h]
      · simp [Table.get, ih]

/-- A record reads as it was last written. -/
@[simp] theorem Table.get_put_self (d : α) (n : Nat) (v : α) (t : List (Nat × α)) :
    Table.get d (Table.put d n v t) n = v := by
  unfold Table.put
  split
  · rename_i h; subst h; exact Table.get_erase_self v n t
  · exact Table.get_insert_self d n v t

/-- A write leaves every other record. -/
theorem Table.get_put_ne (d : α) (n m : Nat) (v : α) (t : List (Nat × α)) (h : m ≠ n) :
    Table.get d (Table.put d n v t) m = Table.get d t m := by
  unfold Table.put
  split
  · exact Table.get_erase_ne d n m t h
  · exact Table.get_insert_ne d n m v t h

/-- Reading after a write, in one equation. -/
theorem Table.get_put (d : α) (n m : Nat) (v : α) (t : List (Nat × α)) :
    Table.get d (Table.put d n v t) m = if m = n then v else Table.get d t m := by
  split
  · rename_i h; subst h; simp
  · rename_i h; exact Table.get_put_ne d n m v t h

/-! ### The canonical form -/

theorem Table.wfFrom_mono (d : α) {lo lo' : Nat} (h : lo' ≤ lo) (t : List (Nat × α)) (w : Table.wfFrom d lo t = true) :
    Table.wfFrom d lo' t = true := by
  cases t with
  | nil => rfl
  | cons p t =>
    obtain ⟨k, v⟩ := p
    simp only [Table.wfFrom, Bool.and_eq_true, decide_eq_true_eq] at w ⊢
    exact ⟨⟨le_trans h w.1.1, w.1.2⟩, w.2⟩

theorem Table.wfFrom_erase (d : α) (n : Nat) (t : List (Nat × α)) :
    ∀ lo, Table.wfFrom d lo t = true → Table.wfFrom d lo (Table.erase n t) = true := by
  induction t with
  | nil => intro _ _; rfl
  | cons p t ih =>
    obtain ⟨k, v⟩ := p
    intro lo w
    simp only [Table.wfFrom, Bool.and_eq_true, decide_eq_true_eq] at w
    simp only [Table.erase]
    split
    · exact Table.wfFrom_mono d (by omega) _ (ih _ w.2)
    · simp only [Table.wfFrom, Bool.and_eq_true, decide_eq_true_eq]
      exact ⟨w.1, ih _ w.2⟩

theorem Table.wfFrom_insert (d : α) (n : Nat) (v : α) (hv : v ≠ d) (t : List (Nat × α)) :
    ∀ lo, lo ≤ n → Table.wfFrom d lo t = true → Table.wfFrom d lo (Table.insert n v t) = true := by
  induction t with
  | nil => intro lo h _; simp [Table.insert, Table.wfFrom, h, hv]
  | cons p t ih =>
    obtain ⟨k, w⟩ := p
    intro lo h hw
    simp only [Table.wfFrom, Bool.and_eq_true, decide_eq_true_eq] at hw
    simp only [Table.insert]
    split
    · simp only [Table.wfFrom, Bool.and_eq_true, decide_eq_true_eq]
      exact ⟨⟨h, hv⟩, ⟨by omega, hw.1.2⟩, hw.2⟩
    · split
      · rename_i e; subst e
        simp only [Table.wfFrom, Bool.and_eq_true, decide_eq_true_eq]
        exact ⟨⟨hw.1.1, hv⟩, hw.2⟩
      · simp only [Table.wfFrom, Bool.and_eq_true, decide_eq_true_eq]
        exact ⟨hw.1, ih _ (by omega) hw.2⟩

/-- A write keeps the canonical form. -/
theorem Table.wf_put (d : α) (n : Nat) (v : α) (t : List (Nat × α)) (w : Table.wf d t = true) :
    Table.wf d (Table.put d n v t) = true := by
  unfold Table.put
  split
  · exact Table.wfFrom_erase d n t 0 w
  · rename_i h; exact Table.wfFrom_insert d n v h t 0 (Nat.zero_le n) w

theorem Table.wfFrom_mapListed (d : α) (f : α → α) (t : List (Nat × α)) :
    ∀ lo, Table.wfFrom d lo t = true → Table.wfFrom d lo (Table.mapListed d f t) = true := by
  induction t with
  | nil => intro _ _; rfl
  | cons p t ih =>
    obtain ⟨k, v⟩ := p
    intro lo w
    simp only [Table.wfFrom, Bool.and_eq_true, decide_eq_true_eq] at w
    simp only [Table.mapListed]
    split
    · exact Table.wfFrom_mono d (by omega) _ (ih _ w.2)
    · rename_i h
      simp only [Table.wfFrom, Bool.and_eq_true, decide_eq_true_eq]
      exact ⟨⟨w.1.1, h⟩, ih _ w.2⟩

/-- A change of every listed record keeps the canonical form. -/
theorem Table.wf_mapListed (d : α) (f : α → α) (t : List (Nat × α)) (w : Table.wf d t = true) :
    Table.wf d (Table.mapListed d f t) = true := Table.wfFrom_mapListed d f t 0 w

theorem Table.wfFrom_mapFrom (d : α) (f : Nat → α → α) :
    ∀ (n k : Nat) (t : List (Nat × α)), Table.wfFrom d k t = true →
      Table.wfFrom d k (Table.mapFrom d f n k t) = true := by
  intro n
  induction n with
  | zero => intro k t w; cases t <;> exact w
  | succ n ih =>
    intro k t w
    cases t with
    | nil =>
      simp only [Table.mapFrom]
      split
      · exact Table.wfFrom_mono d (Nat.le_succ k) _ (ih (k + 1) [] rfl)
      · rename_i h
        simp only [Table.wfFrom, Bool.and_eq_true, decide_eq_true_eq]
        exact ⟨⟨le_refl k, h⟩, ih (k + 1) [] rfl⟩
    | cons p t =>
      obtain ⟨j, v⟩ := p
      simp only [Table.wfFrom, Bool.and_eq_true, decide_eq_true_eq] at w
      simp only [Table.mapFrom]
      split
      · rename_i e; subst e
        split
        · exact Table.wfFrom_mono d (Nat.le_succ _) _ (ih (j + 1) t w.2)
        · rename_i h
          simp only [Table.wfFrom, Bool.and_eq_true, decide_eq_true_eq]
          exact ⟨⟨le_refl j, h⟩, ih (j + 1) t w.2⟩
      · rename_i e
        have w' : Table.wfFrom d (k + 1) ((j, v) :: t) = true := by
          simp only [Table.wfFrom, Bool.and_eq_true, decide_eq_true_eq]
          exact ⟨⟨by omega, w.1.2⟩, w.2⟩
        split
        · exact Table.wfFrom_mono d (Nat.le_succ k) _ (ih (k + 1) _ w')
        · rename_i h
          simp only [Table.wfFrom, Bool.and_eq_true, decide_eq_true_eq]
          exact ⟨⟨le_refl k, h⟩, ih (k + 1) _ w'⟩

/-- A change of a run of records from index 0 keeps the canonical form. -/
theorem Table.wf_mapFrom (d : α) (f : Nat → α → α) (n : Nat) (t : List (Nat × α)) (w : Table.wf d t = true) :
    Table.wf d (Table.mapFrom d f n 0 t) = true := Table.wfFrom_mapFrom d f n 0 t w

theorem Table.get_below (d : α) (n : Nat) (t : List (Nat × α)) :
    ∀ lo, Table.wfFrom d lo t = true → n < lo → Table.get d t n = d := by
  induction t with
  | nil => intro _ _ _; rfl
  | cons p t ih =>
    obtain ⟨k, v⟩ := p
    intro lo w h
    simp only [Table.wfFrom, Bool.and_eq_true, decide_eq_true_eq] at w
    have hk : n ≠ k := by omega
    simp only [Table.get, hk, if_false]
    exact ih _ w.2 (by omega)

theorem Table.get_mapListed (d : α) (f : α → α) (hf : f d = d) (n : Nat) (t : List (Nat × α)) :
    ∀ lo, Table.wfFrom d lo t = true → Table.get d (Table.mapListed d f t) n = f (Table.get d t n) := by
  induction t with
  | nil => intro _ _; exact hf.symm
  | cons p t ih =>
    obtain ⟨k, v⟩ := p
    intro lo w
    simp only [Table.wfFrom, Bool.and_eq_true, decide_eq_true_eq] at w
    have rest := ih _ w.2
    simp only [Table.mapListed, Table.get]
    by_cases hk : n = k
    · subst hk
      have below := Table.get_below d n t _ w.2 (by omega)
      split
      · rename_i e; rw [rest, below, hf]; simp [e]
      · simp [Table.get]
    · simp only [hk, if_false]
      split
      · exact rest
      · simp only [Table.get, hk, if_false]; exact rest

/-! ### Memory -/

/-- A memory write keeps the canonical form. -/
theorem Memory.wf_write : ∀ (n a v : Nat) (m : List Host.Cell), Memory.wf m = true →
    Memory.wf (Memory.write n a v m) = true := by
  intro n
  induction n with
  | zero => intro _ _ _ w; exact w
  | succ n ih => intro a v m w; exact ih _ _ _ (Table.wf_put 0 a _ m w)

/-- A memory write leaves every byte outside the bytes written. -/
theorem Memory.get_write_outside : ∀ (n a v : Nat) (m : List Host.Cell) (x : Nat), x < a ∨ a + n ≤ x →
    Table.get (0 : Byte) (Memory.write n a v m) x = Table.get 0 m x := by
  intro n
  induction n with
  | zero => intro _ _ _ _ _; rfl
  | succ n ih =>
    intro a v m x h
    simp only [Memory.write]
    rw [ih _ _ _ _ (by omega)]
    exact Table.get_put_ne 0 a x _ m (by omega)

/-- A memory write stores the bytes of its number, the lowest address least significant. -/
theorem Memory.get_write_inside : ∀ (n a v : Nat) (m : List Host.Cell) (i : Nat), i < n →
    Table.get (0 : Byte) (Memory.write n a v m) (a + i) = BitVec.ofNat 8 (v / 256 ^ i) := by
  intro n
  induction n with
  | zero => intro _ _ _ i h; omega
  | succ n ih =>
    intro a v m i h
    simp only [Memory.write]
    cases i with
    | zero =>
      rw [Memory.get_write_outside _ _ _ _ _ (by omega)]
      simp
    | succ i =>
      have e : a + (i + 1) = (a + 1) + i := by omega
      rw [e, ih _ _ _ _ (by omega), Nat.div_div_eq_div_mul, Nat.pow_succ, Nat.mul_comm]

/-! ### Records of the state -/

namespace State

variable (s : State) (i : Nat)

@[simp] theorem job_setJob (x : Job) : (s.setJob i x).job i = x := Table.get_put_self _ _ _ _
@[simp] theorem seg_setSeg (x : Seg) : (s.setSeg i x).seg i = x := Table.get_put_self _ _ _ _
@[simp] theorem cue_setCue (x : Cue) : (s.setCue i x).cue i = x := Table.get_put_self _ _ _ _
@[simp] theorem take_setTake (x : Take) : (s.setTake i x).take i = x := Table.get_put_self _ _ _ _
@[simp] theorem hold_setHold (x : Nat) : (s.setHold i x).hold i = x := Table.get_put_self _ _ _ _
@[simp] theorem ext_setExt (x : Ext) : (s.setExt i x).ext i = x := Table.get_put_self _ _ _ _
@[simp] theorem placement_setPlacement (x : Placement) : (s.setPlacement i x).placement i = x := Table.get_put_self _ _ _ _
@[simp] theorem chan_setChan (x : Channel) : (s.setChan i x).chan i = x := Table.get_put_self _ _ _ _
@[simp] theorem link_setLink (x : Link) : (s.setLink i x).link i = x := Table.get_put_self _ _ _ _

theorem job_setJob_ne (x : Job) (k : Nat) (h : k ≠ i) : (s.setJob i x).job k = s.job k := Table.get_put_ne _ _ _ _ _ h
theorem seg_setSeg_ne (x : Seg) (k : Nat) (h : k ≠ i) : (s.setSeg i x).seg k = s.seg k := Table.get_put_ne _ _ _ _ _ h
theorem cue_setCue_ne (x : Cue) (k : Nat) (h : k ≠ i) : (s.setCue i x).cue k = s.cue k := Table.get_put_ne _ _ _ _ _ h
theorem take_setTake_ne (x : Take) (k : Nat) (h : k ≠ i) : (s.setTake i x).take k = s.take k :=
  Table.get_put_ne _ _ _ _ _ h
theorem hold_setHold_ne (x k : Nat) (h : k ≠ i) : (s.setHold i x).hold k = s.hold k := Table.get_put_ne _ _ _ _ _ h
theorem ext_setExt_ne (x : Ext) (k : Nat) (h : k ≠ i) : (s.setExt i x).ext k = s.ext k := Table.get_put_ne _ _ _ _ _ h
theorem placement_setPlacement_ne (x : Placement) (k : Nat) (h : k ≠ i) :
    (s.setPlacement i x).placement k = s.placement k := Table.get_put_ne _ _ _ _ _ h
theorem chan_setChan_ne (x : Channel) (k : Nat) (h : k ≠ i) : (s.setChan i x).chan k = s.chan k :=
  Table.get_put_ne _ _ _ _ _ h
theorem link_setLink_ne (x : Link) (k : Nat) (h : k ≠ i) : (s.setLink i x).link k = s.link k :=
  Table.get_put_ne _ _ _ _ _ h

/-- A frame write keeps the canonical form of the store. -/
theorem writeFrame_wf (e f : Nat) (x : Frame) (w : Memory.wf s.mem = true) : Memory.wf (s.writeFrame e f x).mem = true :=
  Memory.wf_write _ _ _ _ w

/-- A spoilt frame keeps the canonical form of the store. -/
theorem spoilFrame_wf (e f : Nat) (w : Memory.wf s.mem = true) : Memory.wf (s.spoilFrame e f).mem = true :=
  Memory.wf_write _ _ _ _ w

/-- A frame write leaves every byte outside the 64 at its store address. -/
theorem byteAt_writeFrame_outside (e f : Nat) (x : Frame) (a : Nat)
    (h : a < storeAddress e f ∨ storeAddress e f + 64 ≤ a) : (s.writeFrame e f x).byteAt a = s.byteAt a :=
  Memory.get_write_outside _ _ _ _ _ h

/-- A spoilt frame leaves every byte outside the 64 at its store address. -/
theorem byteAt_spoilFrame_outside (e f a : Nat)
    (h : a < storeAddress e f ∨ storeAddress e f + 64 ≤ a) : (s.spoilFrame e f).byteAt a = s.byteAt a :=
  Memory.get_write_outside _ _ _ _ _ h

end State
end Sys2Proof.Machine
end

