-- ==== Sys2Proof/Laws/Sound.lean ====
section
/-! SUPPORT. What a write of one record keeps of the invariants, and the two conditions (`ChanKept`, `LinkKept`) under which a
channel context or a link record may be written. -/

set_option Elab.async false

namespace Sys2Proof.Machine

/-- A channel context may be replaced by another that has the same binding and the same notice slots and is SUSPENDED only
if the first was, or had a second notice. -/
structure ChanKept (c d : Channel) : Prop where
  binding : d.binding = c.binding
  slot : d.slot = c.slot
  second : d.second = c.second
  suspended : d.suspended = true → c.suspended = true ∨ c.second.isSome = true

/-- A link record may be replaced by another of the same role and person number. -/
structure LinkKept (k m : Link) : Prop where
  role : m.role = k.role
  person : m.person = k.person

/-- The invariants hold after a change that keeps every table canonical, the notices bounded, the channels' bindings, slots
and suspensions and the links' roles and person numbers. -/
theorem Sound.of {s t : State} (h : Sound s) (canon : Canonical s → Canonical t)
    (notices : t.notices.length ≤ 32) (chans : ∀ c, ChanKept (s.chan c) (t.chan c))
    (links : ∀ l, LinkKept (s.link l) (t.link l)) : Sound t := by
  obtain ⟨h1, _, h3, h4, h5, h6⟩ := h
  refine ⟨canon h1, notices, ?_, ?_, ?_, ?_⟩
  · intro c k
    rw [(chans c).slot]
    rw [(chans c).second] at k
    exact h3 c k
  · intro c k
    rw [(chans c).second]
    exact ((chans c).suspended k).elim (h4 c) id
  · intro c k
    rw [(links c).role]
    rw [(chans c).binding] at k
    exact h5 c k
  · intro a b ha hb
    rw [(links a).role, (links b).role, (links a).person, (links b).person]
    exact h6 a b ha hb

theorem ChanKept.refl (c : Channel) : ChanKept c c := ⟨rfl, rfl, rfl, .inl⟩
theorem LinkKept.refl (k : Link) : LinkKept k k := ⟨rfl, rfl⟩

namespace State

variable {s : State}

theorem sound_setJob (h : Sound s) (i : Nat) (x : Job) : Sound (s.setJob i x) :=
  ⟨⟨h.1.1, Table.wf_put _ _ _ _ h.1.2.1, h.1.2.2⟩, h.2⟩

theorem sound_setSeg (h : Sound s) (i : Nat) (x : Seg) : Sound (s.setSeg i x) :=
  ⟨⟨h.1.1, h.1.2.1, Table.wf_put _ _ _ _ h.1.2.2.1, h.1.2.2.2⟩, h.2⟩

theorem sound_setPlacement (h : Sound s) (i : Nat) (x : Placement) : Sound (s.setPlacement i x) :=
  ⟨⟨h.1.1, h.1.2.1, h.1.2.2.1, Table.wf_put _ _ _ _ h.1.2.2.2.1, h.1.2.2.2.2⟩, h.2⟩

theorem sound_setCue (h : Sound s) (i : Nat) (x : Cue) : Sound (s.setCue i x) :=
  ⟨⟨h.1.1, h.1.2.1, h.1.2.2.1, h.1.2.2.2.1, Table.wf_put _ _ _ _ h.1.2.2.2.2.1, h.1.2.2.2.2.2⟩, h.2⟩

theorem sound_setTake (h : Sound s) (i : Nat) (x : Take) : Sound (s.setTake i x) :=
  ⟨⟨h.1.1, h.1.2.1, h.1.2.2.1, h.1.2.2.2.1, h.1.2.2.2.2.1, Table.wf_put _ _ _ _ h.1.2.2.2.2.2.1, h.1.2.2.2.2.2.2⟩, h.2⟩

theorem sound_setHold (h : Sound s) (i x : Nat) : Sound (s.setHold i x) :=
  ⟨⟨h.1.1, h.1.2.1, h.1.2.2.1, h.1.2.2.2.1, h.1.2.2.2.2.1, h.1.2.2.2.2.2.1, Table.wf_put _ _ _ _ h.1.2.2.2.2.2.2.1,
    h.1.2.2.2.2.2.2.2⟩, h.2⟩

theorem sound_setExt (h : Sound s) (i : Nat) (x : Ext) : Sound (s.setExt i x) :=
  ⟨⟨h.1.1, h.1.2.1, h.1.2.2.1, h.1.2.2.2.1, h.1.2.2.2.2.1, h.1.2.2.2.2.2.1, h.1.2.2.2.2.2.2.1,
    Table.wf_put _ _ _ _ h.1.2.2.2.2.2.2.2.1, h.1.2.2.2.2.2.2.2.2⟩, h.2⟩

theorem canonical_setChan (h : Canonical s) (i : Nat) (x : Channel) : Canonical (s.setChan i x) :=
  ⟨h.1, h.2.1, h.2.2.1, h.2.2.2.1, h.2.2.2.2.1, h.2.2.2.2.2.1, h.2.2.2.2.2.2.1, h.2.2.2.2.2.2.2.1,
    Table.wf_put _ _ _ _ h.2.2.2.2.2.2.2.2.1, h.2.2.2.2.2.2.2.2.2⟩

theorem canonical_setLink (h : Canonical s) (i : Nat) (x : Link) : Canonical (s.setLink i x) :=
  ⟨h.1, h.2.1, h.2.2.1, h.2.2.2.1, h.2.2.2.2.1, h.2.2.2.2.2.1, h.2.2.2.2.2.2.1, h.2.2.2.2.2.2.2.1,
    h.2.2.2.2.2.2.2.2.1, Table.wf_put _ _ _ _ h.2.2.2.2.2.2.2.2.2⟩

theorem sound_setChan (h : Sound s) (i : Nat) (x : Channel) (k : ChanKept (s.chan i) x) : Sound (s.setChan i x) := by
  refine h.of (fun c => canonical_setChan c i x) h.2.1 (fun c => ?_) fun l => LinkKept.refl _
  by_cases e : c = i
  · subst e; rw [chan_setChan]; exact k
  · rw [chan_setChan_ne _ _ _ _ e]; exact .refl _

theorem sound_setLink (h : Sound s) (i : Nat) (x : Link) (k : LinkKept (s.link i) x) : Sound (s.setLink i x) := by
  refine h.of (fun c => canonical_setLink c i x) h.2.1 (fun c => ChanKept.refl _) fun l => ?_
  by_cases e : l = i
  · subst e; rw [link_setLink]; exact k
  · rw [link_setLink_ne _ _ _ _ e]; exact .refl _

/-- A channel whose slots are written in order, with no suspension left over, keeps the invariants. -/
theorem sound_setSlots (h : Sound s) (i : Nat) (x : Channel) (b : x.binding = (s.chan i).binding)
    (o : x.second.isSome = true → x.slot.isSome = true) (u : x.suspended = true → x.second.isSome = true) :
    Sound (s.setChan i x) := by
  obtain ⟨h1, h2, h3, h4, h5, h6⟩ := h
  refine ⟨canonical_setChan h1 i x, h2, fun c => ?_, fun c => ?_, fun c => ?_, h6⟩ <;> by_cases e : c = i
  · subst e; rw [chan_setChan]; exact o
  · rw [chan_setChan_ne _ _ _ _ e]; exact h3 c
  · subst e; rw [chan_setChan]; exact u
  · rw [chan_setChan_ne _ _ _ _ e]; exact h4 c
  · subst e; rw [chan_setChan, b]; exact h5 c
  · rw [chan_setChan_ne _ _ _ _ e]; exact h5 c

theorem sound_raise (h : Sound s) (n : ConsoleNotice) : Sound (s.raise n) := by
  unfold raise
  split
  · rename_i lt
    exact ⟨h.1, by simpa [QueueBounded] using lt, h.2.2⟩
  · exact h

theorem sound_mapCues (h : Sound s) (f : Cue → Cue) : Sound { s with cues := Table.mapListed {} f s.cues } :=
  ⟨⟨h.1.1, h.1.2.1, h.1.2.2.1, h.1.2.2.2.1, Table.wf_mapListed _ _ _ h.1.2.2.2.2.1, h.1.2.2.2.2.2⟩, h.2⟩

theorem sound_mapTakes (h : Sound s) (f : Take → Take) : Sound { s with takes := Table.mapListed {} f s.takes } :=
  ⟨⟨h.1.1, h.1.2.1, h.1.2.2.1, h.1.2.2.2.1, h.1.2.2.2.2.1, Table.wf_mapListed _ _ _ h.1.2.2.2.2.2.1,
    h.1.2.2.2.2.2.2⟩, h.2⟩

theorem sound_mapExts (h : Sound s) (f : Nat → Ext → Ext) (n : Nat) :
    Sound { s with exts := Table.mapFrom {} f n 0 s.exts } :=
  ⟨⟨h.1.1, h.1.2.1, h.1.2.2.1, h.1.2.2.2.1, h.1.2.2.2.2.1, h.1.2.2.2.2.2.1, h.1.2.2.2.2.2.2.1,
    Table.wf_mapFrom _ _ _ _ h.1.2.2.2.2.2.2.2.1, h.1.2.2.2.2.2.2.2.2⟩, h.2⟩

theorem sound_mapPoints (h : Sound s) (f : Anchor → Anchor) : Sound (s.mapPoints f) := by
  refine h.of (fun c => ?_) h.2.1 (fun c => ?_) fun l => LinkKept.refl _
  · exact ⟨c.1, c.2.1, c.2.2.1, Table.wf_mapListed _ _ _ c.2.2.2.1, c.2.2.2.2.1, c.2.2.2.2.2.1, c.2.2.2.2.2.2.1,
      c.2.2.2.2.2.2.2.1, Table.wf_mapListed _ _ _ c.2.2.2.2.2.2.2.2.1, c.2.2.2.2.2.2.2.2.2⟩
  · have e : (s.mapPoints f).chan c = { s.chan c with stream := (s.chan c).stream.mapPoint f } :=
      Table.get_mapListed _ _ rfl c s.chans 0 h.1.2.2.2.2.2.2.2.2.1
    rw [e]
    exact ⟨rfl, rfl, rfl, .inl⟩

theorem sound_writeFrame (h : Sound s) (e f : Nat) (x : Frame) : Sound (s.writeFrame e f x) :=
  ⟨⟨writeFrame_wf s e f x h.1.1, h.1.2⟩, h.2⟩

theorem sound_spoilFrame (h : Sound s) (e f : Nat) : Sound (s.spoilFrame e f) :=
  ⟨⟨spoilFrame_wf s e f h.1.1, h.1.2⟩, h.2⟩

end State
end Sys2Proof.Machine
end

