-- ==== Sys2Proof/Laws/Touch.lean ====
section
/-! SUPPORT. What each shared operation can change, said once. `RecordsOnly s t`: `t` differs from `s` at most in the records,
lists and counters of the blocks, never in the queue, the store's bytes, the console port or a setting of the Store
Controller, and keeps the invariants. `ChannelOnly`: at most in channels, links, notices and the store's claims and extents. `StoreOnly`: at most in
notices and the store's claims and extents. -/

set_option Elab.async false

namespace Sys2Proof.Machine

/-- The fields outside the blocks' records stand. -/
structure RecordsFrame (s t : State) : Prop where
  pending : t.pending = s.pending
  reports : t.reports = s.reports
  bank : t.bank = s.bank
  formatted : t.formatted = s.formatted
  threshold : t.threshold = s.threshold
  bulkAbove : t.bulkAbove = s.bulkAbove
  bulk14 : t.bulk14 = s.bulk14
  bulk15 : t.bulk15 = s.bulk15
  mem : t.mem = s.mem
  retiring : t.retiring = s.retiring
  conOutstanding : t.conOutstanding = s.conOutstanding
  conUnsent : t.conUnsent = s.conUnsent
  conLine : t.conLine = s.conLine
  buffer : t.buffer = s.buffer

/-- At most the blocks' records change, and the invariants are kept. -/
structure RecordsOnly (s t : State) : Prop extends RecordsFrame s t where
  keeps : Sound s → Sound t

/-- At most channels, links, notices and the store's claims and extents change. -/
structure ChannelOnly (s t : State) : Prop extends RecordsOnly s t where
  jobs : t.jobs = s.jobs
  segs : t.segs = s.segs
  segFree : t.segFree = s.segFree
  places : t.places = s.places
  cues : t.cues = s.cues
  cueFree : t.cueFree = s.cueFree
  takes : t.takes = s.takes
  takeFree : t.takeFree = s.takeFree
  ready : t.ready = s.ready
  readiness : t.readiness = s.readiness
  holds : t.holds = s.holds
  freeCount : t.freeCount = s.freeCount

/-- At most notices and the store's claims and extents change. -/
structure StoreOnly (s t : State) : Prop extends ChannelOnly s t where
  chans : t.chans = s.chans
  links : t.links = s.links

/-! ### Order -/

theorem RecordsOnly.refl (s : State) : RecordsOnly s s := ⟨by constructor <;> rfl, id⟩
theorem ChannelOnly.refl (s : State) : ChannelOnly s s := ⟨.refl s, rfl, rfl, rfl, rfl, rfl, rfl, rfl, rfl, rfl, rfl, rfl, rfl⟩
theorem StoreOnly.refl (s : State) : StoreOnly s s := ⟨.refl s, rfl, rfl⟩

theorem RecordsFrame.trans {s t u : State} (h : RecordsFrame s t) (k : RecordsFrame t u) : RecordsFrame s u :=
  ⟨k.1.trans h.1, k.2.trans h.2, k.3.trans h.3, k.4.trans h.4, k.5.trans h.5, k.6.trans h.6, k.7.trans h.7, k.8.trans h.8,
    k.9.trans h.9, k.10.trans h.10, k.11.trans h.11, k.12.trans h.12, k.13.trans h.13, k.14.trans h.14⟩

theorem RecordsOnly.trans {s t u : State} (h : RecordsOnly s t) (k : RecordsOnly t u) : RecordsOnly s u :=
  ⟨h.1.trans k.1, fun x => k.2 (h.2 x)⟩

theorem ChannelOnly.trans {s t u : State} (h : ChannelOnly s t) (k : ChannelOnly t u) : ChannelOnly s u :=
  ⟨h.1.trans k.1, k.2.trans h.2, k.3.trans h.3, k.4.trans h.4, k.5.trans h.5, k.6.trans h.6, k.7.trans h.7, k.8.trans h.8,
    k.9.trans h.9, k.10.trans h.10, k.11.trans h.11, k.12.trans h.12, k.13.trans h.13⟩

theorem StoreOnly.trans {s t u : State} (h : StoreOnly s t) (k : StoreOnly t u) : StoreOnly s u :=
  ⟨h.1.trans k.1, k.2.trans h.2, k.3.trans h.3⟩

/-- A fold of steps that each change at most the records changes at most the records. -/
theorem RecordsOnly.foldl {β : Type} (f : State → β → State) (hf : ∀ t x, RecordsOnly t (f t x)) :
    ∀ (l : List β) (s : State), RecordsOnly s (l.foldl f s) := by
  intro l
  induction l with
  | nil => exact RecordsOnly.refl
  | cons x l ih => intro s; exact (hf s x).trans (ih _)

theorem ChannelOnly.foldl {β : Type} (f : State → β → State) (hf : ∀ t x, ChannelOnly t (f t x)) :
    ∀ (l : List β) (s : State), ChannelOnly s (l.foldl f s) := by
  intro l
  induction l with
  | nil => exact ChannelOnly.refl
  | cons x l ih => intro s; exact (hf s x).trans (ih _)

theorem StoreOnly.foldl {β : Type} (f : State → β → State) (hf : ∀ t x, StoreOnly t (f t x)) :
    ∀ (l : List β) (s : State), StoreOnly s (l.foldl f s) := by
  intro l
  induction l with
  | nil => exact StoreOnly.refl
  | cons x l ih => intro s; exact (hf s x).trans (ih _)

namespace State

/-! ### Records and messages -/

theorem setJob_records (s : State) (i : Nat) (x : Job) : RecordsOnly s (s.setJob i x) :=
  ⟨by constructor <;> rfl, fun h => sound_setJob h i x⟩
theorem setSeg_records (s : State) (i : Nat) (x : Seg) : RecordsOnly s (s.setSeg i x) :=
  ⟨by constructor <;> rfl, fun h => sound_setSeg h i x⟩
theorem setCue_records (s : State) (i : Nat) (x : Cue) : RecordsOnly s (s.setCue i x) :=
  ⟨by constructor <;> rfl, fun h => sound_setCue h i x⟩
theorem setTake_records (s : State) (i : Nat) (x : Take) : RecordsOnly s (s.setTake i x) :=
  ⟨by constructor <;> rfl, fun h => sound_setTake h i x⟩
theorem setHold_records (s : State) (i : Nat) (x : Nat) : RecordsOnly s (s.setHold i x) :=
  ⟨by constructor <;> rfl, fun h => sound_setHold h i x⟩
theorem setPlacement_records (s : State) (i : Nat) (x : Placement) : RecordsOnly s (s.setPlacement i x) :=
  ⟨by constructor <;> rfl, fun h => sound_setPlacement h i x⟩
theorem setExt_store (s : State) (i : Nat) (x : Ext) : StoreOnly s (s.setExt i x) :=
  ⟨⟨⟨by constructor <;> rfl, fun h => sound_setExt h i x⟩, rfl, rfl, rfl, rfl, rfl, rfl, rfl, rfl, rfl, rfl, rfl, rfl⟩, rfl, rfl⟩
theorem setChan_channel (s : State) (i : Nat) (x : Channel) (k : ChanKept (s.chan i) x) : ChannelOnly s (s.setChan i x) :=
  ⟨⟨by constructor <;> rfl, fun h => sound_setChan h i x k⟩, rfl, rfl, rfl, rfl, rfl, rfl, rfl, rfl, rfl, rfl, rfl, rfl⟩

/-- A channel's notice slots written in order, with no suspension left over. -/
theorem setSlots_channel (s : State) (i : Nat) (x : Channel) (b : x.binding = (s.chan i).binding)
    (o : x.second.isSome = true → x.slot.isSome = true) (u : x.suspended = true → x.second.isSome = true) :
    ChannelOnly s (s.setChan i x) :=
  ⟨⟨by constructor <;> rfl, fun h => sound_setSlots h i x b o u⟩, rfl, rfl, rfl, rfl, rfl, rfl, rfl, rfl, rfl, rfl, rfl, rfl⟩
theorem setLink_channel (s : State) (i : Nat) (x : Link) (k : LinkKept (s.link i) x) : ChannelOnly s (s.setLink i x) :=
  ⟨⟨by constructor <;> rfl, fun h => sound_setLink h i x k⟩, rfl, rfl, rfl, rfl, rfl, rfl, rfl, rfl, rfl, rfl, rfl, rfl⟩

theorem updJob_records (s : State) (i : Nat) (f : Job → Job) : RecordsOnly s (s.updJob i f) := s.setJob_records i _
theorem updChan_channel (s : State) (i : Nat) (f : Channel → Channel)
    (k : ChanKept (s.chan i) (f (s.chan i)) := by
      refine ⟨rfl, rfl, rfl, fun h => ?_⟩; first | exact .inl h | exact .inr h | exact Bool.noConfusion h) :
    ChannelOnly s (s.updChan i f) := s.setChan_channel i _ k
theorem updLink_channel (s : State) (i : Nat) (f : Link → Link)
    (k : LinkKept (s.link i) (f (s.link i)) := by exact ⟨rfl, rfl⟩) : ChannelOnly s (s.updLink i f) :=
  s.setLink_channel i _ k
theorem updPlacement_records (s : State) (i : Nat) (f : Placement → Placement) : RecordsOnly s (s.updPlacement i f) :=
  s.setPlacement_records i _
theorem updSegBody_records (s : State) (i : Nat) (f : SegBody → SegBody) : RecordsOnly s (s.updSegBody i f) :=
  s.setSeg_records i _
theorem updCueBody_records (s : State) (i : Nat) (f : CueBody → CueBody) : RecordsOnly s (s.updCueBody i f) :=
  s.setCue_records i _
theorem updTakeBody_records (s : State) (i : Nat) (f : TakeBody → TakeBody) : RecordsOnly s (s.updTakeBody i f) :=
  s.setTake_records i _

theorem handOver_channel (s : State) (l : Nat) (m : LinkMsg) : ChannelOnly s (s.handOver l m) := by
  unfold handOver
  split
  · exact s.updLink_channel l _
  · exact .refl s

theorem raise_store (s : State) (n : ConsoleNotice) : StoreOnly s (s.raise n) := by
  have k := fun h : Sound s => sound_raise h n
  unfold raise at k ⊢
  split <;> rename_i c <;> simp only [c, if_true, if_false] at k <;> exact
    ⟨⟨⟨by constructor <;> rfl, k⟩, rfl, rfl, rfl, rfl, rfl, rfl, rfl, rfl, rfl, rfl, rfl, rfl⟩, rfl, rfl⟩

/-! ### The store -/

theorem startAccess_store (s : State) (c : Claim) (b : Nat) : StoreOnly s (s.startAccess c b) :=
  ⟨⟨⟨by constructor <;> rfl, id⟩, rfl, rfl, rfl, rfl, rfl, rfl, rfl, rfl, rfl, rfl, rfl, rfl⟩, rfl, rfl⟩

theorem grantNext_store (s : State) : StoreOnly s s.grantNext := by
  unfold grantNext
  split
  · exact .refl s
  · split
    · exact .refl s
    · dsimp only
      split <;> exact ⟨⟨⟨by constructor <;> rfl, id⟩, rfl, rfl, rfl, rfl, rfl, rfl, rfl, rfl, rfl, rfl, rfl, rfl⟩, rfl, rfl⟩

theorem endAccess_store (s : State) (a : Access) : StoreOnly s (s.endAccess a) := by
  have h : StoreOnly s { s with port := none } :=
    ⟨⟨⟨by constructor <;> rfl, id⟩, rfl, rfl, rfl, rfl, rfl, rfl, rfl, rfl, rfl, rfl, rfl, rfl⟩, rfl, rfl⟩
  unfold endAccess
  dsimp only
  split
  · exact h.trans (startAccess_store _ _ _)
  · exact h.trans (grantNext_store _)

theorem makeClaim_store (s : State) (c : Claim) : StoreOnly s (s.makeClaim c) := by
  have h : StoreOnly s { s with waiting := s.waiting ++ [c] } :=
    ⟨⟨⟨by constructor <;> rfl, id⟩, rfl, rfl, rfl, rfl, rfl, rfl, rfl, rfl, rfl, rfl, rfl, rfl⟩, rfl, rfl⟩
  unfold makeClaim
  dsimp only
  split
  · exact h.trans (grantNext_store _)
  · exact h

theorem withdraw_store (s : State) (ch : Nat) : StoreOnly s (s.withdraw ch) :=
  ⟨⟨⟨by constructor <;> rfl, id⟩, rfl, rfl, rfl, rfl, rfl, rfl, rfl, rfl, rfl, rfl, rfl, rfl⟩, rfl, rfl⟩

theorem withdrawWrite_store (s : State) (ch e f : Nat) : StoreOnly s (s.withdrawWrite ch e f) :=
  ⟨⟨⟨by constructor <;> rfl, id⟩, rfl, rfl, rfl, rfl, rfl, rfl, rfl, rfl, rfl, rfl, rfl, rfl⟩, rfl, rfl⟩

theorem testLow_store (s : State) : StoreOnly s s.testLow := by
  unfold testLow
  split
  · split
    · exact StoreOnly.trans (t := { s with lowArmed := false })
        ⟨⟨⟨by constructor <;> rfl, id⟩, rfl, rfl, rfl, rfl, rfl, rfl, rfl, rfl, rfl, rfl, rfl, rfl⟩, rfl, rfl⟩ (raise_store _ _)
    · exact .refl s
  · split
    · exact ⟨⟨⟨by constructor <;> rfl, id⟩, rfl, rfl, rfl, rfl, rfl, rfl, rfl, rfl, rfl, rfl, rfl, rfl⟩, rfl, rfl⟩
    · exact .refl s

theorem claimScrub_store (s : State) : StoreOnly s s.claimScrub := by
  unfold claimScrub
  split
  · exact .refl s
  · split
    · exact .refl s
    · exact makeClaim_store _ _

theorem abandonScrub_store (s : State) : StoreOnly s s.abandonScrub :=
  ⟨⟨⟨by constructor <;> rfl, id⟩, rfl, rfl, rfl, rfl, rfl, rfl, rfl, rfl, rfl, rfl, rfl, rfl⟩, rfl, rfl⟩

theorem leaveScrub_store (s : State) (e : Nat) : StoreOnly s (s.leaveScrub e) := by
  have step : ∀ t : State, StoreOnly t { t with scrubList := t.scrubList.erase e }.claimScrub := fun t =>
    StoreOnly.trans (t := { t with scrubList := t.scrubList.erase e })
      ⟨⟨⟨by constructor <;> rfl, id⟩, rfl, rfl, rfl, rfl, rfl, rfl, rfl, rfl, rfl, rfl, rfl, rfl⟩, rfl, rfl⟩ (claimScrub_store _)
  have left : StoreOnly s (if s.scrubList.idxOf e < s.formatLeft then { s with formatLeft := s.formatLeft - 1 } else s) := by
    split
    · exact ⟨⟨⟨by constructor <;> rfl, id⟩, rfl, rfl, rfl, rfl, rfl, rfl, rfl, rfl, rfl, rfl, rfl, rfl⟩, rfl, rfl⟩
    · exact .refl s
  have mid : ∀ t : State,
      StoreOnly t (if decide (s.scrubList.head? = some e) then t.abandonScrub else t) := fun t => by
    split
    · exact abandonScrub_store t
    · exact .refl t
  exact left.trans ((mid _).trans (step _))

theorem refUp_store (s : State) (e : Nat) : StoreOnly s (s.refUp e) := s.setExt_store e _

theorem dispose_store (s : State) (e : Nat) : StoreOnly s (s.dispose e) := by
  unfold dispose
  dsimp only
  split
  · split
    · exact StoreOnly.trans
        (t := { s.setExt e { s.ext e with state := .scrub } with scrubList := s.scrubList ++ [e] })
        ⟨⟨⟨by constructor <;> rfl, fun h => sound_setExt h e { s.ext e with state := .scrub }⟩, rfl, rfl, rfl, rfl, rfl, rfl, rfl, rfl, rfl, rfl, rfl, rfl⟩, rfl, rfl⟩
        (claimScrub_store _)
    · exact StoreOnly.trans
        (t := { s.setExt e { s.ext e with state := .free } with freeList := s.freeList ++ [e] })
        ⟨⟨⟨by constructor <;> rfl, fun h => sound_setExt h e { s.ext e with state := .free }⟩, rfl, rfl, rfl, rfl, rfl, rfl, rfl, rfl, rfl, rfl, rfl, rfl⟩, rfl, rfl⟩
        (testLow_store _)
  all_goals exact .refl s

theorem refDown_store (s : State) (e : Nat) : StoreOnly s (s.refDown e) := by
  unfold refDown
  dsimp only
  split
  · exact (s.setExt_store e _).trans (dispose_store _ _)
  · exact s.setExt_store e _

theorem allocate_store (s : State) {e : Nat} {t : State} (h : s.allocate = some (e, t)) : StoreOnly s t := by
  unfold allocate at h
  split at h
  · cases h
  · rename_i rest _
    cases h
    exact StoreOnly.trans (t := { s.setExt e { s.ext e with state := .inUse, refs := 1 } with freeList := rest })
      ⟨⟨⟨by constructor <;> rfl, fun h => sound_setExt h e { s.ext e with state := .inUse, refs := 1 }⟩, rfl, rfl, rfl, rfl, rfl, rfl, rfl, rfl, rfl, rfl, rfl, rfl⟩, rfl, rfl⟩ (testLow_store _)

theorem taintExt_store (s : State) (e : Nat) : StoreOnly s (s.taintExt e) := s.setExt_store e _

theorem markDamaged_store (s : State) (e : Nat) : StoreOnly s (s.markDamaged e) := by
  unfold markDamaged
  dsimp only
  split
  · exact StoreOnly.trans
      (t := { s.setExt e { s.ext e with state := .damaged } with
        freeList := (s.setExt e { s.ext e with state := .damaged }).freeList.erase e })
      ⟨⟨⟨by constructor <;> rfl, fun h => sound_setExt h e { s.ext e with state := .damaged }⟩, rfl, rfl, rfl, rfl, rfl, rfl, rfl, rfl, rfl, rfl, rfl, rfl⟩, rfl, rfl⟩ (testLow_store _)
  · exact (s.setExt_store e _).trans (leaveScrub_store _ _)
  all_goals exact s.setExt_store e _

/-! ### Channels and their notices -/

theorem stopStream_channel (s : State) (ch : Nat) : ChannelOnly s (s.stopStream ch) :=
  (s.withdraw_store ch).1.trans (updChan_channel _ _ _)

theorem suspend_channel (s : State) (ch : Nat) (k : (s.chan ch).second.isSome = true) : ChannelOnly s (s.suspend ch) :=
  (s.withdraw_store ch).1.trans (updChan_channel _ _ _ ⟨rfl, rfl, rfl, fun _ => .inr k⟩)

theorem sendNotice_channel (s : State) (n : Notice) : ChannelOnly s (s.sendNotice n) := by
  unfold sendNotice
  split
  · exact s.handOver_channel _ _
  · exact (s.raise_store _).1

theorem placeNotice_channel (s : State) (n : Notice) (b : Bool) : ChannelOnly s (s.placeNotice n b) := by
  have susp : Sound s → (s.chan n.chan).suspended = true → (s.chan n.chan).second.isSome = true := fun h => h.2.2.2.1 _
  unfold placeNotice
  dsimp only
  split
  · rename_i e
    refine ChannelOnly.trans (t := s.setChan n.chan { s.chan n.chan with slot := some n })
      ⟨⟨by constructor <;> rfl, fun h => ?_⟩, rfl, rfl, rfl, rfl, rfl, rfl, rfl, rfl, rfl, rfl, rfl, rfl⟩
      (sendNotice_channel _ _)
    exact sound_setSlots h _ _ rfl (fun _ => rfl) (susp h)
  · rename_i e f
    have k : ChannelOnly s (s.setChan n.chan { s.chan n.chan with second := some n }) :=
      s.setSlots_channel _ _ rfl (fun _ => by rw [e]; rfl) fun _ => rfl
    split
    · exact k.trans (suspend_channel _ _ (by rw [chan_setChan]; rfl))
    · exact k
  · rename_i e f
    exact s.setSlots_channel _ _ rfl (fun _ => by rw [e]; rfl) fun _ => rfl

theorem acknowledge_channel (s : State) (ch : Nat) : ChannelOnly s (s.acknowledge ch) := by
  unfold acknowledge
  dsimp only
  split
  · exact .refl s
  · rename_i e f
    refine ⟨⟨by constructor <;> rfl, fun h => ?_⟩, rfl, rfl, rfl, rfl, rfl, rfl, rfl, rfl, rfl, rfl, rfl, rfl⟩
    refine sound_setSlots h _ _ rfl (fun k => ?_) (h.2.2.2.1 _)
    have k' : (s.chan ch).second.isSome = true := k
    rw [f] at k'; exact Bool.noConfusion k'
  · rename_i n _ _
    refine ChannelOnly.trans
      (t := s.setChan ch { s.chan ch with slot := some n, second := none, suspended := false }) ?_ (sendNotice_channel _ _)
    exact s.setSlots_channel _ _ rfl (fun k => Bool.noConfusion k) fun k => Bool.noConfusion k

theorem emptySlots_channel (s : State) (ch : Nat) (k : (s.chan ch).suspended = false) :
    ChannelOnly s (s.emptySlots ch) :=
  s.setSlots_channel _ _ rfl (fun h => Bool.noConfusion h) fun h => by
    have h' : (s.chan ch).suspended = true := h
    rw [k] at h'; exact Bool.noConfusion h'

theorem updCapture_channel (s : State) (ch : Nat) (f : Capture → Capture) : ChannelOnly s (s.updCapture ch f) := by
  unfold updCapture
  split
  · exact .refl s
  · exact s.updChan_channel ch _

theorem updPlay_channel (s : State) (ch : Nat) (f : Play → Play) : ChannelOnly s (s.updPlay ch f) := by
  unfold updPlay
  split
  · exact .refl s
  · exact s.updChan_channel ch _

theorem updReadback_channel (s : State) (ch : Nat) (f : Readback → Readback) : ChannelOnly s (s.updReadback ch f) := by
  unfold updReadback
  split
  · exact .refl s
  · exact s.updChan_channel ch _

end State
end Sys2Proof.Machine
end

