-- ==== Sys2Proof/Laws/TouchRecords.lean ====
section
/-! SUPPORT. The operations that edit segments, cues, takes, captures and plays change at most the blocks' records. -/

set_option Elab.async false

namespace Sys2Proof.Machine
namespace State

/-! ### Edits -/

theorem newSeg_records (s : State) (b : SegBody) : RecordsOnly s (s.newSeg b).1 :=
  ⟨by constructor <;> rfl, fun h => sound_setSeg h s.lowestFreeSeg { s.seg s.lowestFreeSeg with body := some b }⟩

theorem freeSeg_records (s : State) (i : Nat) : RecordsOnly s (s.freeSeg i) := by
  have step : ∀ (t : State) (x : Seg) (n : Nat), RecordsOnly t { t.setSeg i x with segFree := n } := fun t x n =>
    ⟨by constructor <;> rfl, fun h => sound_setSeg h i x⟩
  unfold freeSeg
  split
  · exact .refl s
  · exact (s.refDown_store _).1.1.trans (step _ _ _)

theorem linkSeg_records (s : State) (j : Nat) (p : Option Nat) (i : Nat) : RecordsOnly s (s.linkSeg j p i) := by
  unfold linkSeg
  split
  · exact s.updJob_records _ _
  · exact s.updSegBody_records _ _

theorem mapCueAnchors_records (s : State) (f : Anchor → Anchor) : RecordsOnly s (s.mapCueAnchors f) :=
  ⟨by constructor <;> rfl, fun h => sound_mapCues h _⟩

theorem mapPoints_records (s : State) (f : Anchor → Anchor) : RecordsOnly s (s.mapPoints f) :=
  ⟨by constructor <;> rfl, fun h => sound_mapPoints h f⟩

theorem moveEndCues_records (s : State) (j : Nat) (a : Anchor) : RecordsOnly s (s.moveEndCues j a) :=
  ⟨by constructor <;> rfl, fun h => sound_mapCues h _⟩

theorem refreshParts_records (s : State) (j : Nat) : RecordsOnly s (s.refreshParts j) :=
  RecordsOnly.foldl _ (fun t _ => t.updSegBody_records _ _) _ _

theorem splitSeg_records (s : State) (i k : Nat) : RecordsOnly s (s.splitSeg i k) := by
  unfold splitSeg
  split
  · exact .refl s
  · dsimp only
    exact (s.newSeg_records _).trans ((updSegBody_records _ _ _).trans ((mapCueAnchors_records _ _).trans
      ((mapPoints_records _ _).trans ((refreshParts_records _ _).trans (refUp_store _ _).1.1))))

theorem splitAt_records (s : State) (j p : Nat) : RecordsOnly s (s.splitAt j p) := by
  unfold splitAt
  split
  · split
    · exact s.splitSeg_records _ _
    · exact .refl s
  · exact .refl s

theorem joinFrame_records (s : State) (j : Nat) (p : Option Nat) (e f c : Nat) {t : State} {a : Anchor}
    (h : s.joinFrame j p e f c = some (t, a)) : RecordsOnly s t := by
  have fresh : ∀ (next : Option Ref) {t : State} {a : Anchor},
      (if s.segFree = 0 then none
        else
          let (s1, i) := s.newSeg
            { job := s.jobRef j, extent := e, first := f, count := 1, next := next
              sealPart := if c = 0 then none else some c }
          let s2 := (s1.linkSeg j p i).refUp e
          let s3 := if c = 0 then s2 else s2.taintExt e
          some (s3.updJob j fun x => { x with length := x.length + 1 }, Anchor.frame (s3.segRef i) 0)) = some (t, a) →
      RecordsOnly s t := by
    intro next t a h
    split at h
    · cases h
    · dsimp only at h
      have k : RecordsOnly s (((s.newSeg
          { job := s.jobRef j, extent := e, first := f, count := 1, next := next
            sealPart := if c = 0 then none else some c }).1.linkSeg j p (s.newSeg
          { job := s.jobRef j, extent := e, first := f, count := 1, next := next
            sealPart := if c = 0 then none else some c }).2).refUp e) :=
        (newSeg_records _ _).trans ((linkSeg_records _ _ _ _).trans (refUp_store _ _).1.1)
      by_cases hc : c = 0
      · rw [if_pos hc] at h
        cases h
        exact k.trans (updJob_records _ _ _)
      · rw [if_neg hc] at h
        cases h
        exact k.trans ((taintExt_store _ _).1.1.trans (updJob_records _ _ _))
  unfold joinFrame at h
  dsimp only at h
  split at h
  · exact fresh _ h
  · split at h
    · exact fresh _ h
    · split at h
      · cases h
        exact (s.updSegBody_records _ _).trans (updJob_records _ _ _)
      · exact fresh _ h

theorem linkCues_records : ∀ (l : List Nat) (s : State), RecordsOnly s (linkCues l s) := by
  intro l
  induction l with
  | nil => exact RecordsOnly.refl
  | cons i l ih =>
    intro s
    cases l with
    | nil => exact s.updCueBody_records _ _
    | cons k l => exact (s.updCueBody_records _ _).trans (ih _)

theorem orderCues_records (s : State) (j : Nat) (l : List Nat) : RecordsOnly s (s.orderCues j l) :=
  (s.updJob_records _ _).trans (linkCues_records _ _)

theorem addCue_records (s : State) (j : Nat) (k : CueKind) (l : BitVec 16) (a : Anchor) (p : Placer) :
    RecordsOnly s (s.addCue j k l a p).1 := by
  unfold addCue
  dsimp only
  exact RecordsOnly.trans (t := { s.setCue s.lowestFreeCue
      { s.cue s.lowestFreeCue with
        body := some { job := s.jobRef j, kind := k, label := l, anchor := a, placer := p } }
    with cueFree := s.cueFree - 1 }) ⟨by constructor <;> rfl, fun h => sound_setCue h s.lowestFreeCue { s.cue s.lowestFreeCue with
        body := some { job := s.jobRef j, kind := k, label := l, anchor := a, placer := p } }⟩
    ((orderCues_records _ _ _).trans (refreshParts_records _ _))

theorem freeCue_records (s : State) (i : Nat) : RecordsOnly s (s.freeCue i) :=
  ⟨by constructor <;> rfl, fun h => sound_setCue h i { issue := (s.cue i).issue + 1, body := none }⟩

theorem unlinkCue_records (s : State) (i : Nat) : RecordsOnly s (s.unlinkCue i) := by
  unfold unlinkCue
  split
  · exact .refl s
  · exact (orderCues_records _ _ _).trans (refreshParts_records _ _)

theorem enterQueue_records (s : State) (t : Nat) : RecordsOnly s (s.enterQueue t) := by
  have step : ∀ (u : State) (r : List Nat), RecordsOnly u { u with ready := r } := fun u r =>
    ⟨by constructor <;> rfl, id⟩
  have fresh : ∀ c : Bool, RecordsOnly s (if c then
      { s.updTakeBody t fun b => { b with seq := some s.readiness } with readiness := s.readiness + 1 } else s) := by
    intro c
    split
    · exact ⟨by constructor <;> rfl, fun h => sound_setTake h t
        { s.take t with body := (s.take t).body.map fun b => { b with seq := some s.readiness } }⟩
    · exact .refl s
  unfold enterQueue
  split
  · exact .refl s
  · exact (fresh _).trans (step _ _)

theorem leaveQueue_records (s : State) (t : Nat) : RecordsOnly s (s.leaveQueue t) := ⟨by constructor <;> rfl, id⟩

theorem replaceQueued_records (s : State) (j : Nat) : RecordsOnly s (s.replaceQueued j) := by
  have step : ∀ (u : State) (r : List Nat), RecordsOnly u { u with ready := r } := fun u r =>
    ⟨by constructor <;> rfl, id⟩
  unfold replaceQueued
  exact (step s _).trans (RecordsOnly.foldl _ (fun t i => step t (t.insertByKey i t.ready)) _ _)

theorem newTake_records (s : State) (b : TakeBody) : RecordsOnly s (s.newTake b).1 :=
  ⟨by constructor <;> rfl, fun h => sound_setTake h s.lowestFreeTake { s.take s.lowestFreeTake with body := some b }⟩

theorem freeTake_records (s : State) (i : Nat) : RecordsOnly s (s.freeTake i) :=
  ⟨by constructor <;> rfl, fun h => sound_setTake h i { issue := (s.take i).issue + 1, body := none }⟩

theorem firstTake_records (s : State) (j : Nat) : RecordsOnly s (s.firstTake j) := by
  unfold firstTake
  dsimp only
  split
  · exact (s.newTake_records _).trans ((updJob_records _ _ _).trans (enterQueue_records _ _))
  · exact (s.newTake_records _).trans (updJob_records _ _ _)

theorem closeTake_records (s : State) (t : Nat) : RecordsOnly s (s.closeTake t) := by
  unfold closeTake
  split
  · exact .refl s
  · split
    · exact (s.updTakeBody_records _ _).trans (enterQueue_records _ _)
    · exact s.updTakeBody_records _ _
    all_goals exact .refl s

theorem linkNewTake_records (s : State) (j p : Nat) (b : TakeBody) : RecordsOnly s (s.linkNewTake j p b).1 := by
  unfold linkNewTake
  dsimp only
  exact (s.newTake_records b).trans ((updTakeBody_records _ _ _).trans (updJob_records _ _ _))

theorem headTake_records (s : State) (j c : Nat) : RecordsOnly s (s.headTake j c) := by
  unfold headTake
  split
  · exact .refl s
  · dsimp only
    split
    · exact (s.linkNewTake_records _ _ _).trans ((closeTake_records _ _).trans (enterQueue_records _ _))
    · exact (s.linkNewTake_records _ _ _).trans (closeTake_records _ _)

theorem splitTake_records (s : State) (j c q : Nat) : RecordsOnly s (s.splitTake j c q) := by
  unfold splitTake
  split
  · exact .refl s
  · dsimp only
    split
    · split
      · exact (s.linkNewTake_records _ _ _).trans ((updTakeBody_records _ _ _).trans
          ((closeTake_records _ _).trans (enterQueue_records _ _)))
      · exact (s.linkNewTake_records _ _ _).trans ((updTakeBody_records _ _ _).trans (closeTake_records _ _))
    · exact (s.linkNewTake_records _ _ _).trans ((updTakeBody_records _ _ _).trans (enterQueue_records _ _))
    all_goals exact (s.linkNewTake_records _ _ _).trans (updTakeBody_records _ _ _)

theorem mergeTakes_records (s : State) (j e f : Nat) : RecordsOnly s (s.mergeTakes j e f) := by
  unfold mergeTakes
  split
  · exact .refl s
  · rename_i fb _
    dsimp only
    have k : RecordsOnly s ((((s.leaveQueue f).updTakeBody e fun b => { b with next := fb.next }).updJob j fun x =>
        { x with takeCount := x.takeCount - 1 }).freeTake f) :=
      (s.leaveQueue_records f).trans ((updTakeBody_records _ _ _).trans ((updJob_records _ _ _).trans
        (freeTake_records _ _)))
    split
    · split
      · exact k.trans (updTakeBody_records _ _ _)
      · exact k.trans ((updTakeBody_records _ _ _).trans (leaveQueue_records _ _))
    all_goals exact k

theorem giveTake_records (s : State) (t p : Nat) : RecordsOnly s (s.giveTake t p) :=
  (s.leaveQueue_records t).trans ((updTakeBody_records _ _ _).trans (setHold_records _ _ _))

theorem writeResume_records (s : State) (t : Ref) (p : Nat) : RecordsOnly s (s.writeResume t p) :=
  s.updTakeBody_records _ _

theorem revokeOn_records (t : Ref) (b : Bool) (s : State) (ch : Nat) : RecordsOnly s (revokeOn t b s ch) := by
  unfold revokeOn
  split
  · exact .refl s
  · split
    · dsimp only
      split
      · exact (s.writeResume_records _ _).trans ((stopStream_channel _ _).1.trans (placeNotice_channel _ _ _).1)
      · exact (s.stopStream_channel _).1.trans (placeNotice_channel _ _ _).1
    · exact .refl s

theorem revokeLoaded_records (s : State) (t : Ref) (b : Bool) : RecordsOnly s (s.revokeLoaded t b) :=
  RecordsOnly.foldl _ (fun s ch => revokeOn_records t b s ch) _ _

theorem freeHolder_records (s : State) (l : Nat) (b : TakeBody) : RecordsOnly s (s.freeHolder l b) := by
  unfold freeHolder
  split
  · exact (s.setHold_records _ _).trans (revokeLoaded_records _ _ _)
  · exact .refl s

theorem unlinkLast_records (s : State) (j l : Nat) : RecordsOnly s (s.unlinkLast j l) := by
  unfold unlinkLast
  dsimp only
  refine RecordsOnly.trans ?_ (updJob_records _ _ _)
  split
  · exact s.updTakeBody_records _ _
  · exact s.updJob_records _ _

theorem freeStart_records (s : State) (b : TakeBody) : RecordsOnly s (s.freeStart b) := by
  unfold freeStart
  split
  · exact (s.unlinkCue_records _).trans (freeCue_records _ _)
  · exact .refl s

theorem closeLastTake_records (s : State) (j : Nat) : RecordsOnly s (s.closeLastTake j) := by
  unfold closeLastTake
  split
  · exact .refl s
  · split
    · exact s.closeTake_records _
    · exact (s.leaveQueue_records _).trans ((freeHolder_records _ _ _).trans ((unlinkLast_records _ _ _).trans
        ((freeStart_records _ _).trans (freeTake_records _ _))))

/-! ### Capture -/

theorem endCapture_records (s : State) (ch : Nat) : RecordsOnly s (s.endCapture ch) := by
  unfold endCapture
  split
  · exact .refl s
  · exact (s.withdraw_store ch).1.1.trans ((setPlacement_records _ _ _).trans ((updChan_channel _ _ _).1.trans
      (updJob_records _ _ _)))

theorem abnormalEnd_records (s : State) (ch : Nat) (c : Cause) : RecordsOnly s (s.abnormalEnd ch c) := by
  unfold abnormalEnd
  split
  · exact .refl s
  · exact (s.endCapture_records ch).trans ((placeNotice_channel _ _ _).1.trans (raise_store _ _).1.1)

theorem dropTail_records (s : State) (j : Nat) : RecordsOnly s (s.dropTail j) := by
  unfold dropTail
  split
  · exact .refl s
  · exact (s.updJob_records _ _).trans (refDown_store _ _).1.1

theorem dropTailIf_records (s : State) (j e : Nat) : RecordsOnly s (s.dropTailIf j e) := by
  unfold dropTailIf
  split
  · exact .refl s
  · split
    · exact s.dropTail_records j
    · exact .refl s

theorem dropFullTail_records (s : State) (j : Nat) : RecordsOnly s (s.dropFullTail j) := by
  unfold dropFullTail
  split
  · split
    · exact s.dropTail_records j
    · exact .refl s
  · exact .refl s

theorem reserveFill_records (s : State) (j : Nat) : RecordsOnly s (s.reserveFill j).1 := by
  unfold reserveFill
  split
  · dsimp only
    exact s.updJob_records j _
  · split
    · exact .refl s
    · rename_i h
      dsimp only
      exact (allocate_store s h).1.1.trans (updJob_records _ j _)

theorem newDest_records (s : State) (j : Nat) : RecordsOnly s (s.newDest j).1 :=
  (s.dropFullTail_records j).trans (reserveFill_records _ j)

theorem redestine_records (ch : Nat) (job : Ref) (e : Nat) :
    ∀ (es kept : List Entry) (s : State), RecordsOnly s (redestine ch job e kept es s) := by
  intro es
  induction es with
  | nil => intro kept s; exact s.updPlacement_records _ _
  | cons x es ih =>
    intro kept s
    simp only [redestine]
    split
    · have k := (s.withdrawWrite_store ch x.extent x.frame).1.1.trans
        (newDest_records (s.withdrawWrite ch x.extent x.frame) job.idx)
      split
      · rename_i h; rw [h] at k; exact k.trans (abnormalEnd_records _ _ _)
      · rename_i h; rw [h] at k; exact k.trans ((makeClaim_store _ _).1.1.trans (ih _ _))
    · exact ih _ _

theorem redestineFailed_records (s : State) (ch : Nat) (job : Ref) (e f : Nat) :
    RecordsOnly s (s.redestineFailed ch job e f) := redestine_records _ _ _ _ _ _

theorem loseTail_records (s : State) (e : Nat) : RecordsOnly s (s.loseTail e) := by
  unfold loseTail
  split
  · exact .refl s
  · dsimp only
    split
    · exact dropTail_records _ _
    · exact (dropTail_records _ _).trans (redestine_records _ _ _ _ _ _)

theorem damageByRead_records (s : State) (e : Nat) : RecordsOnly s (s.damageByRead e) := by
  unfold damageByRead
  split
  · exact .refl s
  · exact (s.markDamaged_store e).1.1.trans ((raise_store _ _).1.1.trans (loseTail_records _ _))

theorem presentFrame_records (s : State) (ch : Nat) (c : Capture) (d : Frame) :
    RecordsOnly s (s.presentFrame ch c d) := by
  unfold presentFrame
  dsimp only
  split
  · exact .refl s
  · split
    · exact s.abnormalEnd_records _ _
    · have k := s.newDest_records c.job.idx
      split
      · rename_i h; rw [h] at k; exact k.trans (abnormalEnd_records _ _ _)
      · rename_i h; rw [h] at k
        exact k.trans ((updPlacement_records _ _ _).trans (makeClaim_store _ _).1.1)

theorem placeHeadTake_records (s : State) (j : Nat) (l : BitVec 16) (p : Placer) :
    RecordsOnly s (s.placeHeadTake j l p).1 :=
  (s.addCue_records _ _ _ _ _).trans (headTake_records _ _ _)

theorem tryChain_records (s : State) (ch : Nat) (c : Capture) : RecordsOnly s (s.tryChain ch c).1 := by
  have step : ∀ l p, RecordsOnly s ((({ s with freeCount := s.freeCount + 1 }.placeHeadTake c.job.idx l p).1).updChan ch
      fun x => { x with chainAbort := false }) := fun l p =>
    RecordsOnly.trans (t := { s with freeCount := s.freeCount + 1 }) ⟨by constructor <;> rfl, id⟩
      ((placeHeadTake_records _ _ _ _).trans (updChan_channel _ _ _).1)
  unfold tryChain
  split
  · dsimp only
    exact (s.updChan_channel ch _).1
  · exact step _ _

theorem chainStep_records (s : State) (ch : Nat) (c : Capture) (m : Matrix) : RecordsOnly s (s.chainStep ch c m).1 := by
  unfold chainStep
  split
  · exact s.tryChain_records ch c
  · exact .refl s

theorem reloadStep_channel (s : State) (ch : Nat) (m : Matrix) : ChannelOnly s (s.reloadStep ch m) := by
  unfold reloadStep
  split
  · exact s.updCapture_channel ch _
  · exact .refl s

theorem stopStep_channel (s : State) (ch : Nat) (m : Matrix) : ChannelOnly s (s.stopStep ch m) := by
  unfold stopStep
  split
  · exact (s.updCapture_channel ch _).trans (updChan_channel _ ch _)
  · exact .refl s

theorem countNotice_channel (s : State) (ch : Nat) (c : Capture) (m : Matrix) (b : Bool) :
    ChannelOnly s (s.countNotice ch c m b) := by
  unfold countNotice
  dsimp only
  split
  · exact s.placeNotice_channel _ _
  · split
    · exact s.placeNotice_channel _ _
    · exact .refl s

theorem countEnd_records (s : State) (ch : Nat) : RecordsOnly s (s.countEnd ch) := by
  unfold countEnd
  split
  · exact .refl s
  · exact (s.chainStep_records _ _ _).trans ((reloadStep_channel _ _ _).1.trans ((stopStep_channel _ _ _).1.trans
      (countNotice_channel _ _ _ _ _).1))

theorem countPlaced_records (s : State) (ch : Nat) : RecordsOnly s (s.countPlaced ch) := by
  unfold countPlaced
  split
  · exact .refl s
  · split
    · exact .refl s
    · dsimp only
      split
      · exact (s.updCapture_channel _ _).1.trans (countEnd_records _ _)
      · exact (s.updCapture_channel _ _).1

theorem placeAppend_records (s : State) (c : Capture) (e : Entry) {t : State} (h : s.placeAppend c e = some t) :
    RecordsOnly s t := by
  unfold placeAppend at h
  dsimp only at h
  split at h
  · cases h
  · rename_i k
    cases h
    exact (joinFrame_records _ _ _ _ _ _ k).trans ((moveEndCues_records _ _ _).trans (refreshParts_records _ _))

theorem placeInsert_records (s : State) (c : Capture) (q : Ref) (e : Entry) {t : State} {a : Anchor}
    (h : s.placeInsert c q e = some (t, a)) : RecordsOnly s t := joinFrame_records _ _ _ _ _ _ h

theorem unlinkSeg_records (s : State) (j i : Nat) : RecordsOnly s (s.unlinkSeg j i) := by
  unfold unlinkSeg
  split
  · exact .refl s
  · split
    · exact s.updSegBody_records _ _
    · exact s.updJob_records _ _

theorem relinkMoved_records (s : State) (j : Nat) (d r : Anchor) (t : State) :
    RecordsOnly t (s.relinkMoved j d r t) := orderCues_records _ _ _

theorem dropFirst_records (s : State) (j : Nat) (q : Ref) (a : Anchor) : RecordsOnly s (s.dropFirst j q a) :=
  (s.updSegBody_records _ _).trans ((updJob_records _ _ _).trans ((mapCueAnchors_records _ _).trans
    (relinkMoved_records _ _ _ _ _)))

theorem retireEmpty_records (s : State) (j : Nat) (q : Ref) : RecordsOnly s (s.retireEmpty j q) := by
  unfold retireEmpty
  split
  · exact .refl s
  · split
    · exact (s.unlinkSeg_records _ _).trans ((freeSeg_records _ _).trans (mapPoints_records _ _))
    · exact .refl s

theorem placeOverwrite_records (s : State) (ch : Nat) (c : Capture) (q : Ref) (e : Entry) {t : State}
    (h : s.placeOverwrite ch c q e = some t) : RecordsOnly s t := by
  unfold placeOverwrite at h
  dsimp only at h
  split at h
  · cases h
  · rename_i k
    cases h
    exact (placeInsert_records _ _ _ _ k).trans ((updPlacement_records _ _ _).trans ((dropFirst_records _ _ _ _).trans
      ((retireEmpty_records _ _ _).trans (refreshParts_records _ _))))

theorem frozenPlacement_records (s : State) (ch : Nat) (c : Capture) : RecordsOnly s (s.frozenPlacement ch c) :=
  (s.withdraw_store ch).1.1.trans ((setPlacement_records _ _ _).trans ((updCapture_channel _ _ _).1.trans
    (placeNotice_channel _ _ _).1))

theorem turnOverwrite_records (s : State) (ch : Nat) (c : Capture) (m : CapMode) :
    RecordsOnly s (s.turnOverwrite ch c m) := by
  unfold turnOverwrite
  dsimp only
  split
  · exact (s.updPlacement_records _ _).trans ((updCapture_channel _ _ _).1.trans (placeNotice_channel _ _ _).1)
  · exact (s.updPlacement_records _ _).trans (updCapture_channel _ _ _).1

theorem settle_records (s : State) (ch : Nat) (o : Option State) (h : ∀ t, o = some t → RecordsOnly s t) :
    RecordsOnly s (s.settle ch o) := by
  cases o with
  | none => exact s.abnormalEnd_records _ _
  | some t => exact (h t rfl).trans (countPlaced_records _ _)

theorem placeAs_records (s : State) (ch : Nat) (c : Capture) (e : Entry) : RecordsOnly s (s.placeAs ch c e) := by
  have app := settle_records s ch (s.placeAppend c e) fun t h => placeAppend_records _ _ _ h
  unfold placeAs
  split
  · exact app
  · exact app
  · exact app
  · split
    · refine settle_records s ch _ fun t h => ?_
      rw [Option.map_eq_some_iff] at h
      obtain ⟨⟨u, a⟩, k, rfl⟩ := h
      exact placeInsert_records _ _ _ _ k
    · exact s.frozenPlacement_records _ _
  · split
    · exact settle_records s ch _ fun t h => placeOverwrite_records _ _ _ _ _ h
    · exact s.frozenPlacement_records _ _

theorem applyTurn_records (s : State) (ch : Nat) (c : Capture) (m : Option CapMode) :
    RecordsOnly s (s.applyTurn ch c m) := by
  cases m with
  | none => exact .refl s
  | some m => exact s.turnOverwrite_records ch c m

theorem placeHead_records (s : State) (ch : Nat) (e : Entry) : RecordsOnly s (s.placeHead ch e) := by
  unfold placeHead
  split
  · exact .refl s
  · rename_i c _
    dsimp only
    generalize (if e.mode = .overwrite then s.overwriteTurns c else none) = turns
    split
    · exact (s.updPlacement_records _ _).trans ((applyTurn_records _ _ _ _).trans (abnormalEnd_records _ _ _))
    · exact (s.updPlacement_records _ _).trans ((applyTurn_records _ _ _ _).trans (placeAs_records _ _ _ _))

theorem placeHeads_records (ch : Nat) : ∀ (n : Nat) (s : State), RecordsOnly s (placeHeads ch n s) := by
  intro n
  induction n with
  | zero => exact RecordsOnly.refl
  | succ n ih =>
    intro s
    simp only [placeHeads]
    split
    · split
      · exact (s.placeHead_records _ _).trans (ih _)
      · exact .refl s
    · exact .refl s

theorem markWritten_records (s : State) (ch e f : Nat) : RecordsOnly s (s.markWritten ch e f) :=
  s.updPlacement_records _ _

theorem startCapture_records (s : State) (ch : Nat) (j : Ref) : RecordsOnly s (s.startCapture ch j) :=
  (s.updChan_channel _ _).1.trans (setPlacement_records _ _ _)

/-! ### Play -/

theorem setPosition_channel (s : State) (ch p : Nat) : ChannelOnly s (s.setPosition ch p) :=
  (s.withdraw_store ch).1.trans ((updPlay_channel _ _ _).trans (updChan_channel _ _ _))

theorem backstep_channel (s : State) (ch : Nat) (p : Play) : ChannelOnly s (s.backstep ch p) :=
  (s.updChan_channel _ _).trans (updPlay_channel _ _ _)

theorem startPlay_channel (s : State) (ch : Nat) (p : Play) : ChannelOnly s (s.startPlay ch p) :=
  (s.backstep_channel _ _).trans (updPlay_channel _ _ _)

theorem pausePlay_channel (s : State) (ch : Nat) : ChannelOnly s (s.pausePlay ch) :=
  (s.withdraw_store ch).1.trans (updPlay_channel _ _ _)

theorem afterJump_channel (s : State) (ch : Nat) : ChannelOnly s (s.afterJump ch) := s.updPlay_channel _ _

theorem feedClaim_records (s : State) (ch : Nat) {t : State} {i : Nat} (h : s.feedClaim ch = some (t, i)) :
    RecordsOnly s t := by
  unfold feedClaim at h
  dsimp only at h
  split at h
  · cases h
  · split at h
    · cases h
    · cases h
      exact s.giveTake_records _ _

theorem chainInto_channel (s : State) (ch : Nat) (p : Play) (t : Nat) : ChannelOnly s (s.chainInto ch p t) := by
  unfold chainInto
  split
  · exact .refl s
  · exact (s.updPlay_channel _ _).trans (updChan_channel _ _ _)

theorem endChained_records (s : State) (ch : Nat) (p : Play) (t : Nat) (m : Matrix) :
    RecordsOnly s (s.endChained ch p t m) := by
  unfold endChained
  dsimp only
  split
  · exact (s.writeResume_records _ _).trans ((chainInto_channel _ _ _ _).1.trans (placeNotice_channel _ _ _).1)
  · exact (s.writeResume_records _ _).trans (chainInto_channel _ _ _ _).1

theorem endUnchained_channel (s : State) (ch : Nat) (p : Play) (m : Matrix) :
    ChannelOnly s (s.endUnchained ch p m) := by
  unfold endUnchained
  dsimp only
  split
  · exact (s.updPlay_channel _ _).trans ((updChan_channel _ _ _).trans (placeNotice_channel _ _ _))
  · split
    · exact (s.updPlay_channel _ _).trans ((updChan_channel _ _ _).trans (placeNotice_channel _ _ _))
    · exact (s.updPlay_channel _ _).trans (updChan_channel _ _ _)

theorem raiseEnd_records (s : State) (ch : Nat) : RecordsOnly s (s.raiseEnd ch) := by
  unfold raiseEnd
  split
  · exact .refl s
  · dsimp only
    split
    · rename_i h
      unfold tryFeed at h
      split at h
      · exact (s.feedClaim_records ch h).trans (endChained_records _ _ _ _ _)
      · cases h
    · exact (s.endUnchained_channel _ _ _).1

theorem atTakeEnd_records (s : State) (ch : Nat) : RecordsOnly s (s.atTakeEnd ch) := by
  unfold atTakeEnd
  split
  · exact .refl s
  · split
    · exact s.raiseEnd_records ch
    · exact (s.updPlay_channel _ _).1
    all_goals exact .refl s

theorem clearMatched_channel (s : State) (ch i : Nat) : ChannelOnly s (s.clearMatched ch i) := s.updPlay_channel _ _

theorem matchOutcome_channel (s : State) (ch c a : Nat) (m : Matrix) : ChannelOnly s (s.matchOutcome ch c a m) := by
  unfold matchOutcome
  split
  · exact .refl s
  · split
    · exact s.updPlay_channel ch _
    · exact s.updPlay_channel ch _

theorem takeMatch_channel (s : State) (ch c a : Nat) : ChannelOnly s (s.takeMatch ch c a) := by
  unfold takeMatch
  dsimp only
  split
  · exact (s.matchOutcome_channel _ _ _ _).trans (placeNotice_channel _ _ _)
  · exact s.matchOutcome_channel _ _ _ _

theorem crossAt_channel (s : State) (ch j a : Nat) (b : Bool) (r : Option Ref) : ChannelOnly s (s.crossAt ch j a b r) := by
  unfold crossAt
  split
  · exact s.updChan_channel ch _
  · exact .refl s

theorem passCues_channel (s : State) (ch : Nat) (p : Play) (a b : Nat) : ChannelOnly s (s.passCues ch p a b) := by
  unfold passCues
  split
  · exact (s.clearMatched_channel _ _).trans (takeMatch_channel _ _ _ _)
  · exact s.clearMatched_channel _ _

theorem testEnd_records (s : State) (ch : Nat) (h : Bool) (n : Nat) : RecordsOnly s (s.testEnd ch h n) := by
  unfold testEnd
  split
  · exact .refl s
  · split
    · exact .refl s
    · split
      · exact s.raiseEnd_records ch
      · split
        · exact s.atTakeEnd_records ch
        · exact .refl s

theorem frameSent_records (s : State) (ch : Nat) (prof : ProfId) (pace : Option Nat) (a b : Bool) (d : Frame) :
    RecordsOnly s (s.frameSent ch prof pace a b d) := by
  unfold frameSent
  split
  · exact .refl s
  · dsimp only
    exact (s.handOver_channel _ _).1.trans ((updPlay_channel _ _ _).1.trans ((crossAt_channel _ _ _ _ _ _).1.trans
      ((passCues_channel _ _ _ _ _).1.trans (testEnd_records _ _ _ _))))

theorem claimRead_store (s : State) (ch : Nat) (prof : ProfId) (b : SegBody) (o : Nat) :
    StoreOnly s (s.claimRead ch prof b o).1 := s.makeClaim_store _

theorem skipFrom_records (s : State) (ch : Nat) (p : Play) (a : Nat) : RecordsOnly s (s.skipFrom ch p a) := by
  unfold skipFrom
  split
  · exact (s.updPlay_channel _ _).1.trans (atTakeEnd_records _ _)
  · dsimp only
    exact (s.updPlay_channel _ _).1.trans ((updChan_channel _ _ _).1.trans ((clearMatched_channel _ _ _).1.trans
      ((updChan_channel _ _ _).1.trans ((claimRead_store _ _ _ _ _).1.1.trans (updPlay_channel _ _ _).1))))

theorem choose_records (s : State) (ch : Nat) (p : Play) : RecordsOnly s (s.choose ch p) := by
  unfold choose
  dsimp only
  split
  · exact .refl s
  · split
    · split
      · exact (s.updChan_channel _ _).1.trans (frameSent_records _ _ _ _ _ _ _)
      · exact (s.updChan_channel _ _).1.trans (skipFrom_records _ _ _ _)
    · exact (s.updChan_channel _ _).1.trans ((claimRead_store _ _ _ _ _).1.1.trans (updPlay_channel _ _ _).1)

theorem resumeCross_channel (s : State) (ch : Nat) (p : Play) : ChannelOnly s (s.resumeCross ch p) := by
  unfold resumeCross
  split
  · split
    · exact .refl s
    · exact s.updChan_channel _ _
  · exact .refl s

theorem playPeriod_records (s : State) (ch : Nat) (p : Play) : RecordsOnly s (s.playPeriod ch p) := by
  unfold playPeriod
  dsimp only
  split
  · split
    · exact .refl s
    · exact (s.setPosition_channel _ _).1
  · split
    · exact .refl s
    · split
      · exact s.atTakeEnd_records _
      · exact s.choose_records _ _
  · split
    · exact s.raiseEnd_records _
    · split
      · exact .refl s
      · exact (s.updPlay_channel _ _).1.trans ((resumeCross_channel _ _ _).1.trans (choose_records _ _ _))
    all_goals exact .refl s

theorem restoreCapture_channel (s : State) (ch : Nat) (r : Readback) (b : Bool) :
    ChannelOnly s (s.restoreCapture ch r b) := (s.withdraw_store ch).1.trans (updChan_channel _ _ _)

theorem readbackEnded_channel (s : State) (ch : Nat) (r : Readback) : ChannelOnly s (s.readbackEnded ch r) := by
  have k : ChannelOnly s ((s.restoreCapture ch r false).updChan ch fun c => { c with noContinuation := true }) :=
    (s.restoreCapture_channel _ _ _).trans (updChan_channel _ _ _)
  unfold readbackEnded
  dsimp only
  split
  · exact k.trans (placeNotice_channel _ _ _)
  · exact k

theorem readbackPeriod_channel (s : State) (ch : Nat) (r : Readback) : ChannelOnly s (s.readbackPeriod ch r) := by
  unfold readbackPeriod
  split
  · exact .refl s
  · split
    · exact s.readbackEnded_channel _ _
    · dsimp only
      exact (s.updChan_channel _ _).trans ((claimRead_store _ _ _ _ _).1.trans (updReadback_channel _ _ _))

theorem readbackSent_channel (s : State) (ch : Nat) (prof : ProfId) (pace : Option Nat) (a : Bool) (d : Frame) :
    ChannelOnly s (s.readbackSent ch prof pace a d) := by
  unfold readbackSent
  split
  · exact .refl s
  · dsimp only
    split
    · exact (s.handOver_channel _ _).trans ((updReadback_channel _ _ _).trans ((crossAt_channel _ _ _ _ _ _).trans
        (readbackEnded_channel _ _ _)))
    · exact (s.handOver_channel _ _).trans ((updReadback_channel _ _ _).trans (crossAt_channel _ _ _ _ _ _))

theorem dropPlay_records (s : State) (ch : Nat) : RecordsOnly s (s.dropPlay ch) := by
  unfold dropPlay
  split
  · exact .refl s
  · exact (s.writeResume_records _ _).trans (stopStream_channel _ _).1

theorem stopExport_records (s : State) (ch : Nat) : RecordsOnly s (s.stopExport ch) := by
  unfold stopExport
  split
  · exact .refl s
  · exact (s.stopStream_channel _).1.trans (updJob_records _ _ _)

theorem endExport_records (s : State) (ch : Nat) (c : Cause) (b : Bool) : RecordsOnly s (s.endExport ch c b) := by
  unfold endExport
  split
  · exact .refl s
  · dsimp only
    split
    · exact (s.stopExport_records _).trans (placeNotice_channel _ _ _).1
    · exact s.stopExport_records _

theorem testExportEnd_records (s : State) (ch : Nat) : RecordsOnly s (s.testExportEnd ch) := by
  unfold testExportEnd
  split
  · exact .refl s
  · split
    · exact s.endExport_records _ _ _
    · exact .refl s

theorem quiet_records (s : State) (ch : Nat) : RecordsOnly s (s.quiet ch) := by
  unfold quiet
  dsimp only
  refine RecordsOnly.trans ?_ (updChan_channel _ _ _).1
  split
  · exact .refl s
  · exact s.endCapture_records _
  · exact s.endCapture_records _
  · exact s.dropPlay_records _
  · exact s.stopExport_records _

end State
end Sys2Proof.Machine
end

