-- ==== Sys2Proof/Laws/Answers.lean ====
section
/-! SUPPORT. What the effect of each request keeps, said once: the queue of commands, every byte of the store, and the
invariants (`Stands`). -/

set_option Elab.async false

namespace Sys2Proof.Machine

/-- The queue of commands stands and the invariants are kept. -/
structure Kept (s t : State) : Prop where
  pending : t.pending = s.pending
  sound : Sound s → Sound t

/-- The queue of commands and every byte of the store stand, and the invariants are kept. -/
structure Stands (s t : State) : Prop extends Kept s t where
  mem : t.mem = s.mem

theorem Kept.refl (s : State) : Kept s s := ⟨rfl, id⟩
theorem Stands.refl (s : State) : Stands s s := ⟨.refl s, rfl⟩
theorem Kept.trans {s t u : State} (h : Kept s t) (k : Kept t u) : Kept s u :=
  ⟨k.1.trans h.1, fun x => k.2 (h.2 x)⟩
theorem Stands.trans {s t u : State} (h : Stands s t) (k : Stands t u) : Stands s u :=
  ⟨h.1.trans k.1, k.2.trans h.2⟩

theorem RecordsOnly.stands {s t : State} (h : RecordsOnly s t) : Stands s t := ⟨⟨h.pending, h.keeps⟩, h.mem⟩
theorem ChannelOnly.stands {s t : State} (h : ChannelOnly s t) : Stands s t := h.1.stands
theorem StoreOnly.stands {s t : State} (h : StoreOnly s t) : Stands s t := h.1.stands

theorem Stands.foldl {β : Type} (f : State → β → State) (hf : ∀ t x, Stands t (f t x)) :
    ∀ (l : List β) (s : State), Stands s (l.foldl f s) := by
  intro l
  induction l with
  | nil => exact Stands.refl
  | cons x l ih => intro s; exact (hf s x).trans (ih _)

/-! ### Taking a request -/

namespace State

theorem handConsole_stands (s : State) (m : ConsoleMsg) : Stands s (s.handConsole m) := ⟨⟨rfl, id⟩, rfl⟩

theorem reply_stands (s : State) (p : Port) (r : Request) (tag : Byte) (c : ReplyCode) (res : Result) :
    Stands s (s.reply p r tag c res) := by
  cases p with
  | console => exact ⟨⟨rfl, id⟩, rfl⟩
  | station l => exact ((s.updLink_channel _ _).trans (handOver_channel _ _ _)).stands

end State

theorem finish_stands {s : State} (p : Port) (r : Request) (tag : Byte) (a : Ans) (h : Stands s a.state) :
    Stands s (finish p r tag a) := by
  unfold finish
  dsimp only
  split
  · exact h.trans (State.reply_stands _ _ _ _ _ _)
  · exact (h.trans (State.reply_stands _ _ _ _ _ _)).trans (State.placeNotice_channel _ _ _).stands

/-- Everything the taking of a request can do: nothing when it is not routed, otherwise the owner's answer handed back. -/
theorem serve_eq (p : Port) (r : Request) (s : State) (owner : Party → State → Ans) :
    (s.routed p r = none ∧ serve p r s owner = .next s) ∨
      ∃ party tag, s.routed p r = some (party, tag) ∧ serve p r s owner = .next (finish p r tag (owner party s)) := by
  unfold serve
  cases h : s.routed p r with
  | none => exact .inl ⟨rfl, rfl⟩
  | some x => exact .inr ⟨x.1, x.2, rfl, rfl⟩

/-- A request whose owner's answer stands for every party answers a next state that stands. -/
theorem serve_stands (p : Port) (r : Request) (s : State) (owner : Party → State → Ans)
    (h : ∀ party, Stands s (owner party s).state) : ∃ t, serve p r s owner = .next t ∧ Stands s t := by
  rcases serve_eq p r s owner with ⟨_, e⟩ | ⟨party, tag, _, e⟩
  · exact ⟨s, e, .refl s⟩
  · exact ⟨_, e, finish_stands _ _ _ _ (h party)⟩

/-- A request judged by checks: refused with no change, or carried out with every check passed. -/
theorem checked_stands (s : State) (checks : List (Bool × ReplyCode)) (taken : Ans)
    (h : firstFailing checks = none → Stands s taken.state) : Stands s (checked s checks taken).state := by
  unfold checked
  split
  · exact .refl s
  · rename_i e; exact h e

/-- The first check of a list that all pass does not fail, and the rest pass. -/
theorem firstFailing_none {b : Bool} {c : ReplyCode} {rest : List (Bool × ReplyCode)}
    (h : firstFailing ((b, c) :: rest) = none) : b = false ∧ firstFailing rest = none := by
  cases b
  · exact ⟨rfl, h⟩
  · cases h

namespace State

/-! ### Jobs -/

theorem setJob_stands (s : State) (i : Nat) (x : Job) : Stands s (s.setJob i x) := (s.setJob_records i x).stands
theorem updJob_stands (s : State) (i : Nat) (f : Job → Job) : Stands s (s.updJob i f) := s.setJob_stands i _

end State

open State

theorem openedJob_stands (s : State) (l p : Nat) (d : BitVec 32) (c : Nat) (due : BitVec 16) :
    Stands s (openedJob s l p d c due).state :=
  (s.setJob_stands _ _).trans (((firstTake_records _ _).trans (startCapture_records _ _ _)).stands)

theorem createdJob_stands (s : State) (p : Nat) (d : BitVec 32) (c : Nat) (due : BitVec 16) (f : Nat) :
    Stands s (createdJob s p d c due f).state := (s.setJob_stands _ _).trans (firstTake_records _ _).stands

theorem attachedJob_stands (s : State) (l : Nat) (r : Ref) : Stands s (attachedJob s l r).state :=
  (s.updJob_stands _ _).trans (startCapture_records _ _ _).stands

theorem releaseChannel_stands (s : State) (j : Nat) : Stands s (s.releaseChannel j) := by
  unfold releaseChannel
  split
  · exact .refl s
  · exact (s.endCapture_records _).stands

theorem detachedJob_stands (s : State) (r : Ref) : Stands s (detachedJob s r).state := by
  unfold detachedJob
  dsimp only [done]
  exact (releaseChannel_stands s _).trans (updJob_stands _ _ _)

theorem releaseForClose_stands (s : State) (p : Party) (r : Ref) : Stands s (s.releaseForClose p r) := by
  unfold releaseForClose
  split
  · split
    · exact (s.endCapture_records _).stands.trans (placeNotice_channel _ _ _).stands
    · exact (s.endCapture_records _).stands
  · exact .refl s

theorem closeState_stands (s : State) (r : Ref) : Stands s (s.closeState r) := by
  unfold closeState
  split
  · exact (s.updJob_stands _ _).trans (raise_store _ _).stands
  · exact s.updJob_stands _ _

theorem closedDictation_stands (s : State) (p : Party) (r : Ref) : Stands s (closedDictation s p r).state :=
  (releaseForClose_stands s p r).trans ((closeLastTake_records _ _).stands.trans ((dropTail_records _ _).stands.trans
    (closeState_stands _ _)))

theorem applyFollow_stands (s : State) (j : Nat) : Stands s (s.applyFollow j) := by
  unfold applyFollow
  split
  · exact .refl s
  · split
    · exact (s.enterQueue_records _).stands
    · exact (s.leaveQueue_records _).stands

theorem setAttributes_stands (s : State) (r : Ref) (a : JobAttrs) : Stands s (setAttributes s r a).state := by
  have first : Stands s (s.setJob r.idx (writeAttrs a (s.job r.idx))) := s.setJob_stands _ _
  have mid : ∀ (p : Prop) [Decidable p] (t : State), Stands t (if p then t.replaceQueued r.idx else t) := by
    intro p _ t
    split
    · exact (t.replaceQueued_records _).stands
    · exact .refl t
  have last : ∀ (p : Prop) [Decidable p] (t : State), Stands t (if p then t.applyFollow r.idx else t) := by
    intro p _ t
    split
    · exact applyFollow_stands t _
    · exact .refl t
  exact first.trans ((mid _ _).trans (last _ _))

theorem foundJob_stands (s : State) (p : Party) (n : Nat) (a b : JobKey) : Stands s (foundJob s p n a b).state := by
  unfold foundJob
  split <;> exact .refl s

theorem heldJob_stands (s : State) (r : Ref) : Stands s (heldJob s r).state := by
  unfold heldJob
  dsimp only [done]
  split
  · split
    · exact (s.updJob_stands _ _).trans (endExport_records _ _ _ _).stands
    · exact (s.updJob_stands _ _).trans (updJob_stands _ _ _)
  · exact s.updJob_stands _ _

theorem releasedJob_stands (s : State) (p : Party) (r : Ref) : Stands s (releasedJob s p r).state := by
  unfold releasedJob
  split
  · dsimp only [done]
    exact s.updJob_stands r.idx _
  · exact ⟨⟨rfl, fun h => sound_setJob h r.idx { s.job r.idx with
      state := .retiring, release := none, sweep := some { phase := .segments, freed := 0 } }⟩, rfl⟩

/-! ### Maps -/

theorem splitIf_records (s : State) (j p : Nat) (e : RangeEdit) : RecordsOnly s (s.splitIf j p e) := by
  unfold splitIf
  split
  · exact s.splitAt_records _ _
  · exact .refl s

theorem writeRange_records (s : State) (j a b : Nat) (e : RangeEdit) : RecordsOnly s (s.writeRange j a b e) :=
  (splitIf_records s _ _ _).trans ((splitIf_records _ _ _ _).trans
    (RecordsOnly.foldl (β := Nat × SegBody) _ (fun t x => t.updSegBody_records x.1 e.write) _ _))

theorem withdrawWaitingRead_channel (r : Ref) (s : State) (ch : Nat) : ChannelOnly s (withdrawWaitingRead r s ch) := by
  unfold withdrawWaitingRead
  split
  · split
    · exact (s.withdraw_store _).1.trans (updPlay_channel _ _ _)
    · exact .refl s
  · split
    · exact (s.withdraw_store _).1.trans (updReadback_channel _ _ _)
    · exact .refl s
  · exact .refl s
  · exact .refl s
  · exact .refl s

theorem sealedRange_stands (s : State) (r : Ref) (a b c : Nat) : Stands s (sealedRange s r a b c).state := by
  have mid : ∀ t : State, RecordsOnly t
      (if c = 0 then t else (t.segsWithin r.idx a b).foldl (fun t x => t.taintExt x.2.extent) t) := by
    intro t
    split
    · exact .refl t
    · exact RecordsOnly.foldl (β := Nat × SegBody) _ (fun t x => (t.taintExt_store x.2.extent).1.1) _ _
  unfold sealedRange
  dsimp only [done]
  exact ((writeRange_records s _ _ _ _).trans ((mid _).trans
    (ChannelOnly.foldl _ (withdrawWaitingRead_channel r) _ _).1)).stands

theorem pacedRange_stands (s : State) (r : Ref) (a b : Nat) (p : Option Nat) : Stands s (pacedRange s r a b p).state :=
  (writeRange_records s _ _ _ _).stands

/-! ### Cues -/

theorem takeChange_records (s : State) (f : Place) (c : Option Nat) (i : Nat) : RecordsOnly s (s.takeChange f c i) := by
  unfold takeChange
  split
  · exact s.splitTake_records _ _ _
  · exact s.headTake_records _ _
  · exact .refl s

theorem placedCue_stands (s : State) (p : Party) (k : Nat) (l : BitVec 16) (f : Place) :
    Stands s (placedCue s p k l f).state := by
  unfold placedCue
  split
  · exact .refl s
  · dsimp only [done]
    split
    · exact ((s.addCue_records _ _ _ _ _).trans (takeChange_records _ _ _ _)).stands
    · exact (s.addCue_records _ _ _ _ _).stands

theorem removedCue_stands (s : State) (r : Ref) : Stands s (removedCue s r).state := by
  have mid : ∀ (o : Option ((Nat × TakeBody) × (Nat × TakeBody))) (t : State),
      RecordsOnly t (match o with
        | some ((e, _), (f, _)) => t.mergeTakes (s.cueJob r.idx) e f
        | none => t) := by
    intro o t
    split
    · exact t.mergeTakes_records _ _ _
    · exact .refl t
  exact ((s.unlinkCue_records _).trans ((mid _ _).trans (freeCue_records _ _))).stands

theorem cueRead_state (s : State) (p : Party) (r : Ref) : (cueRead s p r).state = s := by
  unfold cueRead
  split <;> rfl

theorem cueAnswer_state (s : State) (p : Party) (b : Bound) (f : Option (Nat × CueBody × Nat)) :
    (cueAnswer s p b f).state = s := by
  unfold cueAnswer
  split <;> rfl

/-- A check list over an answer that changes nothing changes nothing. -/
theorem checked_state (s : State) (checks : List (Bool × ReplyCode)) (taken : Ans) (h : taken.state = s) :
    (checked s checks taken).state = s := by
  unfold checked
  split
  · rfl
  · exact h

theorem cueAtAnswer_state (s : State) (p : Party) (a : Option (Ref × Nat)) : (cueAtAnswer s p a).state = s := by
  unfold cueAtAnswer
  split
  · rfl
  · exact cueAnswer_state _ _ _ _

theorem lastCueAnswer_state (s : State) (p : Party) (r : Ref) : (lastCueAnswer s p r).state = s := by
  unfold lastCueAnswer
  split
  · split
    · rfl
    · exact checked_state _ _ _ (cueAnswer_state _ _ _ _)
  · exact checked_state _ _ _ (cueAnswer_state _ _ _ _)

theorem findCueAnswer_state (s : State) (p : Party) (a : Option (Ref × Nat)) (d : Nat) (x m : BitVec 20)
    (st : Option Ref) : (findCueAnswer s p a d x m st).state = s := by
  unfold findCueAnswer
  cases st <;> dsimp only <;> split
  · rfl
  · split
    · rfl
    · exact checked_state s _ _ (cueAnswer_state s _ _ _)
  · rfl
  · split
    · rfl
    · exact checked_state s _ _ (cueAnswer_state s _ _ _)

/-! ### Takes -/

theorem claimedNext_stands (s : State) (p : Nat) (e : BitVec 3) : Stands s (claimedNext s p e).state := by
  unfold claimedNext
  split
  · exact .refl s
  · exact (s.giveTake_records _ _).stands

theorem returnedTake_stands (s : State) (r : Ref) (p : Nat) : Stands s (returnedTake s r p).state := by
  have k : RecordsOnly s ((s.updTakeBody r.idx fun b => { b with state := .returned, resume := none }).setHold p
      (s.hold p - 1)) := (s.updTakeBody_records _ _).trans (setHold_records _ _ _)
  unfold returnedTake
  dsimp only [done]
  generalize (s.updTakeBody r.idx fun b => { b with state := .returned, resume := none }).setHold p
      (s.hold p - 1) = u at k ⊢
  split
  · exact k.stands.trans ⟨⟨rfl, id⟩, rfl⟩
  · exact k.stands

theorem revokedTake_stands (s : State) (r : Ref) : Stands s (revokedTake s r).state := by
  have mid : ∀ (p : Prop) [Decidable p] (t : State), RecordsOnly t (if p then t.enterQueue r.idx else t) := by
    intro p _ t
    split
    · exact t.enterQueue_records _
    · exact .refl t
  unfold revokedTake
  dsimp only [done]
  exact ((s.setHold_records _ _).trans ((updTakeBody_records _ _ _).trans ((mid _ _).trans
    (revokeLoaded_records _ _ _)))).stands

theorem reworkedTake_stands (s : State) (r : Ref) (p : Option Nat) : Stands s (reworkedTake s r p).state := by
  unfold reworkedTake
  dsimp only
  split
  · exact ((s.updTakeBody_records _ _).trans ((enterQueue_records _ _).trans (updJob_records _ _ _))).stands
  · exact ((s.updTakeBody_records _ _).trans ((setHold_records _ _ _).trans (updJob_records _ _ _))).stands

theorem queueEntryAt_state (s : State) (n : Nat) : (queueEntryAt s n).state = s := by
  unfold queueEntryAt
  split <;> rfl

theorem segmentRead_state (s : State) (r : Ref) : (segmentRead s r).state = s := by
  unfold segmentRead
  split <;> rfl

/-! ### Store -/

theorem mappedBanks_stands (s : State) (b : BankMap) : Stands s (mappedBanks s b).state :=
  ⟨⟨rfl, fun h => sound_mapExts h _ _⟩, rfl⟩

theorem formattedStore_stands (s : State) : Stands s (formattedStore s).state := by
  have emptied : Stands s { s.abandonScrub with freeList := [], scrubList := [] } :=
    s.abandonScrub_store.stands.trans ⟨⟨rfl, id⟩, rfl⟩
  have placed : ∀ (t : State) (l : List Nat),
      Stands t { t with
        exts := Table.mapFrom {} (formattedExt s.bank) Config.extents 0 t.exts
        scrubList := l, formatLeft := l.length, formatted := true } := fun t l =>
    ⟨⟨rfl, fun h => sound_mapExts h (formattedExt s.bank) Config.extents⟩, rfl⟩
  unfold formattedStore
  dsimp only [done]
  exact emptied.trans ((testLow_store _).stands.trans ((placed _ _).trans (claimScrub_store _).stands))

theorem thresholdSet_stands (s : State) (n : Nat) : Stands s (thresholdSet s n).state :=
  Stands.trans (t := { s with threshold := n }) ⟨⟨rfl, id⟩, rfl⟩ (testLow_store _).stands

/-! ### Capture -/

theorem clearNoContinuation_channel (s : State) (ch : Nat) : ChannelOnly s (s.clearNoContinuation ch) :=
  s.updChan_channel ch _

theorem capturedMode_stands (s : State) (ch : Nat) (j : Ref) (m : ModeRequest) : Stands s (capturedMode s ch j m).state := by
  have clear : ∀ t : State,
      RecordsOnly t ((t.updPlacement ch fun p => { p with runStart := none }).clearNoContinuation ch) := fun t =>
    (t.updPlacement_records _ _).trans (clearNoContinuation_channel _ _).1
  unfold capturedMode
  dsimp only
  split
  · exact ((s.updCapture_channel _ _).1.trans (clear _)).stands
  · exact ((s.splitAt_records _ _).trans ((updCapture_channel _ _ _).1.trans (clear _))).stands

theorem setModeAnswer_stands (s : State) (ch : Nat) (m : ModeRequest) : Stands s (setModeAnswer s ch m).state := by
  unfold setModeAnswer
  split
  · exact checked_stands _ _ _ fun _ => .refl s
  · exact checked_stands _ _ _ fun _ => capturedMode_stands _ _ _ _

theorem sealModeSet_stands (s : State) (ch c : Nat) : Stands s (sealModeSet s ch c).state := by
  unfold sealModeSet
  dsimp only [done]
  exact ((s.updCapture_channel _ _).trans (clearNoContinuation_channel _ _)).stands

theorem setupCapture_stands (s : State) (ch a b : Nat) (r c n : Bool) : Stands s (setupCapture s ch a b r c n).state := by
  unfold setupCapture
  dsimp only [done]
  exact ((s.updCapture_channel _ _).trans (updChan_channel _ _ _)).stands

theorem recordAnswer_stands (s : State) (ch : Nat) : Stands s (recordAnswer s ch).state := by
  unfold recordAnswer
  split
  · exact checked_stands _ _ _ fun _ => ((clearNoContinuation_channel s ch).trans (updCapture_channel _ _ _)).stands
  · exact checked_stands _ _ _ fun _ => ((s.restoreCapture_channel _ _ _).trans (clearNoContinuation_channel _ _)).stands
  · exact .refl s
  · exact .refl s
  · exact .refl s

theorem pauseAnswer_stands (s : State) (ch : Nat) : Stands s (pauseAnswer s ch).state := by
  unfold pauseAnswer
  split
  · exact checked_stands _ _ _ fun _ => (s.updCapture_channel _ _).stands
  · exact checked_stands _ _ _ fun _ => (s.pausePlay_channel _).stands
  all_goals exact .refl s

theorem startedReadback_stands (s : State) (ch : Nat) (c : Capture) (l : BitVec 16) (st : CueOrPos) :
    Stands s (startedReadback s ch c l st).state := by
  unfold startedReadback
  dsimp only [done]
  exact ((s.addCue_records _ _ _ _ _).trans ((updPlacement_records _ _ _).trans (updChan_channel _ _ _).1)).stands

theorem readbackAnswer_stands (s : State) (ch : Nat) (l : BitVec 16) (st : CueOrPos) :
    Stands s (readbackAnswer s ch l st).state := by
  unfold readbackAnswer
  split
  · exact .refl s
  · exact checked_stands _ _ _ fun _ => startedReadback_stands _ _ _ _ _

theorem readbackEndAnswer_stands (s : State) (ch : Nat) : Stands s (readbackEndAnswer s ch).state := by
  unfold readbackEndAnswer
  split
  · exact .refl s
  · exact (s.restoreCapture_channel _ _ _).stands

/-! ### Play -/

theorem loadedTake_stands (s : State) (ch : Nat) (r : Ref) : Stands s (loadedTake s ch r).state := by
  unfold loadedTake
  dsimp only [done]
  exact (s.updChan_channel ch _).stands

theorem playAnswer_stands (s : State) (ch : Nat) : Stands s (playAnswer s ch).state := by
  unfold playAnswer
  split
  · exact .refl s
  · exact checked_stands _ _ _ fun _ => (s.startPlay_channel _ _).stands

theorem haltAnswer_stands (s : State) (ch : Nat) : Stands s (haltAnswer s ch).state := by
  unfold haltAnswer
  split
  · exact .refl s
  · exact (s.dropPlay_records _).stands

theorem moveAnswer_stands (s : State) (ch : Nat) (d : Shuttle) (n : Nat) : Stands s (moveAnswer s ch d n).state := by
  unfold moveAnswer
  split
  · exact .refl s
  · exact ((s.setPosition_channel _ _).trans (updPlay_channel _ _ _)).stands

theorem jumpAnswer_stands (s : State) (ch : Nat) (t : CueOrPos) : Stands s (jumpAnswer s ch t).state := by
  unfold jumpAnswer
  split
  · exact .refl s
  · exact checked_stands _ _ _ fun _ =>
      ((s.updPlay_channel _ _).trans ((setPosition_channel _ _ _).trans (afterJump_channel _ _))).stands

theorem returnAnswer_stands (s : State) (ch : Nat) : Stands s (returnAnswer s ch).state := by
  unfold returnAnswer
  split
  · exact .refl s
  · split
    · exact .refl s
    · exact ((s.updPlay_channel _ _).trans ((setPosition_channel _ _ _).trans (afterJump_channel _ _))).stands

theorem playSetUp_stands (s : State) (ch : Nat) (d : PlaySetup) : Stands s (playSetUp s ch d).state := by
  unfold playSetUp
  dsimp only [done]
  split
  · exact ((s.updPlay_channel _ _).trans ((updChan_channel _ _ _).trans ((setPosition_channel _ _ _).trans
      (afterJump_channel _ _)))).stands
  · exact ((s.updPlay_channel _ _).trans (updChan_channel _ _ _)).stands

theorem playSetupAnswer_stands (s : State) (ch : Nat) (d : PlaySetup) : Stands s (playSetupAnswer s ch d).state := by
  unfold playSetupAnswer
  split
  · exact .refl s
  · exact checked_stands _ _ _ fun _ => playSetUp_stands _ _ _

theorem profileSet_stands (s : State) (ch a b : Nat) (f : ProfileFields) : Stands s (profileSet s ch a b f).state := by
  unfold profileSet
  dsimp only [done]
  refine (s.updChan_channel ch _ ?_).stands
  split <;> exact ⟨rfl, rfl, rfl, .inl⟩

/-! ### Channels and links -/

theorem timeoutSet_stands (s : State) (ch n : Nat) : Stands s (timeoutSet s ch n).state := by
  unfold timeoutSet
  dsimp only [done]
  exact (s.updChan_channel ch fun c => { c with timeout := n }).stands

theorem startedExport_stands (s : State) (r : Ref) (ch a b : Nat) : Stands s (startedExport s r ch a b).state := by
  unfold startedExport
  dsimp only
  split
  · dsimp only [done]
    exact ((s.updJob_records _ _).trans ((updChan_channel _ _ _).1.trans ((updChan_channel _ _ _).1.trans
      (testExportEnd_records _ _)))).stands
  · dsimp only [done]
    exact ((s.updJob_records _ _).trans (updChan_channel _ _ _).1).stands

theorem maskSet_stands (s : State) (l : Nat) (b : Bool) : Stands s (maskSet s l b).state := by
  unfold maskSet
  dsimp only [done]
  split
  · exact ((s.updLink_channel l _).trans (updPlay_channel _ _ _)).stands
  · exact (s.updLink_channel l _).stands

/-- A channel that is IDLE bound to a link, or to BULK with a VACANT link, keeps the invariants. -/
theorem boundChannel_stands (s : State) (ch : Nat) (b : Binding) (idle : (s.chan ch).isIdle = true)
    (ok : b = .bulk → (ch = 14 ∨ ch = 15) ∧ (s.link ch).role = .vacant) : Stands s (boundChannel s ch b).state := by
  refine ⟨⟨rfl, fun h => ?_⟩, rfl⟩
  have unsus : (s.chan ch).suspended = false := by
    unfold Channel.isIdle at idle
    cases k : (s.chan ch).suspended
    · rfl
    · rw [k] at idle; simp at idle
  obtain ⟨h1, h2, h3, h4, h5, h6⟩ := h
  have e : ∀ c, (boundChannel s ch b).state.chan c =
      if c = ch then { s.chan ch with binding := b, slot := none, second := none } else s.chan c := by
    intro c
    show ((s.updChan ch fun c => { c with binding := b }).emptySlots ch).chan c = _
    unfold emptySlots updChan
    by_cases k : c = ch
    · subst k; simp
    · rw [chan_setChan_ne _ _ _ _ k, chan_setChan_ne _ _ _ _ k, if_neg k]
  refine ⟨canonical_setChan (canonical_setChan h1 _ _) _ _, h2, fun c => ?_, fun c => ?_, fun c => ?_, h6⟩ <;> rw [e c] <;>
    split
  · intro k; exact Bool.noConfusion k
  · exact h3 c
  · intro k
    have k' : (s.chan ch).suspended = true := k
    rw [unsus] at k'; exact Bool.noConfusion k'
  · exact h4 c
  · rename_i k; intro m; rw [k]; exact ok m
  · exact h5 c

/-- A station configured on an IDLE channel, with a person number no other link has in that role, keeps the invariants. -/
theorem configuredStation_stands (s : State) (l r p c : Nat) (e : Byte) (idle : (s.chan l).isIdle = true)
    (bulk : (s.chan l).binding = .bulk → roleOf r = .vacant)
    (alone : roleOf r ≠ .vacant → ∀ k, k < 16 → k ≠ l → (s.link k).role = roleOf r → (s.link k).person ≠ personFor r p) :
    Stands s (configuredStation s l r p c e).state := by
  have unsus : (s.chan l).suspended = false := by
    unfold Channel.isIdle at idle
    cases k : (s.chan l).suspended
    · rfl
    · rw [k] at idle; simp at idle
  have first : ∀ f : Link → Link, (∀ k, (f k).role = roleOf r) → (∀ k, (f k).person = personFor r p) →
      Stands s (s.updLink l f) := by
    intro f fr fp
    refine ⟨⟨rfl, fun h => ?_⟩, rfl⟩
    obtain ⟨h1, h2, h3, h4, h5, h6⟩ := h
    have lk : ∀ k, (s.updLink l f).link k = if k = l then f (s.link l) else s.link k := by
      intro k
      unfold updLink
      by_cases m : k = l
      · subst m; simp
      · rw [link_setLink_ne _ _ _ _ m, if_neg m]
    refine ⟨canonical_setLink h1 _ _, h2, h3, h4, fun k m => ?_, fun a b ha hb => ?_⟩
    · have o := h5 k m
      rw [lk k]
      split
      · rename_i q
        rw [fr]
        exact ⟨o.1, bulk (by rw [← q]; exact m)⟩
      · exact o
    · rw [lk a, lk b]
      split <;> split
      · rename_i q q'; intros; omega
      · rename_i q q'
        rw [fr, fp]
        intro nv er ep
        exact absurd ep (alone nv b hb q' er)
      · rename_i q q'
        rw [fr, fp]
        intro nv er ep
        exact absurd ep.symm (alone (by rw [er]; exact nv) a ha q er.symm)
      · exact h6 a b ha hb
  unfold configuredStation
  dsimp only [done]
  split
  · refine (first _ (fun _ => rfl) fun _ => rfl).trans (emptySlots_channel _ _ ?_).stands
    exact unsus
  · exact first _ (fun _ => rfl) fun _ => rfl

/-! ### Console port -/

theorem noticeRead_stands (s : State) : Stands s (noticeRead s).state := by
  unfold noticeRead
  split
  · rename_i n rest e
    refine ⟨⟨rfl, fun h => ⟨h.1, ?_, h.2.2⟩⟩, rfl⟩
    have := h.2.1
    unfold QueueBounded at this ⊢
    rw [e] at this
    simp at this ⊢
    omega
  · exact ⟨⟨rfl, id⟩, rfl⟩

theorem bulkTaken_stands (s : State) (ch n : Nat) : Stands s (bulkTaken s ch n).state := ⟨⟨rfl, id⟩, rfl⟩

theorem quiet_suspended (s : State) (ch : Nat) : ((s.quiet ch).chan ch).suspended = false := by
  unfold quiet updChan
  rw [chan_setChan]
  rfl

theorem warmChannel_stands (s : State) (ch : Nat) : Stands s (s.warmChannel ch) :=
  (s.quiet_records ch).stands.trans (emptySlots_channel _ _ (quiet_suspended _ _)).stands

theorem warmLink_stands (s : State) (l : Fin 16) : Stands s (s.warmLink l) := by
  unfold warmLink
  split
  · exact .refl s
  · exact s.reply_stands _ _ _ _ _

theorem warmStore_stands (s : State) : Stands s s.warmStore := by
  have k : ∀ q, Stands s { s with port := q } := fun q => ⟨⟨rfl, id⟩, rfl⟩
  exact (k _).trans ((abandonScrub_store _).stands.trans (claimScrub_store _).stands)

theorem warm_stands (s : State) : Stands s s.warm := by
  have last : ∀ t : State, Stands t { t with notices := [], overflowed := false, buffer := [], reserved := 0 } := fun t =>
    ⟨⟨rfl, fun h => ⟨h.1, Nat.zero_le _, h.2.2⟩⟩, rfl⟩
  exact (Stands.foldl _ warmChannel_stands _ _).trans ((warmStore_stands _).trans
    ((Stands.foldl _ warmLink_stands _ _).trans (last _)))

end Sys2Proof.Machine
end

