-- ==== Sys2Proof/Laws/Commands.lean ====
section
/-! SUPPORT. What each command keeps, one lemma per meaning: it answers a next state, with the queue of commands standing and
the invariants kept; and, but for RESET and the two completions of writes, every byte of the store stands. -/

set_option Elab.async false

namespace Sys2Proof.Machine
open State

/-- A command answers a next state that stands. -/
def AnswersStanding (s : State) (o : Host.Outcome State Fault Refusal) : Prop := ∃ t, o = .next t ∧ Stands s t

/-- A command answers a next state with the queue standing and the invariants kept. -/
def AnswersKept (s : State) (o : Host.Outcome State Fault Refusal) : Prop := ∃ t, o = .next t ∧ Kept s t

theorem AnswersStanding.kept {s : State} {o : Host.Outcome State Fault Refusal} (h : AnswersStanding s o) :
    AnswersKept s o := by
  obtain ⟨t, e, k⟩ := h
  exact ⟨t, e, k.1⟩

/-- A request whose answer changes nothing but the reply. -/
theorem serve_reads (p : Port) (r : Request) (s : State) (owner : Party → State → Ans)
    (h : ∀ q, (owner q s).state = s) : AnswersStanding s (serve p r s owner) :=
  serve_stands p r s _ fun q => by rw [h q]; exact .refl s

variable (s : State)

/-! ### Jobs -/

theorem execOpenJob_stands (l : Fin 16) (d : BitVec 32) (c : Nat) (due : BitVec 16) :
    AnswersStanding s (execOpenJob l d c due s) :=
  serve_stands _ _ _ _ fun _ => checked_stands _ _ _ fun _ => openedJob_stands _ _ _ _ _ _

theorem execCreateJob_stands (n : Nat) (d : BitVec 32) (c : Nat) (due : BitVec 16) (f : Nat) :
    AnswersStanding s (execCreateJob n d c due f s) :=
  serve_stands _ _ _ _ fun _ => checked_stands _ _ _ fun _ => createdJob_stands _ _ _ _ _ _

theorem execAttach_stands (l : Fin 16) (r : Ref) : AnswersStanding s (execAttach l r s) :=
  serve_stands _ _ _ _ fun _ => checked_stands _ _ _ fun _ => attachedJob_stands _ _ _

theorem execDetach_stands (l : Fin 16) (r : Ref) : AnswersStanding s (execDetach l r s) :=
  serve_stands _ _ _ _ fun _ => checked_stands _ _ _ fun _ => detachedJob_stands _ _

theorem execCloseDictation_stands (p : Port) (r : Ref) : AnswersStanding s (execCloseDictation p r s) :=
  serve_stands _ _ _ _ fun _ => checked_stands _ _ _ fun _ => closedDictation_stands _ _ _

theorem execSetJobAttributes_stands (r : Ref) (a : JobAttrs) : AnswersStanding s (execSetJobAttributes r a s) :=
  serve_stands _ _ _ _ fun _ => checked_stands _ _ _ fun _ => setAttributes_stands _ _ _

theorem execReadJob_stands (p : Port) (r : Ref) : AnswersStanding s (execReadJob p r s) :=
  serve_reads _ _ _ _ fun _ => checked_state _ _ _ rfl

theorem execFindJob_stands (p : Port) (n : Nat) (a b : JobKey) : AnswersStanding s (execFindJob p n a b s) :=
  serve_stands _ _ _ _ fun _ => checked_stands _ _ _ fun _ => foundJob_stands _ _ _ _ _

theorem execHold_stands (r : Ref) : AnswersStanding s (execHold r s) :=
  serve_stands _ _ _ _ fun _ => checked_stands _ _ _ fun _ => heldJob_stands _ _

theorem execUnhold_stands (r : Ref) : AnswersStanding s (execUnhold r s) :=
  serve_stands _ _ _ _ fun _ => checked_stands _ _ _ fun _ => updJob_stands s r.idx fun j => { j with held := false }

theorem execRelease_stands (p : Port) (r : Ref) : AnswersStanding s (execRelease p r s) :=
  serve_stands _ _ _ _ fun _ => checked_stands _ _ _ fun _ => releasedJob_stands _ _ _

theorem execRetiringStatus_stands : AnswersStanding s (execRetiringStatus s) := serve_reads _ _ _ _ fun _ => rfl

/-! ### Maps and cues -/

theorem execReadSegment_stands (p : Port) (r : Ref) : AnswersStanding s (execReadSegment p r s) :=
  serve_reads _ _ _ _ fun _ => checked_state _ _ _ (segmentRead_state _ _)

theorem execSealRange_stands (r : Ref) (a b c : Nat) : AnswersStanding s (execSealRange r a b c s) :=
  serve_stands _ _ _ _ fun _ => checked_stands _ _ _ fun _ => sealedRange_stands _ _ _ _ _

theorem execPaceRange_stands (r : Ref) (a b : Nat) (x : Option Nat) : AnswersStanding s (execPaceRange r a b x s) :=
  serve_stands _ _ _ _ fun _ => checked_stands _ _ _ fun _ => pacedRange_stands _ _ _ _ _

theorem execPlaceCue_stands (p : Port) (k : Nat) (l : BitVec 16) (f : Place) : AnswersStanding s (execPlaceCue p k l f s) :=
  serve_stands _ _ _ _ fun _ => checked_stands _ _ _ fun _ => placedCue_stands _ _ _ _ _

theorem execRemoveCue_stands (p : Port) (r : Ref) : AnswersStanding s (execRemoveCue p r s) :=
  serve_stands _ _ _ _ fun _ => checked_stands _ _ _ fun _ => removedCue_stands _ _

theorem execReadCue_stands (p : Port) (r : Ref) : AnswersStanding s (execReadCue p r s) :=
  serve_reads _ _ _ _ fun _ => checked_state _ _ _ (cueRead_state _ _ _)

theorem execCueAt_stands (p : Port) (a : Option (Ref × Nat)) : AnswersStanding s (execCueAt p a s) :=
  serve_reads _ _ _ _ fun _ => cueAtAnswer_state _ _ _

theorem execLastCue_stands (p : Port) (r : Ref) : AnswersStanding s (execLastCue p r s) :=
  serve_reads _ _ _ _ fun _ => lastCueAnswer_state _ _ _

theorem execFindCue_stands (p : Port) (a : Option (Ref × Nat)) (d : Nat) (x m : BitVec 20) (st : Option Ref) :
    AnswersStanding s (execFindCue p a d x m st s) :=
  serve_reads _ _ _ _ fun _ => findCueAnswer_state _ _ _ _ _ _ _

/-! ### Takes -/

theorem execClaimNext_stands (l : Fin 16) : AnswersStanding s (execClaimNext l s) :=
  serve_stands _ _ _ _ fun _ => checked_stands _ _ _ fun _ => claimedNext_stands _ _ _

theorem execAssign_stands (r : Ref) (n : Nat) : AnswersStanding s (execAssign r n s) :=
  serve_stands _ _ _ _ fun _ => checked_stands _ _ _ fun _ => (giveTake_records _ _ _).stands

theorem execReturnTake_stands (l : Fin 16) (r : Ref) : AnswersStanding s (execReturnTake l r s) :=
  serve_stands _ _ _ _ fun _ => checked_stands _ _ _ fun _ => returnedTake_stands _ _ _

theorem execRevoke_stands (r : Ref) : AnswersStanding s (execRevoke r s) :=
  serve_stands _ _ _ _ fun _ => checked_stands _ _ _ fun _ => revokedTake_stands _ _

theorem execRework_stands (r : Ref) (n : Option Nat) : AnswersStanding s (execRework r n s) :=
  serve_stands _ _ _ _ fun _ => checked_stands _ _ _ fun _ => reworkedTake_stands _ _ _

theorem execReadTake_stands (p : Port) (r : Ref) : AnswersStanding s (execReadTake p r s) :=
  serve_reads _ _ _ _ fun _ => checked_state _ _ _ rfl

theorem execHeldTakes_stands (l : Fin 16) : AnswersStanding s (execHeldTakes l s) := serve_reads _ _ _ _ fun _ => rfl

theorem execQueueEntry_stands (n : Nat) : AnswersStanding s (execQueueEntry n s) :=
  serve_reads _ _ _ _ fun _ => checked_state _ _ _ (queueEntryAt_state _ _)

/-! ### Store -/

theorem execSetBankMap_stands (a b c d : WindowSpec) : AnswersStanding s (execSetBankMap a b c d s) :=
  serve_stands _ _ _ _ fun _ => checked_stands _ _ _ fun _ => mappedBanks_stands _ _

theorem execFormat_stands : AnswersStanding s (execFormat s) :=
  serve_stands _ _ _ _ fun _ => checked_stands _ _ _ fun _ => formattedStore_stands _

theorem execSetPoolThreshold_stands (n : Nat) : AnswersStanding s (execSetPoolThreshold n s) :=
  serve_stands _ _ _ _ fun _ => checked_stands _ _ _ fun _ => thresholdSet_stands _ _

theorem execSetBulkPriority_stands (a b c d e : Nat) : AnswersStanding s (execSetBulkPriority a b c d e s) :=
  serve_stands _ _ _ _ fun _ => checked_stands _ _ _ fun _ => ⟨⟨rfl, id⟩, rfl⟩

theorem execReadExtent_stands (e : Nat) : AnswersStanding s (execReadExtent e s) :=
  serve_reads _ _ _ _ fun _ => checked_state _ _ _ rfl

theorem execReadPool_stands : AnswersStanding s (execReadPool s) := serve_reads _ _ _ _ fun _ => rfl

/-! ### Capture -/

theorem execSetCaptureMode_stands (l : Fin 16) (m : ModeRequest) : AnswersStanding s (execSetCaptureMode l m s) :=
  serve_stands _ _ _ _ fun _ => setModeAnswer_stands _ _ _

theorem execSealMode_stands (l : Fin 16) (c : Nat) : AnswersStanding s (execSealMode l c s) :=
  serve_stands _ _ _ _ fun _ => checked_stands _ _ _ fun _ => sealModeSet_stands _ _ _

theorem execCaptureSetup_stands (l : Fin 16) (a b : Nat) (r c n : Bool) :
    AnswersStanding s (execCaptureSetup l a b r c n s) :=
  serve_stands _ _ _ _ fun _ => checked_stands _ _ _ fun _ => setupCapture_stands _ _ _ _ _ _ _

theorem execRecord_stands (l : Fin 16) : AnswersStanding s (execRecord l s) :=
  serve_stands _ _ _ _ fun _ => recordAnswer_stands _ _

theorem execPause_stands (l : Fin 16) : AnswersStanding s (execPause l s) :=
  serve_stands _ _ _ _ fun _ => pauseAnswer_stands _ _

theorem execReadback_stands (l : Fin 16) (x : BitVec 16) (st : CueOrPos) : AnswersStanding s (execReadback l x st s) :=
  serve_stands _ _ _ _ fun _ => readbackAnswer_stands _ _ _ _

theorem execReadbackEnd_stands (l : Fin 16) : AnswersStanding s (execReadbackEnd l s) :=
  serve_stands _ _ _ _ fun _ => readbackEndAnswer_stands _ _

/-! ### Play -/

theorem execPlay_stands (l : Fin 16) : AnswersStanding s (execPlay l s) :=
  serve_stands _ _ _ _ fun _ => playAnswer_stands _ _

theorem execLoadTake_stands (l : Fin 16) (r : Ref) : AnswersStanding s (execLoadTake l r s) :=
  serve_stands _ _ _ _ fun _ => checked_stands _ _ _ fun _ => loadedTake_stands _ _ _

theorem execHalt_stands (l : Fin 16) : AnswersStanding s (execHalt l s) :=
  serve_stands _ _ _ _ fun _ => haltAnswer_stands _ _

theorem execRewind_stands (l : Fin 16) (n : Nat) : AnswersStanding s (execRewind l n s) :=
  serve_stands _ _ _ _ fun _ => checked_stands _ _ _ fun _ => moveAnswer_stands _ _ _ _

theorem execForward_stands (l : Fin 16) (n : Nat) : AnswersStanding s (execForward l n s) :=
  serve_stands _ _ _ _ fun _ => checked_stands _ _ _ fun _ => moveAnswer_stands _ _ _ _

theorem execJump_stands (l : Fin 16) (t : CueOrPos) : AnswersStanding s (execJump l t s) :=
  serve_stands _ _ _ _ fun _ => jumpAnswer_stands _ _ _

theorem execReturnPlay_stands (l : Fin 16) : AnswersStanding s (execReturnPlay l s) :=
  serve_stands _ _ _ _ fun _ => returnAnswer_stands _ _

theorem execPlaySetup_stands (l : Fin 16) (d : PlaySetup) : AnswersStanding s (execPlaySetup l d s) :=
  serve_stands _ _ _ _ fun _ => playSetupAnswer_stands _ _ _

theorem execSetProfile_stands (l : Fin 16) (a b : Nat) (f : ProfileFields) : AnswersStanding s (execSetProfile l a b f s) :=
  serve_stands _ _ _ _ fun _ => checked_stands _ _ _ fun _ => profileSet_stands _ _ _ _ _

theorem execReadProfiles_stands (p : Port) (c : Option Nat) : AnswersStanding s (execReadProfiles p c s) :=
  serve_reads _ _ _ _ fun _ => checked_state _ _ _ rfl

/-! ### Channels, links, console -/

theorem execBindChannel_stands (ch b : Nat) : AnswersStanding s (execBindChannel ch b s) := by
  refine serve_stands _ _ _ _ fun _ => checked_stands _ _ _ fun h => ?_
  obtain ⟨h1, h⟩ := firstFailing_none h
  obtain ⟨h2, h⟩ := firstFailing_none h
  obtain ⟨h3, _⟩ := firstFailing_none h
  refine boundChannel_stands _ _ _ (by simpa using h2) fun e => ?_
  simp only [notBulk, Bool.or_eq_false_iff, Bool.and_eq_false_iff, decide_eq_false_iff_not] at h1 h3
  refine ⟨by omega, ?_⟩
  rcases h3 with h3 | h3
  · exact absurd e h3
  · exact not_not.mp h3

theorem execSetFrameTimeout_stands (ch n : Nat) : AnswersStanding s (execSetFrameTimeout ch n s) :=
  serve_stands _ _ _ _ fun _ => checked_stands _ _ _ fun _ => timeoutSet_stands _ _ _

theorem execReadChannel_stands (p : Port) (c : Option Nat) : AnswersStanding s (execReadChannel p c s) :=
  serve_reads _ _ _ _ fun _ => checked_state _ _ _ rfl

theorem execExportJob_stands (r : Ref) (ch a b : Nat) : AnswersStanding s (execExportJob r ch a b s) :=
  serve_stands _ _ _ _ fun _ => checked_stands _ _ _ fun _ => startedExport_stands _ _ _ _ _

theorem execExportStop_stands (ch : Nat) : AnswersStanding s (execExportStop ch s) :=
  serve_stands _ _ _ _ fun _ => checked_stands _ _ _ fun _ => (endExport_records _ _ _ _).stands

theorem execConfigureStation_stands (l r p c : Nat) (e : Byte) : AnswersStanding s (execConfigureStation l r p c e s) := by
  refine serve_stands _ _ _ _ fun _ => checked_stands _ _ _ fun h => ?_
  obtain ⟨h1, h⟩ := firstFailing_none h
  obtain ⟨h2, h⟩ := firstFailing_none h
  obtain ⟨h3, _⟩ := firstFailing_none h
  simp only [Bool.or_eq_false_iff, Bool.and_eq_false_iff, decide_eq_false_iff_not, stationOut] at h1 h2
  refine configuredStation_stands _ _ _ _ _ _ (by simpa using h3) (fun e => ?_) fun nv k hk ne er ep => ?_
  · rcases h2 with h2 | h2
    · exact absurd e h2
    · exact not_not.mp h2
  · have role : r = 1 ∨ r = 2 := by
      rcases r with _ | _ | _ | r
      · exact absurd rfl nv
      · exact .inl rfl
      · exact .inr rfl
      · exact absurd rfl nv
    have b := h1.2
    simp only [boundElsewhere, role, decide_true, Bool.true_and, List.any_eq_false, List.mem_range, Bool.and_eq_true,
      decide_eq_true_eq, not_and] at b
    refine b k hk ⟨ne, er⟩ ?_
    rw [ep, personFor, if_pos role]

theorem execReadLink_stands (l : Nat) : AnswersStanding s (execReadLink l s) :=
  serve_reads _ _ _ _ fun _ => checked_state _ _ _ rfl

theorem execPedalMask_stands (l : Fin 16) (v : Nat) : AnswersStanding s (execPedalMask l v s) :=
  serve_stands _ _ _ _ fun _ => checked_stands _ _ _ fun _ => maskSet_stands _ _ _

theorem execReadNotice_stands : AnswersStanding s (execReadNotice s) := serve_stands _ _ _ _ fun _ => noticeRead_stands _

theorem execAcknowledgeNotice_stands (ch : Nat) : AnswersStanding s (execAcknowledgeNotice ch s) :=
  serve_stands _ _ _ _ fun _ => checked_stands _ _ _ fun _ => (acknowledge_channel _ _).stands

theorem execBulkRead_stands (ch n : Nat) : AnswersStanding s (execBulkRead ch n s) :=
  serve_stands _ _ _ _ fun _ => checked_stands _ _ _ fun _ => bulkTaken_stands _ _ _

theorem execWarmReset_stands : AnswersStanding s (execWarmReset s) := serve_stands _ _ _ _ fun _ => warm_stands _

/-! ### Messages and pedals -/

theorem takeInbound_stands (l : Nat) (tag : Byte) (r : Request) : Stands s (s.takeInbound l tag r) := by
  unfold takeInbound
  dsimp only
  split
  · exact (s.handOver_channel _ _).stands
  · exact (s.updLink_channel _ _).stands

theorem takeConsole_stands (tag : Byte) (r : Request) : Stands s (s.takeConsole tag r) := by
  unfold takeConsole
  split <;> exact ⟨⟨rfl, id⟩, rfl⟩

theorem answerMalformed_stands (p : Port) (v : Verdict) : Stands s (s.answerMalformed p v) := by
  unfold answerMalformed
  split
  · exact .refl s
  · exact .refl s
  · split
    · exact handConsole_stands _ _
    · exact (s.handOver_channel _ _).stands

/-- A next state that either stands as it was or is changed by a step that stands. -/
theorem if_stands (c : Prop) [Decidable c] {t : State} (h : Stands s t) : Stands s (if c then t else s) := by
  split
  · exact h
  · exact .refl s

theorem execInboundRequest_stands (l : Fin 16) (tag : Byte) (r : Request) :
    AnswersStanding s (execInboundRequest l tag r s) := ⟨_, rfl, if_stands s _ (takeInbound_stands s _ _ _)⟩

theorem execConsoleRequest_stands (tag : Byte) (r : Request) : AnswersStanding s (execConsoleRequest tag r s) :=
  ⟨_, rfl, takeConsole_stands s _ _⟩

theorem execMalformedMessage_stands (p : Port) (e : Envelope) : AnswersStanding s (execMalformedMessage p e s) := by
  refine ⟨_, rfl, ?_⟩
  split
  · exact answerMalformed_stands s _ _
  · exact if_stands s _ (answerMalformed_stands s _ _)

theorem execNoticeAck_stands (l : Fin 16) : AnswersStanding s (execNoticeAck l s) :=
  ⟨_, rfl, if_stands s _ (s.acknowledge_channel _).stands⟩

theorem recordPressed_stands (ch : Nat) : Stands s (s.recordPressed ch) := by
  unfold recordPressed
  dsimp only
  split
  · exact .refl s
  · split
    · split
      · exact .refl s
      · exact (s.updCapture_channel _ _).stands
    · exact (s.restoreCapture_channel _ _ _).stands
    all_goals exact .refl s

theorem frameArrived_stands (ch : Nat) (d : Frame) : Stands s (s.frameArrived ch d) := by
  unfold frameArrived
  split
  · exact .refl s
  · split
    · exact ((s.updCapture_channel _ _).1.trans (presentFrame_records _ _ _ _)).stands
    · exact .refl s

theorem execFrameArrival_stands (l : Fin 16) (d : Frame) : AnswersStanding s (execFrameArrival l d s) :=
  ⟨_, rfl, if_stands s _ (frameArrived_stands s _ _)⟩

theorem execRecordPress_stands (l : Fin 16) : AnswersStanding s (execRecordPress l s) :=
  ⟨_, rfl, if_stands s _ (recordPressed_stands s _)⟩

theorem execRecordRelease_stands (l : Fin 16) : AnswersStanding s (execRecordRelease l s) :=
  ⟨_, rfl, if_stands s _ (if_stands s _ (s.updCapture_channel _ _).stands)⟩

theorem execPlayPress_stands (l : Fin 16) : AnswersStanding s (execPlayPress l s) := by
  refine ⟨_, rfl, ?_⟩
  split
  · exact .refl s
  · exact if_stands s _ (s.startPlay_channel _ _).stands

theorem execPlayRelease_stands (l : Fin 16) : AnswersStanding s (execPlayRelease l s) := by
  refine ⟨_, rfl, ?_⟩
  split
  · exact .refl s
  · split
    · exact .refl s
    · exact (s.pausePlay_channel _).stands

theorem shuttlePressed_stands (ch : Nat) (p : Play) (d : Shuttle) : Stands s (s.shuttlePressed ch p d) :=
  ((s.setPosition_channel _ _).trans (updPlay_channel _ _ _)).stands

theorem execRewindPress_stands (l : Fin 16) : AnswersStanding s (execRewindPress l s) := by
  refine ⟨_, rfl, ?_⟩
  split
  · exact .refl s
  · exact shuttlePressed_stands s _ _ _

theorem execForwardPress_stands (l : Fin 16) : AnswersStanding s (execForwardPress l s) := by
  refine ⟨_, rfl, ?_⟩
  split
  · exact .refl s
  · exact shuttlePressed_stands s _ _ _

theorem execShuttleRelease_stands (l : Fin 16) (c : ShuttleControl) : AnswersStanding s (execShuttleRelease l c s) := by
  refine ⟨_, rfl, ?_⟩
  split
  · exact .refl s
  · exact if_stands s _ (s.updPlay_channel _ _).stands

/-! ### Events of the part -/

theorem timeoutExpires_stands (ch : Nat) : Stands s (s.timeoutExpires ch) := (s.abnormalEnd_records _ _).stands

theorem framePeriodOf_stands (ch : Nat) : Stands s (s.framePeriodOf ch) := by
  unfold framePeriodOf
  split
  · exact .refl s
  · split
    · exact .refl s
    · unfold capturePeriod
      split
      · exact .refl s
      · split
        · exact timeoutExpires_stands s _
        · exact (s.updCapture_channel _ _).stands
    · exact (s.playPeriod_records _ _).stands
    · exact (s.readbackPeriod_channel _ _).stands
    · exact .refl s

theorem execFramePeriod_stands (ch : Fin 16) : AnswersStanding s (execFramePeriod ch s) :=
  ⟨_, rfl, framePeriodOf_stands s _⟩

theorem execFrameTimeout_stands (ch : Fin 16) : AnswersStanding s (execFrameTimeout ch s) := by
  refine ⟨_, rfl, ?_⟩
  unfold frameTimeoutOf
  split
  · exact .refl s
  · exact if_stands s _ (timeoutExpires_stands s _)

theorem goDown_stands (l : Nat) : Stands s (s.goDown l) := by
  have k : Stands s (s.updLink l fun k => { k with up := false, outstanding := none, unsent := [] }) :=
    (s.updLink_channel l _).stands
  unfold goDown
  dsimp only
  split
  · exact k.trans ((quiet_records _ _).stands.trans ((emptySlots_channel _ _ (quiet_suspended _ _)).stands.trans
      (raise_store _ _).stands))
  · exact k.trans (raise_store _ _).stands

theorem execLinkDown_stands (l : Fin 16) : AnswersStanding s (execLinkDown l s) :=
  ⟨_, rfl, if_stands s _ (goDown_stands s _)⟩

theorem execLinkUp_stands (l : Fin 16) : AnswersStanding s (execLinkUp l s) := by
  refine ⟨_, rfl, ?_⟩
  split
  · exact .refl s
  · exact (s.updLink_channel l.val fun k => { k with up := true, sequence := 0 }).stands.trans (raise_store _ _).stands

theorem abandonAccess_kept : Kept s s.abandonAccess := by
  unfold abandonAccess
  split
  · exact .refl s
  · split
    · exact ⟨rfl, fun h => sound_spoilFrame h _ _⟩
    · exact ⟨rfl, fun h => sound_spoilFrame h _ _⟩
    all_goals exact .refl s

theorem sound_reset : Sound State.reset :=
  ⟨⟨rfl, rfl, rfl, rfl, rfl, rfl, rfl, rfl, rfl, rfl⟩, Nat.zero_le _, fun _ h => Bool.noConfusion h,
    fun _ h => Bool.noConfusion h, (fun _ h => nomatch h), fun _ _ _ _ h => absurd rfl h⟩

theorem execReset_kept : AnswersKept s (execReset s) := by
  refine ⟨_, rfl, rfl, fun h => ?_⟩
  have k := ((abandonAccess_kept s).sound h).1.1
  exact ⟨⟨k, sound_reset.1.2⟩, sound_reset.2⟩

theorem captureWritten_kept (a : Access) (ch : Nat) (j : Ref) (d : Frame) (c : Bool) :
    Kept s (s.captureWritten a ch j d c) := by
  have first : Kept s (s.endAccess a) := (s.endAccess_store a).stands.1
  have spoil : ∀ t : State, Kept t (t.spoilFrame a.claim.extent a.claim.frame) := fun t =>
    ⟨rfl, fun h => sound_spoilFrame h _ _⟩
  have wrote : ∀ t : State, Kept t (t.writeFrame a.claim.extent a.claim.frame d) := fun t =>
    ⟨rfl, fun h => sound_writeFrame h _ _ _⟩
  have drop : ∀ t : State, Kept t (if t.jobCurrent j then t.dropTailIf j.idx a.claim.extent else t) := fun t => by
    split
    · exact (t.dropTailIf_records _ _).stands.1
    · exact .refl t
  have mark : Kept s (((s.endAccess a).spoilFrame a.claim.extent a.claim.frame).markDamaged a.claim.extent) :=
    first.trans ((spoil _).trans (markDamaged_store _ _).stands.1)
  unfold captureWritten
  dsimp only
  split
  · have k := mark.trans (raise_store _ (.storeError a.claim.extent .write)).stands.1
    split
    · exact k.trans ((drop _).trans (redestineFailed_records _ _ _ _ _).stands.1)
    · exact k.trans (loseTail_records _ _).stands.1
  · split
    · exact first.trans ((wrote _).trans ((markWritten_records _ _ _ _).stands.1.trans (placeHeads_records _ _ _).stands.1))
    · exact first.trans (wrote _)

theorem execCaptureWriteCompletion_kept (c : Bool) : AnswersKept s (execCaptureWriteCompletion c s) := by
  refine ⟨_, rfl, ?_⟩
  split
  · exact .refl s
  · split
    · exact captureWritten_kept s _ _ _ _ _
    all_goals exact .refl s

theorem damage_stands (c : Bool) (t : State) (e : Nat) : Stands t (if c then t.damageByRead e else t) := by
  split
  · exact (t.damageByRead_records e).stands
  · exact .refl t

theorem execPlayReadCompletion_stands (c : Bool) : AnswersStanding s (execPlayReadCompletion c s) := by
  refine ⟨_, rfl, ?_⟩
  split
  · exact .refl s
  · rename_i a _
    have k := (s.endAccess_store a).stands.trans (damage_stands c _ a.claim.extent)
    split
    · unfold playReadDone
      dsimp only
      split
      · split
        · split
          · exact k.trans (frameSent_records _ _ _ _ _ _ _).stands
          · exact k
        · split
          · exact k.trans (readbackSent_channel _ _ _ _ _ _).stands
          · exact k
        all_goals exact k
      · exact k
    all_goals exact .refl s

theorem exportReadDone_stands (a : Access) (ch pos : Nat) (c : Bool) : Stands s (s.exportReadDone a ch pos c) := by
  have k := (s.endAccess_store a).stands.trans (damage_stands c _ a.claim.extent)
  have place : ∀ (b : Bool) (t : State), Stands t (if b then { t with reserved := t.reserved - 1 } else t) := by
    intro b t
    split
    · exact ⟨⟨rfl, id⟩, rfl⟩
    · exact .refl t
  have buf : ∀ (t : State) (l : List BufEntry), Stands t { t with buffer := l } := fun t l => ⟨⟨rfl, id⟩, rfl⟩
  have k2 := k.trans (place a.place _)
  unfold exportReadDone
  dsimp only
  split
  · exact k2.trans ((buf _ _).trans ((updChan_channel _ _ _).stands.trans (testExportEnd_records _ _).stands))
  · exact k2

theorem execExportReadCompletion_stands (c : Bool) : AnswersStanding s (execExportReadCompletion c s) := by
  refine ⟨_, rfl, ?_⟩
  split
  · exact .refl s
  · split
    · exact exportReadDone_stands s _ _ _ _
    all_goals exact .refl s

theorem scrubGood_stands (e : Nat) : Stands s (s.scrubGood e) := by
  have freed : ∀ (t : State) (x : Ext) (l : List Nat), Stands t { t.setExt e x with freeList := l } := fun t x l =>
    ⟨⟨rfl, fun h => sound_setExt h e x⟩, rfl⟩
  have left : Stands s { s with scrubList := s.scrubList.tail, scrubNext := 0, formatLeft := s.formatLeft - 1 } :=
    ⟨⟨rfl, id⟩, rfl⟩
  unfold scrubGood
  dsimp only
  split
  · exact Stands.trans (t := { s with scrubNext := s.scrubNext + 1 }) ⟨⟨rfl, id⟩, rfl⟩ (claimScrub_store _).stands
  · exact left.trans ((freed _ _ _).trans ((testLow_store _).stands.trans (claimScrub_store _).stands))

theorem scrubDone_kept (a : Access) (c : Bool) : Kept s (s.scrubDone a c) := by
  have first : Kept s (s.endAccess a) := (s.endAccess_store a).stands.1
  have spoil : ∀ t : State, Kept t (t.spoilFrame a.claim.extent a.claim.frame) := fun t =>
    ⟨rfl, fun h => sound_spoilFrame h _ _⟩
  have wrote : ∀ (t : State) (d : Frame), Kept t (t.writeFrame a.claim.extent a.claim.frame d) := fun t d =>
    ⟨rfl, fun h => sound_writeFrame h _ _ _⟩
  unfold scrubDone
  generalize silentFrame = d
  dsimp only
  split
  · exact first.trans ((spoil _).trans ((markDamaged_store _ _).stands.1.trans (raise_store _ _).stands.1))
  · split
    · exact first.trans ((wrote _ _).trans (scrubGood_stands _ _).toKept)
    · exact first.trans (wrote _ _)

theorem execScrubWriteCompletion_kept (c : Bool) : AnswersKept s (execScrubWriteCompletion c s) := by
  refine ⟨_, rfl, ?_⟩
  split
  · exact .refl s
  · split
    · exact scrubDone_kept s _ _
    all_goals exact .refl s

theorem execBulkClaim_stands (ch : Fin 16) : AnswersStanding s (execBulkClaim ch s) := by
  refine ⟨_, rfl, ?_⟩
  unfold bulkClaimOf
  split
  · exact .refl s
  · dsimp only
    split
    · exact .refl s
    · split
      · exact (s.updChan_channel _ _).stands.trans (testExportEnd_records _ _).stands
      · exact Stands.trans (t := { s with reserved := s.reserved + 1 }) ⟨⟨rfl, id⟩, rfl⟩
          ((updChan_channel _ _ _).stands.trans (makeClaim_store _ _).stands)

theorem execCompletionReport_stands : AnswersStanding s (execCompletionReport s) := by
  refine ⟨_, rfl, ?_⟩
  unfold completionReport
  split
  · exact .refl s
  · have k : ∀ l, Stands s { s with reports := l } := fun l => ⟨⟨rfl, id⟩, rfl⟩
    dsimp only
    split
    · exact (k _).trans ((updJob_stands _ _ _).trans (raise_store _ _).stands)
    · exact k _

theorem sweepCount_stands (j : Nat) : Stands s (s.sweepCount j) := s.updJob_stands _ _

theorem sweepStep_stands : Stands s s.sweepStep := by
  unfold sweepStep
  split
  · exact .refl s
  · rename_i j _ _
    split
    · split
      · exact (s.updJob_stands _ _).trans ((mapCueAnchors_records _ _).stands.trans ((refreshParts_records _ _).stands.trans
          ((freeSeg_records _ _).stands.trans (sweepCount_stands _ _))))
      · exact s.updJob_stands _ _
    · split
      · rename_i i b _ _
        have mid : ∀ (p : Prop) [Decidable p] (t : State) (f : Take → Take),
            Stands t (if p then { t with takes := Table.mapListed {} f t.takes } else t) := by
          intro p _ t f
          split
          · exact ⟨⟨rfl, fun h => sound_mapTakes h f⟩, rfl⟩
          · exact .refl t
        exact (s.updJob_stands _ _).trans ((mid _ _ _).trans ((freeCue_records _ _).stands.trans (sweepCount_stands _ _)))
      · exact s.updJob_stands _ _
    · split
      · exact (s.updJob_stands _ _).trans ((freeTake_records _ _).stands.trans (sweepCount_stands _ _))
      · exact (s.raise_store _).stands.trans ⟨⟨rfl, fun h => sound_setJob h j { issue := (s.job j).issue + 1 }⟩, rfl⟩

theorem execSweepStep_stands : AnswersStanding s (execSweepStep s) := ⟨_, rfl, sweepStep_stands s⟩

/-! ### The empty queue -/

theorem sendLink_stands (l : Nat) : Stands s (s.sendLink l) := by
  unfold sendLink
  split
  · refine (s.updLink_channel l Link.send ?_).stands
    unfold Link.send
    split <;> exact ⟨rfl, rfl⟩
  · exact (s.updLink_channel l _).stands

theorem sendConsole_stands : Stands s s.sendConsole := by
  unfold sendConsole
  split <;> exact ⟨⟨rfl, id⟩, rfl⟩

theorem sendAll_stands : Stands s s.sendAll :=
  Stands.trans (Stands.foldl _ sendLink_stands (List.range 16) s) (sendConsole_stands _)

end Sys2Proof.Machine
end

