-- ==== Sys2Proof/Laws/Records.lean ====
section
/-! SUPPORT. A record written in one table leaves the records of every other table, each lemma true by rfl; and what the
guarded updates of Ops, CaptureOps and PlayOps come to. -/

set_option Elab.async false

namespace Sys2Proof.Machine.State

variable (s : State) (i k : Nat)

@[simp] theorem seg_setJob (x : Job) : (s.setJob i x).seg k = s.seg k := rfl
@[simp] theorem cue_setJob (x : Job) : (s.setJob i x).cue k = s.cue k := rfl
@[simp] theorem take_setJob (x : Job) : (s.setJob i x).take k = s.take k := rfl
@[simp] theorem hold_setJob (x : Job) : (s.setJob i x).hold k = s.hold k := rfl
@[simp] theorem ext_setJob (x : Job) : (s.setJob i x).ext k = s.ext k := rfl
@[simp] theorem placement_setJob (x : Job) : (s.setJob i x).placement k = s.placement k := rfl
@[simp] theorem chan_setJob (x : Job) : (s.setJob i x).chan k = s.chan k := rfl
@[simp] theorem link_setJob (x : Job) : (s.setJob i x).link k = s.link k := rfl

@[simp] theorem job_setSeg (x : Seg) : (s.setSeg i x).job k = s.job k := rfl
@[simp] theorem cue_setSeg (x : Seg) : (s.setSeg i x).cue k = s.cue k := rfl
@[simp] theorem take_setSeg (x : Seg) : (s.setSeg i x).take k = s.take k := rfl
@[simp] theorem hold_setSeg (x : Seg) : (s.setSeg i x).hold k = s.hold k := rfl
@[simp] theorem ext_setSeg (x : Seg) : (s.setSeg i x).ext k = s.ext k := rfl
@[simp] theorem placement_setSeg (x : Seg) : (s.setSeg i x).placement k = s.placement k := rfl
@[simp] theorem chan_setSeg (x : Seg) : (s.setSeg i x).chan k = s.chan k := rfl
@[simp] theorem link_setSeg (x : Seg) : (s.setSeg i x).link k = s.link k := rfl

@[simp] theorem job_setCue (x : Cue) : (s.setCue i x).job k = s.job k := rfl
@[simp] theorem seg_setCue (x : Cue) : (s.setCue i x).seg k = s.seg k := rfl
@[simp] theorem take_setCue (x : Cue) : (s.setCue i x).take k = s.take k := rfl
@[simp] theorem hold_setCue (x : Cue) : (s.setCue i x).hold k = s.hold k := rfl
@[simp] theorem ext_setCue (x : Cue) : (s.setCue i x).ext k = s.ext k := rfl
@[simp] theorem placement_setCue (x : Cue) : (s.setCue i x).placement k = s.placement k := rfl
@[simp] theorem chan_setCue (x : Cue) : (s.setCue i x).chan k = s.chan k := rfl
@[simp] theorem link_setCue (x : Cue) : (s.setCue i x).link k = s.link k := rfl

@[simp] theorem job_setTake (x : Take) : (s.setTake i x).job k = s.job k := rfl
@[simp] theorem seg_setTake (x : Take) : (s.setTake i x).seg k = s.seg k := rfl
@[simp] theorem cue_setTake (x : Take) : (s.setTake i x).cue k = s.cue k := rfl
@[simp] theorem hold_setTake (x : Take) : (s.setTake i x).hold k = s.hold k := rfl
@[simp] theorem ext_setTake (x : Take) : (s.setTake i x).ext k = s.ext k := rfl
@[simp] theorem placement_setTake (x : Take) : (s.setTake i x).placement k = s.placement k := rfl
@[simp] theorem chan_setTake (x : Take) : (s.setTake i x).chan k = s.chan k := rfl
@[simp] theorem link_setTake (x : Take) : (s.setTake i x).link k = s.link k := rfl

@[simp] theorem job_setHold (x : Nat) : (s.setHold i x).job k = s.job k := rfl
@[simp] theorem seg_setHold (x : Nat) : (s.setHold i x).seg k = s.seg k := rfl
@[simp] theorem cue_setHold (x : Nat) : (s.setHold i x).cue k = s.cue k := rfl
@[simp] theorem take_setHold (x : Nat) : (s.setHold i x).take k = s.take k := rfl
@[simp] theorem ext_setHold (x : Nat) : (s.setHold i x).ext k = s.ext k := rfl
@[simp] theorem placement_setHold (x : Nat) : (s.setHold i x).placement k = s.placement k := rfl
@[simp] theorem chan_setHold (x : Nat) : (s.setHold i x).chan k = s.chan k := rfl
@[simp] theorem link_setHold (x : Nat) : (s.setHold i x).link k = s.link k := rfl

@[simp] theorem job_setExt (x : Ext) : (s.setExt i x).job k = s.job k := rfl
@[simp] theorem seg_setExt (x : Ext) : (s.setExt i x).seg k = s.seg k := rfl
@[simp] theorem cue_setExt (x : Ext) : (s.setExt i x).cue k = s.cue k := rfl
@[simp] theorem take_setExt (x : Ext) : (s.setExt i x).take k = s.take k := rfl
@[simp] theorem hold_setExt (x : Ext) : (s.setExt i x).hold k = s.hold k := rfl
@[simp] theorem placement_setExt (x : Ext) : (s.setExt i x).placement k = s.placement k := rfl
@[simp] theorem chan_setExt (x : Ext) : (s.setExt i x).chan k = s.chan k := rfl
@[simp] theorem link_setExt (x : Ext) : (s.setExt i x).link k = s.link k := rfl

@[simp] theorem job_setPlacement (x : Placement) : (s.setPlacement i x).job k = s.job k := rfl
@[simp] theorem seg_setPlacement (x : Placement) : (s.setPlacement i x).seg k = s.seg k := rfl
@[simp] theorem cue_setPlacement (x : Placement) : (s.setPlacement i x).cue k = s.cue k := rfl
@[simp] theorem take_setPlacement (x : Placement) : (s.setPlacement i x).take k = s.take k := rfl
@[simp] theorem hold_setPlacement (x : Placement) : (s.setPlacement i x).hold k = s.hold k := rfl
@[simp] theorem ext_setPlacement (x : Placement) : (s.setPlacement i x).ext k = s.ext k := rfl
@[simp] theorem chan_setPlacement (x : Placement) : (s.setPlacement i x).chan k = s.chan k := rfl
@[simp] theorem link_setPlacement (x : Placement) : (s.setPlacement i x).link k = s.link k := rfl

@[simp] theorem job_setChan (x : Channel) : (s.setChan i x).job k = s.job k := rfl
@[simp] theorem seg_setChan (x : Channel) : (s.setChan i x).seg k = s.seg k := rfl
@[simp] theorem cue_setChan (x : Channel) : (s.setChan i x).cue k = s.cue k := rfl
@[simp] theorem take_setChan (x : Channel) : (s.setChan i x).take k = s.take k := rfl
@[simp] theorem hold_setChan (x : Channel) : (s.setChan i x).hold k = s.hold k := rfl
@[simp] theorem ext_setChan (x : Channel) : (s.setChan i x).ext k = s.ext k := rfl
@[simp] theorem placement_setChan (x : Channel) : (s.setChan i x).placement k = s.placement k := rfl
@[simp] theorem link_setChan (x : Channel) : (s.setChan i x).link k = s.link k := rfl

@[simp] theorem job_setLink (x : Link) : (s.setLink i x).job k = s.job k := rfl
@[simp] theorem seg_setLink (x : Link) : (s.setLink i x).seg k = s.seg k := rfl
@[simp] theorem cue_setLink (x : Link) : (s.setLink i x).cue k = s.cue k := rfl
@[simp] theorem take_setLink (x : Link) : (s.setLink i x).take k = s.take k := rfl
@[simp] theorem hold_setLink (x : Link) : (s.setLink i x).hold k = s.hold k := rfl
@[simp] theorem ext_setLink (x : Link) : (s.setLink i x).ext k = s.ext k := rfl
@[simp] theorem placement_setLink (x : Link) : (s.setLink i x).placement k = s.placement k := rfl
@[simp] theorem chan_setLink (x : Link) : (s.setLink i x).chan k = s.chan k := rfl

end Sys2Proof.Machine.State
end

