-- ==== Sys2Proof/Laws/Frames.lean ====
section
/-! SUPPORT. The frame of each shared operation: the fields it may change, said once as an equation, and the fields and
records it leaves. -/

set_option Elab.async false

namespace Sys2Proof.Machine.State

theorem grantNext_frame (s : State) :
    s.grantNext = { s with
      served := (s.grantNext).served
      waiting := (s.grantNext).waiting
      port := (s.grantNext).port } := by
  unfold grantNext
  split
  · rfl
  · split
    · rfl
    · dsimp only; split <;> rfl
@[simp] theorem grantNext_jobs (s : State) : (s.grantNext).jobs = s.jobs := (congrArg State.jobs (grantNext_frame s) :)
@[simp] theorem grantNext_segs (s : State) : (s.grantNext).segs = s.segs := (congrArg State.segs (grantNext_frame s) :)
@[simp] theorem grantNext_segFree (s : State) : (s.grantNext).segFree = s.segFree := (congrArg State.segFree (grantNext_frame s) :)
@[simp] theorem grantNext_places (s : State) : (s.grantNext).places = s.places := (congrArg State.places (grantNext_frame s) :)
@[simp] theorem grantNext_cues (s : State) : (s.grantNext).cues = s.cues := (congrArg State.cues (grantNext_frame s) :)
@[simp] theorem grantNext_cueFree (s : State) : (s.grantNext).cueFree = s.cueFree := (congrArg State.cueFree (grantNext_frame s) :)
@[simp] theorem grantNext_takes (s : State) : (s.grantNext).takes = s.takes := (congrArg State.takes (grantNext_frame s) :)
@[simp] theorem grantNext_takeFree (s : State) : (s.grantNext).takeFree = s.takeFree := (congrArg State.takeFree (grantNext_frame s) :)
@[simp] theorem grantNext_ready (s : State) : (s.grantNext).ready = s.ready := (congrArg State.ready (grantNext_frame s) :)
@[simp] theorem grantNext_exts (s : State) : (s.grantNext).exts = s.exts := (congrArg State.exts (grantNext_frame s) :)
@[simp] theorem grantNext_freeList (s : State) : (s.grantNext).freeList = s.freeList := (congrArg State.freeList (grantNext_frame s) :)
@[simp] theorem grantNext_scrubList (s : State) : (s.grantNext).scrubList = s.scrubList := (congrArg State.scrubList (grantNext_frame s) :)
@[simp] theorem grantNext_mem (s : State) : (s.grantNext).mem = s.mem := (congrArg State.mem (grantNext_frame s) :)
@[simp] theorem grantNext_chans (s : State) : (s.grantNext).chans = s.chans := (congrArg State.chans (grantNext_frame s) :)
@[simp] theorem grantNext_links (s : State) : (s.grantNext).links = s.links := (congrArg State.links (grantNext_frame s) :)
@[simp] theorem grantNext_notices (s : State) : (s.grantNext).notices = s.notices := (congrArg State.notices (grantNext_frame s) :)
@[simp] theorem grantNext_job (s : State) (k : Nat) : (s.grantNext).job k = s.job k := (congrArg (fun u => State.job u k) (grantNext_frame s) :)
@[simp] theorem grantNext_seg (s : State) (k : Nat) : (s.grantNext).seg k = s.seg k := (congrArg (fun u => State.seg u k) (grantNext_frame s) :)
@[simp] theorem grantNext_cue (s : State) (k : Nat) : (s.grantNext).cue k = s.cue k := (congrArg (fun u => State.cue u k) (grantNext_frame s) :)
@[simp] theorem grantNext_take (s : State) (k : Nat) : (s.grantNext).take k = s.take k := (congrArg (fun u => State.take u k) (grantNext_frame s) :)
@[simp] theorem grantNext_hold (s : State) (k : Nat) : (s.grantNext).hold k = s.hold k := (congrArg (fun u => State.hold u k) (grantNext_frame s) :)
@[simp] theorem grantNext_ext (s : State) (k : Nat) : (s.grantNext).ext k = s.ext k := (congrArg (fun u => State.ext u k) (grantNext_frame s) :)
@[simp] theorem grantNext_placement (s : State) (k : Nat) : (s.grantNext).placement k = s.placement k := (congrArg (fun u => State.placement u k) (grantNext_frame s) :)
@[simp] theorem grantNext_chan (s : State) (k : Nat) : (s.grantNext).chan k = s.chan k := (congrArg (fun u => State.chan u k) (grantNext_frame s) :)
@[simp] theorem grantNext_link (s : State) (k : Nat) : (s.grantNext).link k = s.link k := (congrArg (fun u => State.link u k) (grantNext_frame s) :)

theorem makeClaim_frame (s : State) (c : Claim) :
    s.makeClaim c = { s with
      served := (s.makeClaim c).served
      waiting := (s.makeClaim c).waiting
      port := (s.makeClaim c).port } := by
  unfold makeClaim
  dsimp only; split
  · rw [grantNext_frame]
  · rfl
@[simp] theorem makeClaim_jobs (s : State) (c : Claim) : (s.makeClaim c).jobs = s.jobs := (congrArg State.jobs (makeClaim_frame s c) :)
@[simp] theorem makeClaim_segs (s : State) (c : Claim) : (s.makeClaim c).segs = s.segs := (congrArg State.segs (makeClaim_frame s c) :)
@[simp] theorem makeClaim_segFree (s : State) (c : Claim) : (s.makeClaim c).segFree = s.segFree := (congrArg State.segFree (makeClaim_frame s c) :)
@[simp] theorem makeClaim_places (s : State) (c : Claim) : (s.makeClaim c).places = s.places := (congrArg State.places (makeClaim_frame s c) :)
@[simp] theorem makeClaim_cues (s : State) (c : Claim) : (s.makeClaim c).cues = s.cues := (congrArg State.cues (makeClaim_frame s c) :)
@[simp] theorem makeClaim_cueFree (s : State) (c : Claim) : (s.makeClaim c).cueFree = s.cueFree := (congrArg State.cueFree (makeClaim_frame s c) :)
@[simp] theorem makeClaim_takes (s : State) (c : Claim) : (s.makeClaim c).takes = s.takes := (congrArg State.takes (makeClaim_frame s c) :)
@[simp] theorem makeClaim_takeFree (s : State) (c : Claim) : (s.makeClaim c).takeFree = s.takeFree := (congrArg State.takeFree (makeClaim_frame s c) :)
@[simp] theorem makeClaim_ready (s : State) (c : Claim) : (s.makeClaim c).ready = s.ready := (congrArg State.ready (makeClaim_frame s c) :)
@[simp] theorem makeClaim_exts (s : State) (c : Claim) : (s.makeClaim c).exts = s.exts := (congrArg State.exts (makeClaim_frame s c) :)
@[simp] theorem makeClaim_freeList (s : State) (c : Claim) : (s.makeClaim c).freeList = s.freeList := (congrArg State.freeList (makeClaim_frame s c) :)
@[simp] theorem makeClaim_scrubList (s : State) (c : Claim) : (s.makeClaim c).scrubList = s.scrubList := (congrArg State.scrubList (makeClaim_frame s c) :)
@[simp] theorem makeClaim_mem (s : State) (c : Claim) : (s.makeClaim c).mem = s.mem := (congrArg State.mem (makeClaim_frame s c) :)
@[simp] theorem makeClaim_chans (s : State) (c : Claim) : (s.makeClaim c).chans = s.chans := (congrArg State.chans (makeClaim_frame s c) :)
@[simp] theorem makeClaim_links (s : State) (c : Claim) : (s.makeClaim c).links = s.links := (congrArg State.links (makeClaim_frame s c) :)
@[simp] theorem makeClaim_notices (s : State) (c : Claim) : (s.makeClaim c).notices = s.notices := (congrArg State.notices (makeClaim_frame s c) :)
@[simp] theorem makeClaim_job (s : State) (c : Claim) (k : Nat) : (s.makeClaim c).job k = s.job k := (congrArg (fun u => State.job u k) (makeClaim_frame s c) :)
@[simp] theorem makeClaim_seg (s : State) (c : Claim) (k : Nat) : (s.makeClaim c).seg k = s.seg k := (congrArg (fun u => State.seg u k) (makeClaim_frame s c) :)
@[simp] theorem makeClaim_cue (s : State) (c : Claim) (k : Nat) : (s.makeClaim c).cue k = s.cue k := (congrArg (fun u => State.cue u k) (makeClaim_frame s c) :)
@[simp] theorem makeClaim_take (s : State) (c : Claim) (k : Nat) : (s.makeClaim c).take k = s.take k := (congrArg (fun u => State.take u k) (makeClaim_frame s c) :)
@[simp] theorem makeClaim_hold (s : State) (c : Claim) (k : Nat) : (s.makeClaim c).hold k = s.hold k := (congrArg (fun u => State.hold u k) (makeClaim_frame s c) :)
@[simp] theorem makeClaim_ext (s : State) (c : Claim) (k : Nat) : (s.makeClaim c).ext k = s.ext k := (congrArg (fun u => State.ext u k) (makeClaim_frame s c) :)
@[simp] theorem makeClaim_placement (s : State) (c : Claim) (k : Nat) : (s.makeClaim c).placement k = s.placement k := (congrArg (fun u => State.placement u k) (makeClaim_frame s c) :)
@[simp] theorem makeClaim_chan (s : State) (c : Claim) (k : Nat) : (s.makeClaim c).chan k = s.chan k := (congrArg (fun u => State.chan u k) (makeClaim_frame s c) :)
@[simp] theorem makeClaim_link (s : State) (c : Claim) (k : Nat) : (s.makeClaim c).link k = s.link k := (congrArg (fun u => State.link u k) (makeClaim_frame s c) :)

theorem endAccess_frame (s : State) (a : Access) :
    s.endAccess a = { s with
      served := (s.endAccess a).served
      waiting := (s.endAccess a).waiting
      port := (s.endAccess a).port } := by
  unfold endAccess
  dsimp only; split
  · rfl
  · rw [grantNext_frame]
@[simp] theorem endAccess_jobs (s : State) (a : Access) : (s.endAccess a).jobs = s.jobs := (congrArg State.jobs (endAccess_frame s a) :)
@[simp] theorem endAccess_segs (s : State) (a : Access) : (s.endAccess a).segs = s.segs := (congrArg State.segs (endAccess_frame s a) :)
@[simp] theorem endAccess_segFree (s : State) (a : Access) : (s.endAccess a).segFree = s.segFree := (congrArg State.segFree (endAccess_frame s a) :)
@[simp] theorem endAccess_places (s : State) (a : Access) : (s.endAccess a).places = s.places := (congrArg State.places (endAccess_frame s a) :)
@[simp] theorem endAccess_cues (s : State) (a : Access) : (s.endAccess a).cues = s.cues := (congrArg State.cues (endAccess_frame s a) :)
@[simp] theorem endAccess_cueFree (s : State) (a : Access) : (s.endAccess a).cueFree = s.cueFree := (congrArg State.cueFree (endAccess_frame s a) :)
@[simp] theorem endAccess_takes (s : State) (a : Access) : (s.endAccess a).takes = s.takes := (congrArg State.takes (endAccess_frame s a) :)
@[simp] theorem endAccess_takeFree (s : State) (a : Access) : (s.endAccess a).takeFree = s.takeFree := (congrArg State.takeFree (endAccess_frame s a) :)
@[simp] theorem endAccess_ready (s : State) (a : Access) : (s.endAccess a).ready = s.ready := (congrArg State.ready (endAccess_frame s a) :)
@[simp] theorem endAccess_exts (s : State) (a : Access) : (s.endAccess a).exts = s.exts := (congrArg State.exts (endAccess_frame s a) :)
@[simp] theorem endAccess_freeList (s : State) (a : Access) : (s.endAccess a).freeList = s.freeList := (congrArg State.freeList (endAccess_frame s a) :)
@[simp] theorem endAccess_scrubList (s : State) (a : Access) : (s.endAccess a).scrubList = s.scrubList := (congrArg State.scrubList (endAccess_frame s a) :)
@[simp] theorem endAccess_mem (s : State) (a : Access) : (s.endAccess a).mem = s.mem := (congrArg State.mem (endAccess_frame s a) :)
@[simp] theorem endAccess_chans (s : State) (a : Access) : (s.endAccess a).chans = s.chans := (congrArg State.chans (endAccess_frame s a) :)
@[simp] theorem endAccess_links (s : State) (a : Access) : (s.endAccess a).links = s.links := (congrArg State.links (endAccess_frame s a) :)
@[simp] theorem endAccess_notices (s : State) (a : Access) : (s.endAccess a).notices = s.notices := (congrArg State.notices (endAccess_frame s a) :)
@[simp] theorem endAccess_job (s : State) (a : Access) (k : Nat) : (s.endAccess a).job k = s.job k := (congrArg (fun u => State.job u k) (endAccess_frame s a) :)
@[simp] theorem endAccess_seg (s : State) (a : Access) (k : Nat) : (s.endAccess a).seg k = s.seg k := (congrArg (fun u => State.seg u k) (endAccess_frame s a) :)
@[simp] theorem endAccess_cue (s : State) (a : Access) (k : Nat) : (s.endAccess a).cue k = s.cue k := (congrArg (fun u => State.cue u k) (endAccess_frame s a) :)
@[simp] theorem endAccess_take (s : State) (a : Access) (k : Nat) : (s.endAccess a).take k = s.take k := (congrArg (fun u => State.take u k) (endAccess_frame s a) :)
@[simp] theorem endAccess_hold (s : State) (a : Access) (k : Nat) : (s.endAccess a).hold k = s.hold k := (congrArg (fun u => State.hold u k) (endAccess_frame s a) :)
@[simp] theorem endAccess_ext (s : State) (a : Access) (k : Nat) : (s.endAccess a).ext k = s.ext k := (congrArg (fun u => State.ext u k) (endAccess_frame s a) :)
@[simp] theorem endAccess_placement (s : State) (a : Access) (k : Nat) : (s.endAccess a).placement k = s.placement k := (congrArg (fun u => State.placement u k) (endAccess_frame s a) :)
@[simp] theorem endAccess_chan (s : State) (a : Access) (k : Nat) : (s.endAccess a).chan k = s.chan k := (congrArg (fun u => State.chan u k) (endAccess_frame s a) :)
@[simp] theorem endAccess_link (s : State) (a : Access) (k : Nat) : (s.endAccess a).link k = s.link k := (congrArg (fun u => State.link u k) (endAccess_frame s a) :)

theorem claimScrub_frame (s : State) :
    s.claimScrub = { s with
      served := (s.claimScrub).served
      waiting := (s.claimScrub).waiting
      port := (s.claimScrub).port } := by
  unfold claimScrub
  split
  · rfl
  · split
    · rfl
    · exact makeClaim_frame _ _
@[simp] theorem claimScrub_jobs (s : State) : (s.claimScrub).jobs = s.jobs := (congrArg State.jobs (claimScrub_frame s) :)
@[simp] theorem claimScrub_segs (s : State) : (s.claimScrub).segs = s.segs := (congrArg State.segs (claimScrub_frame s) :)
@[simp] theorem claimScrub_segFree (s : State) : (s.claimScrub).segFree = s.segFree := (congrArg State.segFree (claimScrub_frame s) :)
@[simp] theorem claimScrub_places (s : State) : (s.claimScrub).places = s.places := (congrArg State.places (claimScrub_frame s) :)
@[simp] theorem claimScrub_cues (s : State) : (s.claimScrub).cues = s.cues := (congrArg State.cues (claimScrub_frame s) :)
@[simp] theorem claimScrub_cueFree (s : State) : (s.claimScrub).cueFree = s.cueFree := (congrArg State.cueFree (claimScrub_frame s) :)
@[simp] theorem claimScrub_takes (s : State) : (s.claimScrub).takes = s.takes := (congrArg State.takes (claimScrub_frame s) :)
@[simp] theorem claimScrub_takeFree (s : State) : (s.claimScrub).takeFree = s.takeFree := (congrArg State.takeFree (claimScrub_frame s) :)
@[simp] theorem claimScrub_ready (s : State) : (s.claimScrub).ready = s.ready := (congrArg State.ready (claimScrub_frame s) :)
@[simp] theorem claimScrub_exts (s : State) : (s.claimScrub).exts = s.exts := (congrArg State.exts (claimScrub_frame s) :)
@[simp] theorem claimScrub_freeList (s : State) : (s.claimScrub).freeList = s.freeList := (congrArg State.freeList (claimScrub_frame s) :)
@[simp] theorem claimScrub_scrubList (s : State) : (s.claimScrub).scrubList = s.scrubList := (congrArg State.scrubList (claimScrub_frame s) :)
@[simp] theorem claimScrub_mem (s : State) : (s.claimScrub).mem = s.mem := (congrArg State.mem (claimScrub_frame s) :)
@[simp] theorem claimScrub_chans (s : State) : (s.claimScrub).chans = s.chans := (congrArg State.chans (claimScrub_frame s) :)
@[simp] theorem claimScrub_links (s : State) : (s.claimScrub).links = s.links := (congrArg State.links (claimScrub_frame s) :)
@[simp] theorem claimScrub_notices (s : State) : (s.claimScrub).notices = s.notices := (congrArg State.notices (claimScrub_frame s) :)
@[simp] theorem claimScrub_job (s : State) (k : Nat) : (s.claimScrub).job k = s.job k := (congrArg (fun u => State.job u k) (claimScrub_frame s) :)
@[simp] theorem claimScrub_seg (s : State) (k : Nat) : (s.claimScrub).seg k = s.seg k := (congrArg (fun u => State.seg u k) (claimScrub_frame s) :)
@[simp] theorem claimScrub_cue (s : State) (k : Nat) : (s.claimScrub).cue k = s.cue k := (congrArg (fun u => State.cue u k) (claimScrub_frame s) :)
@[simp] theorem claimScrub_take (s : State) (k : Nat) : (s.claimScrub).take k = s.take k := (congrArg (fun u => State.take u k) (claimScrub_frame s) :)
@[simp] theorem claimScrub_hold (s : State) (k : Nat) : (s.claimScrub).hold k = s.hold k := (congrArg (fun u => State.hold u k) (claimScrub_frame s) :)
@[simp] theorem claimScrub_ext (s : State) (k : Nat) : (s.claimScrub).ext k = s.ext k := (congrArg (fun u => State.ext u k) (claimScrub_frame s) :)
@[simp] theorem claimScrub_placement (s : State) (k : Nat) : (s.claimScrub).placement k = s.placement k := (congrArg (fun u => State.placement u k) (claimScrub_frame s) :)
@[simp] theorem claimScrub_chan (s : State) (k : Nat) : (s.claimScrub).chan k = s.chan k := (congrArg (fun u => State.chan u k) (claimScrub_frame s) :)
@[simp] theorem claimScrub_link (s : State) (k : Nat) : (s.claimScrub).link k = s.link k := (congrArg (fun u => State.link u k) (claimScrub_frame s) :)

theorem raise_frame (s : State) (n : ConsoleNotice) :
    s.raise n = { s with notices := (s.raise n).notices, overflowed := (s.raise n).overflowed } := by
  unfold raise; split <;> rfl
@[simp] theorem raise_jobs (s : State) (n : ConsoleNotice) : (s.raise n).jobs = s.jobs := (congrArg State.jobs (raise_frame s n) :)
@[simp] theorem raise_segs (s : State) (n : ConsoleNotice) : (s.raise n).segs = s.segs := (congrArg State.segs (raise_frame s n) :)
@[simp] theorem raise_segFree (s : State) (n : ConsoleNotice) : (s.raise n).segFree = s.segFree := (congrArg State.segFree (raise_frame s n) :)
@[simp] theorem raise_places (s : State) (n : ConsoleNotice) : (s.raise n).places = s.places := (congrArg State.places (raise_frame s n) :)
@[simp] theorem raise_cues (s : State) (n : ConsoleNotice) : (s.raise n).cues = s.cues := (congrArg State.cues (raise_frame s n) :)
@[simp] theorem raise_cueFree (s : State) (n : ConsoleNotice) : (s.raise n).cueFree = s.cueFree := (congrArg State.cueFree (raise_frame s n) :)
@[simp] theorem raise_takes (s : State) (n : ConsoleNotice) : (s.raise n).takes = s.takes := (congrArg State.takes (raise_frame s n) :)
@[simp] theorem raise_takeFree (s : State) (n : ConsoleNotice) : (s.raise n).takeFree = s.takeFree := (congrArg State.takeFree (raise_frame s n) :)
@[simp] theorem raise_ready (s : State) (n : ConsoleNotice) : (s.raise n).ready = s.ready := (congrArg State.ready (raise_frame s n) :)
@[simp] theorem raise_exts (s : State) (n : ConsoleNotice) : (s.raise n).exts = s.exts := (congrArg State.exts (raise_frame s n) :)
@[simp] theorem raise_freeList (s : State) (n : ConsoleNotice) : (s.raise n).freeList = s.freeList := (congrArg State.freeList (raise_frame s n) :)
@[simp] theorem raise_scrubList (s : State) (n : ConsoleNotice) : (s.raise n).scrubList = s.scrubList := (congrArg State.scrubList (raise_frame s n) :)
@[simp] theorem raise_waiting (s : State) (n : ConsoleNotice) : (s.raise n).waiting = s.waiting := (congrArg State.waiting (raise_frame s n) :)
@[simp] theorem raise_port (s : State) (n : ConsoleNotice) : (s.raise n).port = s.port := (congrArg State.port (raise_frame s n) :)
@[simp] theorem raise_mem (s : State) (n : ConsoleNotice) : (s.raise n).mem = s.mem := (congrArg State.mem (raise_frame s n) :)
@[simp] theorem raise_chans (s : State) (n : ConsoleNotice) : (s.raise n).chans = s.chans := (congrArg State.chans (raise_frame s n) :)
@[simp] theorem raise_links (s : State) (n : ConsoleNotice) : (s.raise n).links = s.links := (congrArg State.links (raise_frame s n) :)
@[simp] theorem raise_job (s : State) (n : ConsoleNotice) (k : Nat) : (s.raise n).job k = s.job k := (congrArg (fun u => State.job u k) (raise_frame s n) :)
@[simp] theorem raise_seg (s : State) (n : ConsoleNotice) (k : Nat) : (s.raise n).seg k = s.seg k := (congrArg (fun u => State.seg u k) (raise_frame s n) :)
@[simp] theorem raise_cue (s : State) (n : ConsoleNotice) (k : Nat) : (s.raise n).cue k = s.cue k := (congrArg (fun u => State.cue u k) (raise_frame s n) :)
@[simp] theorem raise_take (s : State) (n : ConsoleNotice) (k : Nat) : (s.raise n).take k = s.take k := (congrArg (fun u => State.take u k) (raise_frame s n) :)
@[simp] theorem raise_hold (s : State) (n : ConsoleNotice) (k : Nat) : (s.raise n).hold k = s.hold k := (congrArg (fun u => State.hold u k) (raise_frame s n) :)
@[simp] theorem raise_ext (s : State) (n : ConsoleNotice) (k : Nat) : (s.raise n).ext k = s.ext k := (congrArg (fun u => State.ext u k) (raise_frame s n) :)
@[simp] theorem raise_placement (s : State) (n : ConsoleNotice) (k : Nat) : (s.raise n).placement k = s.placement k := (congrArg (fun u => State.placement u k) (raise_frame s n) :)
@[simp] theorem raise_chan (s : State) (n : ConsoleNotice) (k : Nat) : (s.raise n).chan k = s.chan k := (congrArg (fun u => State.chan u k) (raise_frame s n) :)
@[simp] theorem raise_link (s : State) (n : ConsoleNotice) (k : Nat) : (s.raise n).link k = s.link k := (congrArg (fun u => State.link u k) (raise_frame s n) :)

theorem testLow_frame (s : State) :
    s.testLow = { s with
      lowArmed := (s.testLow).lowArmed
      notices := (s.testLow).notices
      overflowed := (s.testLow).overflowed } := by
  unfold testLow
  split
  · split
    · rw [raise_frame]
    · rfl
  · split <;> rfl
@[simp] theorem testLow_jobs (s : State) : (s.testLow).jobs = s.jobs := (congrArg State.jobs (testLow_frame s) :)
@[simp] theorem testLow_segs (s : State) : (s.testLow).segs = s.segs := (congrArg State.segs (testLow_frame s) :)
@[simp] theorem testLow_segFree (s : State) : (s.testLow).segFree = s.segFree := (congrArg State.segFree (testLow_frame s) :)
@[simp] theorem testLow_places (s : State) : (s.testLow).places = s.places := (congrArg State.places (testLow_frame s) :)
@[simp] theorem testLow_cues (s : State) : (s.testLow).cues = s.cues := (congrArg State.cues (testLow_frame s) :)
@[simp] theorem testLow_cueFree (s : State) : (s.testLow).cueFree = s.cueFree := (congrArg State.cueFree (testLow_frame s) :)
@[simp] theorem testLow_takes (s : State) : (s.testLow).takes = s.takes := (congrArg State.takes (testLow_frame s) :)
@[simp] theorem testLow_takeFree (s : State) : (s.testLow).takeFree = s.takeFree := (congrArg State.takeFree (testLow_frame s) :)
@[simp] theorem testLow_ready (s : State) : (s.testLow).ready = s.ready := (congrArg State.ready (testLow_frame s) :)
@[simp] theorem testLow_exts (s : State) : (s.testLow).exts = s.exts := (congrArg State.exts (testLow_frame s) :)
@[simp] theorem testLow_freeList (s : State) : (s.testLow).freeList = s.freeList := (congrArg State.freeList (testLow_frame s) :)
@[simp] theorem testLow_scrubList (s : State) : (s.testLow).scrubList = s.scrubList := (congrArg State.scrubList (testLow_frame s) :)
@[simp] theorem testLow_waiting (s : State) : (s.testLow).waiting = s.waiting := (congrArg State.waiting (testLow_frame s) :)
@[simp] theorem testLow_port (s : State) : (s.testLow).port = s.port := (congrArg State.port (testLow_frame s) :)
@[simp] theorem testLow_mem (s : State) : (s.testLow).mem = s.mem := (congrArg State.mem (testLow_frame s) :)
@[simp] theorem testLow_chans (s : State) : (s.testLow).chans = s.chans := (congrArg State.chans (testLow_frame s) :)
@[simp] theorem testLow_links (s : State) : (s.testLow).links = s.links := (congrArg State.links (testLow_frame s) :)
@[simp] theorem testLow_job (s : State) (k : Nat) : (s.testLow).job k = s.job k := (congrArg (fun u => State.job u k) (testLow_frame s) :)
@[simp] theorem testLow_seg (s : State) (k : Nat) : (s.testLow).seg k = s.seg k := (congrArg (fun u => State.seg u k) (testLow_frame s) :)
@[simp] theorem testLow_cue (s : State) (k : Nat) : (s.testLow).cue k = s.cue k := (congrArg (fun u => State.cue u k) (testLow_frame s) :)
@[simp] theorem testLow_take (s : State) (k : Nat) : (s.testLow).take k = s.take k := (congrArg (fun u => State.take u k) (testLow_frame s) :)
@[simp] theorem testLow_hold (s : State) (k : Nat) : (s.testLow).hold k = s.hold k := (congrArg (fun u => State.hold u k) (testLow_frame s) :)
@[simp] theorem testLow_ext (s : State) (k : Nat) : (s.testLow).ext k = s.ext k := (congrArg (fun u => State.ext u k) (testLow_frame s) :)
@[simp] theorem testLow_placement (s : State) (k : Nat) : (s.testLow).placement k = s.placement k := (congrArg (fun u => State.placement u k) (testLow_frame s) :)
@[simp] theorem testLow_chan (s : State) (k : Nat) : (s.testLow).chan k = s.chan k := (congrArg (fun u => State.chan u k) (testLow_frame s) :)
@[simp] theorem testLow_link (s : State) (k : Nat) : (s.testLow).link k = s.link k := (congrArg (fun u => State.link u k) (testLow_frame s) :)

theorem withdraw_frame (s : State) (ch : Nat) :
    s.withdraw ch = { s with
      waiting := (s.withdraw ch).waiting
      reserved := (s.withdraw ch).reserved
      port := (s.withdraw ch).port } := rfl
@[simp] theorem withdraw_jobs (s : State) (ch : Nat) : (s.withdraw ch).jobs = s.jobs := (congrArg State.jobs (withdraw_frame s ch) :)
@[simp] theorem withdraw_segs (s : State) (ch : Nat) : (s.withdraw ch).segs = s.segs := (congrArg State.segs (withdraw_frame s ch) :)
@[simp] theorem withdraw_segFree (s : State) (ch : Nat) : (s.withdraw ch).segFree = s.segFree := (congrArg State.segFree (withdraw_frame s ch) :)
@[simp] theorem withdraw_places (s : State) (ch : Nat) : (s.withdraw ch).places = s.places := (congrArg State.places (withdraw_frame s ch) :)
@[simp] theorem withdraw_cues (s : State) (ch : Nat) : (s.withdraw ch).cues = s.cues := (congrArg State.cues (withdraw_frame s ch) :)
@[simp] theorem withdraw_cueFree (s : State) (ch : Nat) : (s.withdraw ch).cueFree = s.cueFree := (congrArg State.cueFree (withdraw_frame s ch) :)
@[simp] theorem withdraw_takes (s : State) (ch : Nat) : (s.withdraw ch).takes = s.takes := (congrArg State.takes (withdraw_frame s ch) :)
@[simp] theorem withdraw_takeFree (s : State) (ch : Nat) : (s.withdraw ch).takeFree = s.takeFree := (congrArg State.takeFree (withdraw_frame s ch) :)
@[simp] theorem withdraw_ready (s : State) (ch : Nat) : (s.withdraw ch).ready = s.ready := (congrArg State.ready (withdraw_frame s ch) :)
@[simp] theorem withdraw_exts (s : State) (ch : Nat) : (s.withdraw ch).exts = s.exts := (congrArg State.exts (withdraw_frame s ch) :)
@[simp] theorem withdraw_freeList (s : State) (ch : Nat) : (s.withdraw ch).freeList = s.freeList := (congrArg State.freeList (withdraw_frame s ch) :)
@[simp] theorem withdraw_scrubList (s : State) (ch : Nat) : (s.withdraw ch).scrubList = s.scrubList := (congrArg State.scrubList (withdraw_frame s ch) :)
@[simp] theorem withdraw_mem (s : State) (ch : Nat) : (s.withdraw ch).mem = s.mem := (congrArg State.mem (withdraw_frame s ch) :)
@[simp] theorem withdraw_chans (s : State) (ch : Nat) : (s.withdraw ch).chans = s.chans := (congrArg State.chans (withdraw_frame s ch) :)
@[simp] theorem withdraw_links (s : State) (ch : Nat) : (s.withdraw ch).links = s.links := (congrArg State.links (withdraw_frame s ch) :)
@[simp] theorem withdraw_notices (s : State) (ch : Nat) : (s.withdraw ch).notices = s.notices := (congrArg State.notices (withdraw_frame s ch) :)
@[simp] theorem withdraw_job (s : State) (ch : Nat) (k : Nat) : (s.withdraw ch).job k = s.job k := (congrArg (fun u => State.job u k) (withdraw_frame s ch) :)
@[simp] theorem withdraw_seg (s : State) (ch : Nat) (k : Nat) : (s.withdraw ch).seg k = s.seg k := (congrArg (fun u => State.seg u k) (withdraw_frame s ch) :)
@[simp] theorem withdraw_cue (s : State) (ch : Nat) (k : Nat) : (s.withdraw ch).cue k = s.cue k := (congrArg (fun u => State.cue u k) (withdraw_frame s ch) :)
@[simp] theorem withdraw_take (s : State) (ch : Nat) (k : Nat) : (s.withdraw ch).take k = s.take k := (congrArg (fun u => State.take u k) (withdraw_frame s ch) :)
@[simp] theorem withdraw_hold (s : State) (ch : Nat) (k : Nat) : (s.withdraw ch).hold k = s.hold k := (congrArg (fun u => State.hold u k) (withdraw_frame s ch) :)
@[simp] theorem withdraw_ext (s : State) (ch : Nat) (k : Nat) : (s.withdraw ch).ext k = s.ext k := (congrArg (fun u => State.ext u k) (withdraw_frame s ch) :)
@[simp] theorem withdraw_placement (s : State) (ch : Nat) (k : Nat) : (s.withdraw ch).placement k = s.placement k := (congrArg (fun u => State.placement u k) (withdraw_frame s ch) :)
@[simp] theorem withdraw_chan (s : State) (ch : Nat) (k : Nat) : (s.withdraw ch).chan k = s.chan k := (congrArg (fun u => State.chan u k) (withdraw_frame s ch) :)
@[simp] theorem withdraw_link (s : State) (ch : Nat) (k : Nat) : (s.withdraw ch).link k = s.link k := (congrArg (fun u => State.link u k) (withdraw_frame s ch) :)

theorem handOver_frame (s : State) (l : Nat) (m : LinkMsg) :
    s.handOver l m = { s with links := (s.handOver l m).links } := by
  unfold handOver; split <;> rfl
@[simp] theorem handOver_jobs (s : State) (l : Nat) (m : LinkMsg) : (s.handOver l m).jobs = s.jobs := (congrArg State.jobs (handOver_frame s l m) :)
@[simp] theorem handOver_segs (s : State) (l : Nat) (m : LinkMsg) : (s.handOver l m).segs = s.segs := (congrArg State.segs (handOver_frame s l m) :)
@[simp] theorem handOver_segFree (s : State) (l : Nat) (m : LinkMsg) : (s.handOver l m).segFree = s.segFree := (congrArg State.segFree (handOver_frame s l m) :)
@[simp] theorem handOver_places (s : State) (l : Nat) (m : LinkMsg) : (s.handOver l m).places = s.places := (congrArg State.places (handOver_frame s l m) :)
@[simp] theorem handOver_cues (s : State) (l : Nat) (m : LinkMsg) : (s.handOver l m).cues = s.cues := (congrArg State.cues (handOver_frame s l m) :)
@[simp] theorem handOver_cueFree (s : State) (l : Nat) (m : LinkMsg) : (s.handOver l m).cueFree = s.cueFree := (congrArg State.cueFree (handOver_frame s l m) :)
@[simp] theorem handOver_takes (s : State) (l : Nat) (m : LinkMsg) : (s.handOver l m).takes = s.takes := (congrArg State.takes (handOver_frame s l m) :)
@[simp] theorem handOver_takeFree (s : State) (l : Nat) (m : LinkMsg) : (s.handOver l m).takeFree = s.takeFree := (congrArg State.takeFree (handOver_frame s l m) :)
@[simp] theorem handOver_ready (s : State) (l : Nat) (m : LinkMsg) : (s.handOver l m).ready = s.ready := (congrArg State.ready (handOver_frame s l m) :)
@[simp] theorem handOver_exts (s : State) (l : Nat) (m : LinkMsg) : (s.handOver l m).exts = s.exts := (congrArg State.exts (handOver_frame s l m) :)
@[simp] theorem handOver_freeList (s : State) (l : Nat) (m : LinkMsg) : (s.handOver l m).freeList = s.freeList := (congrArg State.freeList (handOver_frame s l m) :)
@[simp] theorem handOver_scrubList (s : State) (l : Nat) (m : LinkMsg) : (s.handOver l m).scrubList = s.scrubList := (congrArg State.scrubList (handOver_frame s l m) :)
@[simp] theorem handOver_waiting (s : State) (l : Nat) (m : LinkMsg) : (s.handOver l m).waiting = s.waiting := (congrArg State.waiting (handOver_frame s l m) :)
@[simp] theorem handOver_port (s : State) (l : Nat) (m : LinkMsg) : (s.handOver l m).port = s.port := (congrArg State.port (handOver_frame s l m) :)
@[simp] theorem handOver_mem (s : State) (l : Nat) (m : LinkMsg) : (s.handOver l m).mem = s.mem := (congrArg State.mem (handOver_frame s l m) :)
@[simp] theorem handOver_chans (s : State) (l : Nat) (m : LinkMsg) : (s.handOver l m).chans = s.chans := (congrArg State.chans (handOver_frame s l m) :)
@[simp] theorem handOver_notices (s : State) (l : Nat) (m : LinkMsg) : (s.handOver l m).notices = s.notices := (congrArg State.notices (handOver_frame s l m) :)
@[simp] theorem handOver_job (s : State) (l : Nat) (m : LinkMsg) (k : Nat) : (s.handOver l m).job k = s.job k := (congrArg (fun u => State.job u k) (handOver_frame s l m) :)
@[simp] theorem handOver_seg (s : State) (l : Nat) (m : LinkMsg) (k : Nat) : (s.handOver l m).seg k = s.seg k := (congrArg (fun u => State.seg u k) (handOver_frame s l m) :)
@[simp] theorem handOver_cue (s : State) (l : Nat) (m : LinkMsg) (k : Nat) : (s.handOver l m).cue k = s.cue k := (congrArg (fun u => State.cue u k) (handOver_frame s l m) :)
@[simp] theorem handOver_take (s : State) (l : Nat) (m : LinkMsg) (k : Nat) : (s.handOver l m).take k = s.take k := (congrArg (fun u => State.take u k) (handOver_frame s l m) :)
@[simp] theorem handOver_hold (s : State) (l : Nat) (m : LinkMsg) (k : Nat) : (s.handOver l m).hold k = s.hold k := (congrArg (fun u => State.hold u k) (handOver_frame s l m) :)
@[simp] theorem handOver_ext (s : State) (l : Nat) (m : LinkMsg) (k : Nat) : (s.handOver l m).ext k = s.ext k := (congrArg (fun u => State.ext u k) (handOver_frame s l m) :)
@[simp] theorem handOver_placement (s : State) (l : Nat) (m : LinkMsg) (k : Nat) : (s.handOver l m).placement k = s.placement k := (congrArg (fun u => State.placement u k) (handOver_frame s l m) :)
@[simp] theorem handOver_chan (s : State) (l : Nat) (m : LinkMsg) (k : Nat) : (s.handOver l m).chan k = s.chan k := (congrArg (fun u => State.chan u k) (handOver_frame s l m) :)

theorem sendNotice_frame (s : State) (n : Notice) :
    s.sendNotice n = { s with
      links := (s.sendNotice n).links
      notices := (s.sendNotice n).notices
      overflowed := (s.sendNotice n).overflowed } := by
  unfold sendNotice; split
  · rw [handOver_frame]
  · rw [raise_frame]
@[simp] theorem sendNotice_jobs (s : State) (n : Notice) : (s.sendNotice n).jobs = s.jobs := (congrArg State.jobs (sendNotice_frame s n) :)
@[simp] theorem sendNotice_segs (s : State) (n : Notice) : (s.sendNotice n).segs = s.segs := (congrArg State.segs (sendNotice_frame s n) :)
@[simp] theorem sendNotice_segFree (s : State) (n : Notice) : (s.sendNotice n).segFree = s.segFree := (congrArg State.segFree (sendNotice_frame s n) :)
@[simp] theorem sendNotice_places (s : State) (n : Notice) : (s.sendNotice n).places = s.places := (congrArg State.places (sendNotice_frame s n) :)
@[simp] theorem sendNotice_cues (s : State) (n : Notice) : (s.sendNotice n).cues = s.cues := (congrArg State.cues (sendNotice_frame s n) :)
@[simp] theorem sendNotice_cueFree (s : State) (n : Notice) : (s.sendNotice n).cueFree = s.cueFree := (congrArg State.cueFree (sendNotice_frame s n) :)
@[simp] theorem sendNotice_takes (s : State) (n : Notice) : (s.sendNotice n).takes = s.takes := (congrArg State.takes (sendNotice_frame s n) :)
@[simp] theorem sendNotice_takeFree (s : State) (n : Notice) : (s.sendNotice n).takeFree = s.takeFree := (congrArg State.takeFree (sendNotice_frame s n) :)
@[simp] theorem sendNotice_ready (s : State) (n : Notice) : (s.sendNotice n).ready = s.ready := (congrArg State.ready (sendNotice_frame s n) :)
@[simp] theorem sendNotice_exts (s : State) (n : Notice) : (s.sendNotice n).exts = s.exts := (congrArg State.exts (sendNotice_frame s n) :)
@[simp] theorem sendNotice_freeList (s : State) (n : Notice) : (s.sendNotice n).freeList = s.freeList := (congrArg State.freeList (sendNotice_frame s n) :)
@[simp] theorem sendNotice_scrubList (s : State) (n : Notice) : (s.sendNotice n).scrubList = s.scrubList := (congrArg State.scrubList (sendNotice_frame s n) :)
@[simp] theorem sendNotice_waiting (s : State) (n : Notice) : (s.sendNotice n).waiting = s.waiting := (congrArg State.waiting (sendNotice_frame s n) :)
@[simp] theorem sendNotice_port (s : State) (n : Notice) : (s.sendNotice n).port = s.port := (congrArg State.port (sendNotice_frame s n) :)
@[simp] theorem sendNotice_mem (s : State) (n : Notice) : (s.sendNotice n).mem = s.mem := (congrArg State.mem (sendNotice_frame s n) :)
@[simp] theorem sendNotice_chans (s : State) (n : Notice) : (s.sendNotice n).chans = s.chans := (congrArg State.chans (sendNotice_frame s n) :)
@[simp] theorem sendNotice_job (s : State) (n : Notice) (k : Nat) : (s.sendNotice n).job k = s.job k := (congrArg (fun u => State.job u k) (sendNotice_frame s n) :)
@[simp] theorem sendNotice_seg (s : State) (n : Notice) (k : Nat) : (s.sendNotice n).seg k = s.seg k := (congrArg (fun u => State.seg u k) (sendNotice_frame s n) :)
@[simp] theorem sendNotice_cue (s : State) (n : Notice) (k : Nat) : (s.sendNotice n).cue k = s.cue k := (congrArg (fun u => State.cue u k) (sendNotice_frame s n) :)
@[simp] theorem sendNotice_take (s : State) (n : Notice) (k : Nat) : (s.sendNotice n).take k = s.take k := (congrArg (fun u => State.take u k) (sendNotice_frame s n) :)
@[simp] theorem sendNotice_hold (s : State) (n : Notice) (k : Nat) : (s.sendNotice n).hold k = s.hold k := (congrArg (fun u => State.hold u k) (sendNotice_frame s n) :)
@[simp] theorem sendNotice_ext (s : State) (n : Notice) (k : Nat) : (s.sendNotice n).ext k = s.ext k := (congrArg (fun u => State.ext u k) (sendNotice_frame s n) :)
@[simp] theorem sendNotice_placement (s : State) (n : Notice) (k : Nat) : (s.sendNotice n).placement k = s.placement k := (congrArg (fun u => State.placement u k) (sendNotice_frame s n) :)
@[simp] theorem sendNotice_chan (s : State) (n : Notice) (k : Nat) : (s.sendNotice n).chan k = s.chan k := (congrArg (fun u => State.chan u k) (sendNotice_frame s n) :)

theorem placeNotice_frame (s : State) (n : Notice) (b : Bool) :
    s.placeNotice n b = { s with
      chans := (s.placeNotice n b).chans
      waiting := (s.placeNotice n b).waiting
      reserved := (s.placeNotice n b).reserved
      port := (s.placeNotice n b).port
      links := (s.placeNotice n b).links
      notices := (s.placeNotice n b).notices
      overflowed := (s.placeNotice n b).overflowed } := by
  unfold placeNotice
  dsimp only; split
  · rw [sendNotice_frame]; rfl
  · split <;> rfl
  · rfl
@[simp] theorem placeNotice_jobs (s : State) (n : Notice) (b : Bool) : (s.placeNotice n b).jobs = s.jobs := (congrArg State.jobs (placeNotice_frame s n b) :)
@[simp] theorem placeNotice_segs (s : State) (n : Notice) (b : Bool) : (s.placeNotice n b).segs = s.segs := (congrArg State.segs (placeNotice_frame s n b) :)
@[simp] theorem placeNotice_segFree (s : State) (n : Notice) (b : Bool) : (s.placeNotice n b).segFree = s.segFree := (congrArg State.segFree (placeNotice_frame s n b) :)
@[simp] theorem placeNotice_places (s : State) (n : Notice) (b : Bool) : (s.placeNotice n b).places = s.places := (congrArg State.places (placeNotice_frame s n b) :)
@[simp] theorem placeNotice_cues (s : State) (n : Notice) (b : Bool) : (s.placeNotice n b).cues = s.cues := (congrArg State.cues (placeNotice_frame s n b) :)
@[simp] theorem placeNotice_cueFree (s : State) (n : Notice) (b : Bool) : (s.placeNotice n b).cueFree = s.cueFree := (congrArg State.cueFree (placeNotice_frame s n b) :)
@[simp] theorem placeNotice_takes (s : State) (n : Notice) (b : Bool) : (s.placeNotice n b).takes = s.takes := (congrArg State.takes (placeNotice_frame s n b) :)
@[simp] theorem placeNotice_takeFree (s : State) (n : Notice) (b : Bool) : (s.placeNotice n b).takeFree = s.takeFree := (congrArg State.takeFree (placeNotice_frame s n b) :)
@[simp] theorem placeNotice_ready (s : State) (n : Notice) (b : Bool) : (s.placeNotice n b).ready = s.ready := (congrArg State.ready (placeNotice_frame s n b) :)
@[simp] theorem placeNotice_exts (s : State) (n : Notice) (b : Bool) : (s.placeNotice n b).exts = s.exts := (congrArg State.exts (placeNotice_frame s n b) :)
@[simp] theorem placeNotice_freeList (s : State) (n : Notice) (b : Bool) : (s.placeNotice n b).freeList = s.freeList := (congrArg State.freeList (placeNotice_frame s n b) :)
@[simp] theorem placeNotice_scrubList (s : State) (n : Notice) (b : Bool) : (s.placeNotice n b).scrubList = s.scrubList := (congrArg State.scrubList (placeNotice_frame s n b) :)
@[simp] theorem placeNotice_mem (s : State) (n : Notice) (b : Bool) : (s.placeNotice n b).mem = s.mem := (congrArg State.mem (placeNotice_frame s n b) :)
@[simp] theorem placeNotice_job (s : State) (n : Notice) (b : Bool) (k : Nat) : (s.placeNotice n b).job k = s.job k := (congrArg (fun u => State.job u k) (placeNotice_frame s n b) :)
@[simp] theorem placeNotice_seg (s : State) (n : Notice) (b : Bool) (k : Nat) : (s.placeNotice n b).seg k = s.seg k := (congrArg (fun u => State.seg u k) (placeNotice_frame s n b) :)
@[simp] theorem placeNotice_cue (s : State) (n : Notice) (b : Bool) (k : Nat) : (s.placeNotice n b).cue k = s.cue k := (congrArg (fun u => State.cue u k) (placeNotice_frame s n b) :)
@[simp] theorem placeNotice_take (s : State) (n : Notice) (b : Bool) (k : Nat) : (s.placeNotice n b).take k = s.take k := (congrArg (fun u => State.take u k) (placeNotice_frame s n b) :)
@[simp] theorem placeNotice_hold (s : State) (n : Notice) (b : Bool) (k : Nat) : (s.placeNotice n b).hold k = s.hold k := (congrArg (fun u => State.hold u k) (placeNotice_frame s n b) :)
@[simp] theorem placeNotice_ext (s : State) (n : Notice) (b : Bool) (k : Nat) : (s.placeNotice n b).ext k = s.ext k := (congrArg (fun u => State.ext u k) (placeNotice_frame s n b) :)
@[simp] theorem placeNotice_placement (s : State) (n : Notice) (b : Bool) (k : Nat) : (s.placeNotice n b).placement k = s.placement k := (congrArg (fun u => State.placement u k) (placeNotice_frame s n b) :)

theorem updSegBody_frame (s : State) (i : Nat) (f : SegBody → SegBody) :
    s.updSegBody i f = { s with segs := (s.updSegBody i f).segs } := rfl
@[simp] theorem updSegBody_jobs (s : State) (i : Nat) (f : SegBody → SegBody) : (s.updSegBody i f).jobs = s.jobs := (congrArg State.jobs (updSegBody_frame s i f) :)
@[simp] theorem updSegBody_segFree (s : State) (i : Nat) (f : SegBody → SegBody) : (s.updSegBody i f).segFree = s.segFree := (congrArg State.segFree (updSegBody_frame s i f) :)
@[simp] theorem updSegBody_places (s : State) (i : Nat) (f : SegBody → SegBody) : (s.updSegBody i f).places = s.places := (congrArg State.places (updSegBody_frame s i f) :)
@[simp] theorem updSegBody_cues (s : State) (i : Nat) (f : SegBody → SegBody) : (s.updSegBody i f).cues = s.cues := (congrArg State.cues (updSegBody_frame s i f) :)
@[simp] theorem updSegBody_cueFree (s : State) (i : Nat) (f : SegBody → SegBody) : (s.updSegBody i f).cueFree = s.cueFree := (congrArg State.cueFree (updSegBody_frame s i f) :)
@[simp] theorem updSegBody_takes (s : State) (i : Nat) (f : SegBody → SegBody) : (s.updSegBody i f).takes = s.takes := (congrArg State.takes (updSegBody_frame s i f) :)
@[simp] theorem updSegBody_takeFree (s : State) (i : Nat) (f : SegBody → SegBody) : (s.updSegBody i f).takeFree = s.takeFree := (congrArg State.takeFree (updSegBody_frame s i f) :)
@[simp] theorem updSegBody_ready (s : State) (i : Nat) (f : SegBody → SegBody) : (s.updSegBody i f).ready = s.ready := (congrArg State.ready (updSegBody_frame s i f) :)
@[simp] theorem updSegBody_exts (s : State) (i : Nat) (f : SegBody → SegBody) : (s.updSegBody i f).exts = s.exts := (congrArg State.exts (updSegBody_frame s i f) :)
@[simp] theorem updSegBody_freeList (s : State) (i : Nat) (f : SegBody → SegBody) : (s.updSegBody i f).freeList = s.freeList := (congrArg State.freeList (updSegBody_frame s i f) :)
@[simp] theorem updSegBody_scrubList (s : State) (i : Nat) (f : SegBody → SegBody) : (s.updSegBody i f).scrubList = s.scrubList := (congrArg State.scrubList (updSegBody_frame s i f) :)
@[simp] theorem updSegBody_waiting (s : State) (i : Nat) (f : SegBody → SegBody) : (s.updSegBody i f).waiting = s.waiting := (congrArg State.waiting (updSegBody_frame s i f) :)
@[simp] theorem updSegBody_port (s : State) (i : Nat) (f : SegBody → SegBody) : (s.updSegBody i f).port = s.port := (congrArg State.port (updSegBody_frame s i f) :)
@[simp] theorem updSegBody_mem (s : State) (i : Nat) (f : SegBody → SegBody) : (s.updSegBody i f).mem = s.mem := (congrArg State.mem (updSegBody_frame s i f) :)
@[simp] theorem updSegBody_chans (s : State) (i : Nat) (f : SegBody → SegBody) : (s.updSegBody i f).chans = s.chans := (congrArg State.chans (updSegBody_frame s i f) :)
@[simp] theorem updSegBody_links (s : State) (i : Nat) (f : SegBody → SegBody) : (s.updSegBody i f).links = s.links := (congrArg State.links (updSegBody_frame s i f) :)
@[simp] theorem updSegBody_notices (s : State) (i : Nat) (f : SegBody → SegBody) : (s.updSegBody i f).notices = s.notices := (congrArg State.notices (updSegBody_frame s i f) :)
@[simp] theorem updSegBody_job (s : State) (i : Nat) (f : SegBody → SegBody) (k : Nat) : (s.updSegBody i f).job k = s.job k := (congrArg (fun u => State.job u k) (updSegBody_frame s i f) :)
@[simp] theorem updSegBody_cue (s : State) (i : Nat) (f : SegBody → SegBody) (k : Nat) : (s.updSegBody i f).cue k = s.cue k := (congrArg (fun u => State.cue u k) (updSegBody_frame s i f) :)
@[simp] theorem updSegBody_take (s : State) (i : Nat) (f : SegBody → SegBody) (k : Nat) : (s.updSegBody i f).take k = s.take k := (congrArg (fun u => State.take u k) (updSegBody_frame s i f) :)
@[simp] theorem updSegBody_hold (s : State) (i : Nat) (f : SegBody → SegBody) (k : Nat) : (s.updSegBody i f).hold k = s.hold k := (congrArg (fun u => State.hold u k) (updSegBody_frame s i f) :)
@[simp] theorem updSegBody_ext (s : State) (i : Nat) (f : SegBody → SegBody) (k : Nat) : (s.updSegBody i f).ext k = s.ext k := (congrArg (fun u => State.ext u k) (updSegBody_frame s i f) :)
@[simp] theorem updSegBody_placement (s : State) (i : Nat) (f : SegBody → SegBody) (k : Nat) : (s.updSegBody i f).placement k = s.placement k := (congrArg (fun u => State.placement u k) (updSegBody_frame s i f) :)
@[simp] theorem updSegBody_chan (s : State) (i : Nat) (f : SegBody → SegBody) (k : Nat) : (s.updSegBody i f).chan k = s.chan k := (congrArg (fun u => State.chan u k) (updSegBody_frame s i f) :)
@[simp] theorem updSegBody_link (s : State) (i : Nat) (f : SegBody → SegBody) (k : Nat) : (s.updSegBody i f).link k = s.link k := (congrArg (fun u => State.link u k) (updSegBody_frame s i f) :)

theorem refreshParts_frame (s : State) (j : Nat) :
    s.refreshParts j = { s with segs := (s.refreshParts j).segs } := by
  unfold refreshParts
  dsimp only
  generalize s.jobCues j = cues
  suffices h : ∀ (l : List (Nat × SegBody)) (t : State), t = { s with segs := t.segs } →
      l.foldl (fun t x => t.updSegBody x.1 fun b => { b with cue := s.firstCueIn cues x.1 }) t =
        { s with segs := (l.foldl (fun t x => t.updSegBody x.1 fun b => { b with cue := s.firstCueIn cues x.1 }) t).segs } from
    h _ s rfl
  intro l
  induction l with
  | nil => exact fun t h => h
  | cons x rest ih =>
    intro t h
    refine ih _ ?_
    rw [h]; rfl
@[simp] theorem refreshParts_jobs (s : State) (j : Nat) : (s.refreshParts j).jobs = s.jobs := (congrArg State.jobs (refreshParts_frame s j) :)
@[simp] theorem refreshParts_segFree (s : State) (j : Nat) : (s.refreshParts j).segFree = s.segFree := (congrArg State.segFree (refreshParts_frame s j) :)
@[simp] theorem refreshParts_places (s : State) (j : Nat) : (s.refreshParts j).places = s.places := (congrArg State.places (refreshParts_frame s j) :)
@[simp] theorem refreshParts_cues (s : State) (j : Nat) : (s.refreshParts j).cues = s.cues := (congrArg State.cues (refreshParts_frame s j) :)
@[simp] theorem refreshParts_cueFree (s : State) (j : Nat) : (s.refreshParts j).cueFree = s.cueFree := (congrArg State.cueFree (refreshParts_frame s j) :)
@[simp] theorem refreshParts_takes (s : State) (j : Nat) : (s.refreshParts j).takes = s.takes := (congrArg State.takes (refreshParts_frame s j) :)
@[simp] theorem refreshParts_takeFree (s : State) (j : Nat) : (s.refreshParts j).takeFree = s.takeFree := (congrArg State.takeFree (refreshParts_frame s j) :)
@[simp] theorem refreshParts_ready (s : State) (j : Nat) : (s.refreshParts j).ready = s.ready := (congrArg State.ready (refreshParts_frame s j) :)
@[simp] theorem refreshParts_exts (s : State) (j : Nat) : (s.refreshParts j).exts = s.exts := (congrArg State.exts (refreshParts_frame s j) :)
@[simp] theorem refreshParts_freeList (s : State) (j : Nat) : (s.refreshParts j).freeList = s.freeList := (congrArg State.freeList (refreshParts_frame s j) :)
@[simp] theorem refreshParts_scrubList (s : State) (j : Nat) : (s.refreshParts j).scrubList = s.scrubList := (congrArg State.scrubList (refreshParts_frame s j) :)
@[simp] theorem refreshParts_waiting (s : State) (j : Nat) : (s.refreshParts j).waiting = s.waiting := (congrArg State.waiting (refreshParts_frame s j) :)
@[simp] theorem refreshParts_port (s : State) (j : Nat) : (s.refreshParts j).port = s.port := (congrArg State.port (refreshParts_frame s j) :)
@[simp] theorem refreshParts_mem (s : State) (j : Nat) : (s.refreshParts j).mem = s.mem := (congrArg State.mem (refreshParts_frame s j) :)
@[simp] theorem refreshParts_chans (s : State) (j : Nat) : (s.refreshParts j).chans = s.chans := (congrArg State.chans (refreshParts_frame s j) :)
@[simp] theorem refreshParts_links (s : State) (j : Nat) : (s.refreshParts j).links = s.links := (congrArg State.links (refreshParts_frame s j) :)
@[simp] theorem refreshParts_notices (s : State) (j : Nat) : (s.refreshParts j).notices = s.notices := (congrArg State.notices (refreshParts_frame s j) :)
@[simp] theorem refreshParts_job (s : State) (j : Nat) (k : Nat) : (s.refreshParts j).job k = s.job k := (congrArg (fun u => State.job u k) (refreshParts_frame s j) :)
@[simp] theorem refreshParts_cue (s : State) (j : Nat) (k : Nat) : (s.refreshParts j).cue k = s.cue k := (congrArg (fun u => State.cue u k) (refreshParts_frame s j) :)
@[simp] theorem refreshParts_take (s : State) (j : Nat) (k : Nat) : (s.refreshParts j).take k = s.take k := (congrArg (fun u => State.take u k) (refreshParts_frame s j) :)
@[simp] theorem refreshParts_hold (s : State) (j : Nat) (k : Nat) : (s.refreshParts j).hold k = s.hold k := (congrArg (fun u => State.hold u k) (refreshParts_frame s j) :)
@[simp] theorem refreshParts_ext (s : State) (j : Nat) (k : Nat) : (s.refreshParts j).ext k = s.ext k := (congrArg (fun u => State.ext u k) (refreshParts_frame s j) :)
@[simp] theorem refreshParts_placement (s : State) (j : Nat) (k : Nat) : (s.refreshParts j).placement k = s.placement k := (congrArg (fun u => State.placement u k) (refreshParts_frame s j) :)
@[simp] theorem refreshParts_chan (s : State) (j : Nat) (k : Nat) : (s.refreshParts j).chan k = s.chan k := (congrArg (fun u => State.chan u k) (refreshParts_frame s j) :)
@[simp] theorem refreshParts_link (s : State) (j : Nat) (k : Nat) : (s.refreshParts j).link k = s.link k := (congrArg (fun u => State.link u k) (refreshParts_frame s j) :)

theorem linkCues_frame (s : State) (l : List Nat) :
    linkCues l s = { s with cues := (linkCues l s).cues } := by
  induction l generalizing s with
  | nil => rfl
  | cons i rest ih =>
    cases rest with
    | nil => rfl
    | cons k rest => unfold linkCues; rw [ih]; rfl
@[simp] theorem linkCues_jobs (s : State) (l : List Nat) : (linkCues l s).jobs = s.jobs := (congrArg State.jobs (linkCues_frame s l) :)
@[simp] theorem linkCues_segs (s : State) (l : List Nat) : (linkCues l s).segs = s.segs := (congrArg State.segs (linkCues_frame s l) :)
@[simp] theorem linkCues_segFree (s : State) (l : List Nat) : (linkCues l s).segFree = s.segFree := (congrArg State.segFree (linkCues_frame s l) :)
@[simp] theorem linkCues_places (s : State) (l : List Nat) : (linkCues l s).places = s.places := (congrArg State.places (linkCues_frame s l) :)
@[simp] theorem linkCues_cueFree (s : State) (l : List Nat) : (linkCues l s).cueFree = s.cueFree := (congrArg State.cueFree (linkCues_frame s l) :)
@[simp] theorem linkCues_takes (s : State) (l : List Nat) : (linkCues l s).takes = s.takes := (congrArg State.takes (linkCues_frame s l) :)
@[simp] theorem linkCues_takeFree (s : State) (l : List Nat) : (linkCues l s).takeFree = s.takeFree := (congrArg State.takeFree (linkCues_frame s l) :)
@[simp] theorem linkCues_ready (s : State) (l : List Nat) : (linkCues l s).ready = s.ready := (congrArg State.ready (linkCues_frame s l) :)
@[simp] theorem linkCues_exts (s : State) (l : List Nat) : (linkCues l s).exts = s.exts := (congrArg State.exts (linkCues_frame s l) :)
@[simp] theorem linkCues_freeList (s : State) (l : List Nat) : (linkCues l s).freeList = s.freeList := (congrArg State.freeList (linkCues_frame s l) :)
@[simp] theorem linkCues_scrubList (s : State) (l : List Nat) : (linkCues l s).scrubList = s.scrubList := (congrArg State.scrubList (linkCues_frame s l) :)
@[simp] theorem linkCues_waiting (s : State) (l : List Nat) : (linkCues l s).waiting = s.waiting := (congrArg State.waiting (linkCues_frame s l) :)
@[simp] theorem linkCues_port (s : State) (l : List Nat) : (linkCues l s).port = s.port := (congrArg State.port (linkCues_frame s l) :)
@[simp] theorem linkCues_mem (s : State) (l : List Nat) : (linkCues l s).mem = s.mem := (congrArg State.mem (linkCues_frame s l) :)
@[simp] theorem linkCues_chans (s : State) (l : List Nat) : (linkCues l s).chans = s.chans := (congrArg State.chans (linkCues_frame s l) :)
@[simp] theorem linkCues_links (s : State) (l : List Nat) : (linkCues l s).links = s.links := (congrArg State.links (linkCues_frame s l) :)
@[simp] theorem linkCues_notices (s : State) (l : List Nat) : (linkCues l s).notices = s.notices := (congrArg State.notices (linkCues_frame s l) :)
@[simp] theorem linkCues_job (s : State) (l : List Nat) (k : Nat) : (linkCues l s).job k = s.job k := (congrArg (fun u => State.job u k) (linkCues_frame s l) :)
@[simp] theorem linkCues_seg (s : State) (l : List Nat) (k : Nat) : (linkCues l s).seg k = s.seg k := (congrArg (fun u => State.seg u k) (linkCues_frame s l) :)
@[simp] theorem linkCues_take (s : State) (l : List Nat) (k : Nat) : (linkCues l s).take k = s.take k := (congrArg (fun u => State.take u k) (linkCues_frame s l) :)
@[simp] theorem linkCues_hold (s : State) (l : List Nat) (k : Nat) : (linkCues l s).hold k = s.hold k := (congrArg (fun u => State.hold u k) (linkCues_frame s l) :)
@[simp] theorem linkCues_ext (s : State) (l : List Nat) (k : Nat) : (linkCues l s).ext k = s.ext k := (congrArg (fun u => State.ext u k) (linkCues_frame s l) :)
@[simp] theorem linkCues_placement (s : State) (l : List Nat) (k : Nat) : (linkCues l s).placement k = s.placement k := (congrArg (fun u => State.placement u k) (linkCues_frame s l) :)
@[simp] theorem linkCues_chan (s : State) (l : List Nat) (k : Nat) : (linkCues l s).chan k = s.chan k := (congrArg (fun u => State.chan u k) (linkCues_frame s l) :)
@[simp] theorem linkCues_link (s : State) (l : List Nat) (k : Nat) : (linkCues l s).link k = s.link k := (congrArg (fun u => State.link u k) (linkCues_frame s l) :)

theorem orderCues_frame (s : State) (j : Nat) (l : List Nat) :
    s.orderCues j l = { s with cues := (s.orderCues j l).cues, jobs := (s.orderCues j l).jobs } := by
  unfold orderCues; rw [linkCues_frame]; rfl
@[simp] theorem orderCues_segs (s : State) (j : Nat) (l : List Nat) : (s.orderCues j l).segs = s.segs := (congrArg State.segs (orderCues_frame s j l) :)
@[simp] theorem orderCues_segFree (s : State) (j : Nat) (l : List Nat) : (s.orderCues j l).segFree = s.segFree := (congrArg State.segFree (orderCues_frame s j l) :)
@[simp] theorem orderCues_places (s : State) (j : Nat) (l : List Nat) : (s.orderCues j l).places = s.places := (congrArg State.places (orderCues_frame s j l) :)
@[simp] theorem orderCues_cueFree (s : State) (j : Nat) (l : List Nat) : (s.orderCues j l).cueFree = s.cueFree := (congrArg State.cueFree (orderCues_frame s j l) :)
@[simp] theorem orderCues_takes (s : State) (j : Nat) (l : List Nat) : (s.orderCues j l).takes = s.takes := (congrArg State.takes (orderCues_frame s j l) :)
@[simp] theorem orderCues_takeFree (s : State) (j : Nat) (l : List Nat) : (s.orderCues j l).takeFree = s.takeFree := (congrArg State.takeFree (orderCues_frame s j l) :)
@[simp] theorem orderCues_ready (s : State) (j : Nat) (l : List Nat) : (s.orderCues j l).ready = s.ready := (congrArg State.ready (orderCues_frame s j l) :)
@[simp] theorem orderCues_exts (s : State) (j : Nat) (l : List Nat) : (s.orderCues j l).exts = s.exts := (congrArg State.exts (orderCues_frame s j l) :)
@[simp] theorem orderCues_freeList (s : State) (j : Nat) (l : List Nat) : (s.orderCues j l).freeList = s.freeList := (congrArg State.freeList (orderCues_frame s j l) :)
@[simp] theorem orderCues_scrubList (s : State) (j : Nat) (l : List Nat) : (s.orderCues j l).scrubList = s.scrubList := (congrArg State.scrubList (orderCues_frame s j l) :)
@[simp] theorem orderCues_waiting (s : State) (j : Nat) (l : List Nat) : (s.orderCues j l).waiting = s.waiting := (congrArg State.waiting (orderCues_frame s j l) :)
@[simp] theorem orderCues_port (s : State) (j : Nat) (l : List Nat) : (s.orderCues j l).port = s.port := (congrArg State.port (orderCues_frame s j l) :)
@[simp] theorem orderCues_mem (s : State) (j : Nat) (l : List Nat) : (s.orderCues j l).mem = s.mem := (congrArg State.mem (orderCues_frame s j l) :)
@[simp] theorem orderCues_chans (s : State) (j : Nat) (l : List Nat) : (s.orderCues j l).chans = s.chans := (congrArg State.chans (orderCues_frame s j l) :)
@[simp] theorem orderCues_links (s : State) (j : Nat) (l : List Nat) : (s.orderCues j l).links = s.links := (congrArg State.links (orderCues_frame s j l) :)
@[simp] theorem orderCues_notices (s : State) (j : Nat) (l : List Nat) : (s.orderCues j l).notices = s.notices := (congrArg State.notices (orderCues_frame s j l) :)
@[simp] theorem orderCues_seg (s : State) (j : Nat) (l : List Nat) (k : Nat) : (s.orderCues j l).seg k = s.seg k := (congrArg (fun u => State.seg u k) (orderCues_frame s j l) :)
@[simp] theorem orderCues_take (s : State) (j : Nat) (l : List Nat) (k : Nat) : (s.orderCues j l).take k = s.take k := (congrArg (fun u => State.take u k) (orderCues_frame s j l) :)
@[simp] theorem orderCues_hold (s : State) (j : Nat) (l : List Nat) (k : Nat) : (s.orderCues j l).hold k = s.hold k := (congrArg (fun u => State.hold u k) (orderCues_frame s j l) :)
@[simp] theorem orderCues_ext (s : State) (j : Nat) (l : List Nat) (k : Nat) : (s.orderCues j l).ext k = s.ext k := (congrArg (fun u => State.ext u k) (orderCues_frame s j l) :)
@[simp] theorem orderCues_placement (s : State) (j : Nat) (l : List Nat) (k : Nat) : (s.orderCues j l).placement k = s.placement k := (congrArg (fun u => State.placement u k) (orderCues_frame s j l) :)
@[simp] theorem orderCues_chan (s : State) (j : Nat) (l : List Nat) (k : Nat) : (s.orderCues j l).chan k = s.chan k := (congrArg (fun u => State.chan u k) (orderCues_frame s j l) :)
@[simp] theorem orderCues_link (s : State) (j : Nat) (l : List Nat) (k : Nat) : (s.orderCues j l).link k = s.link k := (congrArg (fun u => State.link u k) (orderCues_frame s j l) :)

theorem mapCueAnchors_frame (s : State) (f : Anchor → Anchor) :
    s.mapCueAnchors f = { s with cues := (s.mapCueAnchors f).cues } := rfl
@[simp] theorem mapCueAnchors_jobs (s : State) (f : Anchor → Anchor) : (s.mapCueAnchors f).jobs = s.jobs := (congrArg State.jobs (mapCueAnchors_frame s f) :)
@[simp] theorem mapCueAnchors_segs (s : State) (f : Anchor → Anchor) : (s.mapCueAnchors f).segs = s.segs := (congrArg State.segs (mapCueAnchors_frame s f) :)
@[simp] theorem mapCueAnchors_segFree (s : State) (f : Anchor → Anchor) : (s.mapCueAnchors f).segFree = s.segFree := (congrArg State.segFree (mapCueAnchors_frame s f) :)
@[simp] theorem mapCueAnchors_places (s : State) (f : Anchor → Anchor) : (s.mapCueAnchors f).places = s.places := (congrArg State.places (mapCueAnchors_frame s f) :)
@[simp] theorem mapCueAnchors_cueFree (s : State) (f : Anchor → Anchor) : (s.mapCueAnchors f).cueFree = s.cueFree := (congrArg State.cueFree (mapCueAnchors_frame s f) :)
@[simp] theorem mapCueAnchors_takes (s : State) (f : Anchor → Anchor) : (s.mapCueAnchors f).takes = s.takes := (congrArg State.takes (mapCueAnchors_frame s f) :)
@[simp] theorem mapCueAnchors_takeFree (s : State) (f : Anchor → Anchor) : (s.mapCueAnchors f).takeFree = s.takeFree := (congrArg State.takeFree (mapCueAnchors_frame s f) :)
@[simp] theorem mapCueAnchors_ready (s : State) (f : Anchor → Anchor) : (s.mapCueAnchors f).ready = s.ready := (congrArg State.ready (mapCueAnchors_frame s f) :)
@[simp] theorem mapCueAnchors_exts (s : State) (f : Anchor → Anchor) : (s.mapCueAnchors f).exts = s.exts := (congrArg State.exts (mapCueAnchors_frame s f) :)
@[simp] theorem mapCueAnchors_freeList (s : State) (f : Anchor → Anchor) : (s.mapCueAnchors f).freeList = s.freeList := (congrArg State.freeList (mapCueAnchors_frame s f) :)
@[simp] theorem mapCueAnchors_scrubList (s : State) (f : Anchor → Anchor) : (s.mapCueAnchors f).scrubList = s.scrubList := (congrArg State.scrubList (mapCueAnchors_frame s f) :)
@[simp] theorem mapCueAnchors_waiting (s : State) (f : Anchor → Anchor) : (s.mapCueAnchors f).waiting = s.waiting := (congrArg State.waiting (mapCueAnchors_frame s f) :)
@[simp] theorem mapCueAnchors_port (s : State) (f : Anchor → Anchor) : (s.mapCueAnchors f).port = s.port := (congrArg State.port (mapCueAnchors_frame s f) :)
@[simp] theorem mapCueAnchors_mem (s : State) (f : Anchor → Anchor) : (s.mapCueAnchors f).mem = s.mem := (congrArg State.mem (mapCueAnchors_frame s f) :)
@[simp] theorem mapCueAnchors_chans (s : State) (f : Anchor → Anchor) : (s.mapCueAnchors f).chans = s.chans := (congrArg State.chans (mapCueAnchors_frame s f) :)
@[simp] theorem mapCueAnchors_links (s : State) (f : Anchor → Anchor) : (s.mapCueAnchors f).links = s.links := (congrArg State.links (mapCueAnchors_frame s f) :)
@[simp] theorem mapCueAnchors_notices (s : State) (f : Anchor → Anchor) : (s.mapCueAnchors f).notices = s.notices := (congrArg State.notices (mapCueAnchors_frame s f) :)
@[simp] theorem mapCueAnchors_job (s : State) (f : Anchor → Anchor) (k : Nat) : (s.mapCueAnchors f).job k = s.job k := (congrArg (fun u => State.job u k) (mapCueAnchors_frame s f) :)
@[simp] theorem mapCueAnchors_seg (s : State) (f : Anchor → Anchor) (k : Nat) : (s.mapCueAnchors f).seg k = s.seg k := (congrArg (fun u => State.seg u k) (mapCueAnchors_frame s f) :)
@[simp] theorem mapCueAnchors_take (s : State) (f : Anchor → Anchor) (k : Nat) : (s.mapCueAnchors f).take k = s.take k := (congrArg (fun u => State.take u k) (mapCueAnchors_frame s f) :)
@[simp] theorem mapCueAnchors_hold (s : State) (f : Anchor → Anchor) (k : Nat) : (s.mapCueAnchors f).hold k = s.hold k := (congrArg (fun u => State.hold u k) (mapCueAnchors_frame s f) :)
@[simp] theorem mapCueAnchors_ext (s : State) (f : Anchor → Anchor) (k : Nat) : (s.mapCueAnchors f).ext k = s.ext k := (congrArg (fun u => State.ext u k) (mapCueAnchors_frame s f) :)
@[simp] theorem mapCueAnchors_placement (s : State) (f : Anchor → Anchor) (k : Nat) : (s.mapCueAnchors f).placement k = s.placement k := (congrArg (fun u => State.placement u k) (mapCueAnchors_frame s f) :)
@[simp] theorem mapCueAnchors_chan (s : State) (f : Anchor → Anchor) (k : Nat) : (s.mapCueAnchors f).chan k = s.chan k := (congrArg (fun u => State.chan u k) (mapCueAnchors_frame s f) :)
@[simp] theorem mapCueAnchors_link (s : State) (f : Anchor → Anchor) (k : Nat) : (s.mapCueAnchors f).link k = s.link k := (congrArg (fun u => State.link u k) (mapCueAnchors_frame s f) :)

theorem mapPoints_frame (s : State) (f : Anchor → Anchor) :
    s.mapPoints f = { s with chans := (s.mapPoints f).chans, places := (s.mapPoints f).places } := rfl
@[simp] theorem mapPoints_jobs (s : State) (f : Anchor → Anchor) : (s.mapPoints f).jobs = s.jobs := (congrArg State.jobs (mapPoints_frame s f) :)
@[simp] theorem mapPoints_segs (s : State) (f : Anchor → Anchor) : (s.mapPoints f).segs = s.segs := (congrArg State.segs (mapPoints_frame s f) :)
@[simp] theorem mapPoints_segFree (s : State) (f : Anchor → Anchor) : (s.mapPoints f).segFree = s.segFree := (congrArg State.segFree (mapPoints_frame s f) :)
@[simp] theorem mapPoints_cues (s : State) (f : Anchor → Anchor) : (s.mapPoints f).cues = s.cues := (congrArg State.cues (mapPoints_frame s f) :)
@[simp] theorem mapPoints_cueFree (s : State) (f : Anchor → Anchor) : (s.mapPoints f).cueFree = s.cueFree := (congrArg State.cueFree (mapPoints_frame s f) :)
@[simp] theorem mapPoints_takes (s : State) (f : Anchor → Anchor) : (s.mapPoints f).takes = s.takes := (congrArg State.takes (mapPoints_frame s f) :)
@[simp] theorem mapPoints_takeFree (s : State) (f : Anchor → Anchor) : (s.mapPoints f).takeFree = s.takeFree := (congrArg State.takeFree (mapPoints_frame s f) :)
@[simp] theorem mapPoints_ready (s : State) (f : Anchor → Anchor) : (s.mapPoints f).ready = s.ready := (congrArg State.ready (mapPoints_frame s f) :)
@[simp] theorem mapPoints_exts (s : State) (f : Anchor → Anchor) : (s.mapPoints f).exts = s.exts := (congrArg State.exts (mapPoints_frame s f) :)
@[simp] theorem mapPoints_freeList (s : State) (f : Anchor → Anchor) : (s.mapPoints f).freeList = s.freeList := (congrArg State.freeList (mapPoints_frame s f) :)
@[simp] theorem mapPoints_scrubList (s : State) (f : Anchor → Anchor) : (s.mapPoints f).scrubList = s.scrubList := (congrArg State.scrubList (mapPoints_frame s f) :)
@[simp] theorem mapPoints_waiting (s : State) (f : Anchor → Anchor) : (s.mapPoints f).waiting = s.waiting := (congrArg State.waiting (mapPoints_frame s f) :)
@[simp] theorem mapPoints_port (s : State) (f : Anchor → Anchor) : (s.mapPoints f).port = s.port := (congrArg State.port (mapPoints_frame s f) :)
@[simp] theorem mapPoints_mem (s : State) (f : Anchor → Anchor) : (s.mapPoints f).mem = s.mem := (congrArg State.mem (mapPoints_frame s f) :)
@[simp] theorem mapPoints_links (s : State) (f : Anchor → Anchor) : (s.mapPoints f).links = s.links := (congrArg State.links (mapPoints_frame s f) :)
@[simp] theorem mapPoints_notices (s : State) (f : Anchor → Anchor) : (s.mapPoints f).notices = s.notices := (congrArg State.notices (mapPoints_frame s f) :)
@[simp] theorem mapPoints_job (s : State) (f : Anchor → Anchor) (k : Nat) : (s.mapPoints f).job k = s.job k := (congrArg (fun u => State.job u k) (mapPoints_frame s f) :)
@[simp] theorem mapPoints_seg (s : State) (f : Anchor → Anchor) (k : Nat) : (s.mapPoints f).seg k = s.seg k := (congrArg (fun u => State.seg u k) (mapPoints_frame s f) :)
@[simp] theorem mapPoints_cue (s : State) (f : Anchor → Anchor) (k : Nat) : (s.mapPoints f).cue k = s.cue k := (congrArg (fun u => State.cue u k) (mapPoints_frame s f) :)
@[simp] theorem mapPoints_take (s : State) (f : Anchor → Anchor) (k : Nat) : (s.mapPoints f).take k = s.take k := (congrArg (fun u => State.take u k) (mapPoints_frame s f) :)
@[simp] theorem mapPoints_hold (s : State) (f : Anchor → Anchor) (k : Nat) : (s.mapPoints f).hold k = s.hold k := (congrArg (fun u => State.hold u k) (mapPoints_frame s f) :)
@[simp] theorem mapPoints_ext (s : State) (f : Anchor → Anchor) (k : Nat) : (s.mapPoints f).ext k = s.ext k := (congrArg (fun u => State.ext u k) (mapPoints_frame s f) :)
@[simp] theorem mapPoints_link (s : State) (f : Anchor → Anchor) (k : Nat) : (s.mapPoints f).link k = s.link k := (congrArg (fun u => State.link u k) (mapPoints_frame s f) :)

theorem refUp_frame (s : State) (e : Nat) :
    s.refUp e = { s with exts := (s.refUp e).exts } := rfl
@[simp] theorem refUp_jobs (s : State) (e : Nat) : (s.refUp e).jobs = s.jobs := (congrArg State.jobs (refUp_frame s e) :)
@[simp] theorem refUp_segs (s : State) (e : Nat) : (s.refUp e).segs = s.segs := (congrArg State.segs (refUp_frame s e) :)
@[simp] theorem refUp_segFree (s : State) (e : Nat) : (s.refUp e).segFree = s.segFree := (congrArg State.segFree (refUp_frame s e) :)
@[simp] theorem refUp_places (s : State) (e : Nat) : (s.refUp e).places = s.places := (congrArg State.places (refUp_frame s e) :)
@[simp] theorem refUp_cues (s : State) (e : Nat) : (s.refUp e).cues = s.cues := (congrArg State.cues (refUp_frame s e) :)
@[simp] theorem refUp_cueFree (s : State) (e : Nat) : (s.refUp e).cueFree = s.cueFree := (congrArg State.cueFree (refUp_frame s e) :)
@[simp] theorem refUp_takes (s : State) (e : Nat) : (s.refUp e).takes = s.takes := (congrArg State.takes (refUp_frame s e) :)
@[simp] theorem refUp_takeFree (s : State) (e : Nat) : (s.refUp e).takeFree = s.takeFree := (congrArg State.takeFree (refUp_frame s e) :)
@[simp] theorem refUp_ready (s : State) (e : Nat) : (s.refUp e).ready = s.ready := (congrArg State.ready (refUp_frame s e) :)
@[simp] theorem refUp_freeList (s : State) (e : Nat) : (s.refUp e).freeList = s.freeList := (congrArg State.freeList (refUp_frame s e) :)
@[simp] theorem refUp_scrubList (s : State) (e : Nat) : (s.refUp e).scrubList = s.scrubList := (congrArg State.scrubList (refUp_frame s e) :)
@[simp] theorem refUp_waiting (s : State) (e : Nat) : (s.refUp e).waiting = s.waiting := (congrArg State.waiting (refUp_frame s e) :)
@[simp] theorem refUp_port (s : State) (e : Nat) : (s.refUp e).port = s.port := (congrArg State.port (refUp_frame s e) :)
@[simp] theorem refUp_mem (s : State) (e : Nat) : (s.refUp e).mem = s.mem := (congrArg State.mem (refUp_frame s e) :)
@[simp] theorem refUp_chans (s : State) (e : Nat) : (s.refUp e).chans = s.chans := (congrArg State.chans (refUp_frame s e) :)
@[simp] theorem refUp_links (s : State) (e : Nat) : (s.refUp e).links = s.links := (congrArg State.links (refUp_frame s e) :)
@[simp] theorem refUp_notices (s : State) (e : Nat) : (s.refUp e).notices = s.notices := (congrArg State.notices (refUp_frame s e) :)
@[simp] theorem refUp_job (s : State) (e : Nat) (k : Nat) : (s.refUp e).job k = s.job k := (congrArg (fun u => State.job u k) (refUp_frame s e) :)
@[simp] theorem refUp_seg (s : State) (e : Nat) (k : Nat) : (s.refUp e).seg k = s.seg k := (congrArg (fun u => State.seg u k) (refUp_frame s e) :)
@[simp] theorem refUp_cue (s : State) (e : Nat) (k : Nat) : (s.refUp e).cue k = s.cue k := (congrArg (fun u => State.cue u k) (refUp_frame s e) :)
@[simp] theorem refUp_take (s : State) (e : Nat) (k : Nat) : (s.refUp e).take k = s.take k := (congrArg (fun u => State.take u k) (refUp_frame s e) :)
@[simp] theorem refUp_hold (s : State) (e : Nat) (k : Nat) : (s.refUp e).hold k = s.hold k := (congrArg (fun u => State.hold u k) (refUp_frame s e) :)
@[simp] theorem refUp_placement (s : State) (e : Nat) (k : Nat) : (s.refUp e).placement k = s.placement k := (congrArg (fun u => State.placement u k) (refUp_frame s e) :)
@[simp] theorem refUp_chan (s : State) (e : Nat) (k : Nat) : (s.refUp e).chan k = s.chan k := (congrArg (fun u => State.chan u k) (refUp_frame s e) :)
@[simp] theorem refUp_link (s : State) (e : Nat) (k : Nat) : (s.refUp e).link k = s.link k := (congrArg (fun u => State.link u k) (refUp_frame s e) :)

theorem taintExt_frame (s : State) (e : Nat) :
    s.taintExt e = { s with exts := (s.taintExt e).exts } := rfl
@[simp] theorem taintExt_jobs (s : State) (e : Nat) : (s.taintExt e).jobs = s.jobs := (congrArg State.jobs (taintExt_frame s e) :)
@[simp] theorem taintExt_segs (s : State) (e : Nat) : (s.taintExt e).segs = s.segs := (congrArg State.segs (taintExt_frame s e) :)
@[simp] theorem taintExt_segFree (s : State) (e : Nat) : (s.taintExt e).segFree = s.segFree := (congrArg State.segFree (taintExt_frame s e) :)
@[simp] theorem taintExt_places (s : State) (e : Nat) : (s.taintExt e).places = s.places := (congrArg State.places (taintExt_frame s e) :)
@[simp] theorem taintExt_cues (s : State) (e : Nat) : (s.taintExt e).cues = s.cues := (congrArg State.cues (taintExt_frame s e) :)
@[simp] theorem taintExt_cueFree (s : State) (e : Nat) : (s.taintExt e).cueFree = s.cueFree := (congrArg State.cueFree (taintExt_frame s e) :)
@[simp] theorem taintExt_takes (s : State) (e : Nat) : (s.taintExt e).takes = s.takes := (congrArg State.takes (taintExt_frame s e) :)
@[simp] theorem taintExt_takeFree (s : State) (e : Nat) : (s.taintExt e).takeFree = s.takeFree := (congrArg State.takeFree (taintExt_frame s e) :)
@[simp] theorem taintExt_ready (s : State) (e : Nat) : (s.taintExt e).ready = s.ready := (congrArg State.ready (taintExt_frame s e) :)
@[simp] theorem taintExt_freeList (s : State) (e : Nat) : (s.taintExt e).freeList = s.freeList := (congrArg State.freeList (taintExt_frame s e) :)
@[simp] theorem taintExt_scrubList (s : State) (e : Nat) : (s.taintExt e).scrubList = s.scrubList := (congrArg State.scrubList (taintExt_frame s e) :)
@[simp] theorem taintExt_waiting (s : State) (e : Nat) : (s.taintExt e).waiting = s.waiting := (congrArg State.waiting (taintExt_frame s e) :)
@[simp] theorem taintExt_port (s : State) (e : Nat) : (s.taintExt e).port = s.port := (congrArg State.port (taintExt_frame s e) :)
@[simp] theorem taintExt_mem (s : State) (e : Nat) : (s.taintExt e).mem = s.mem := (congrArg State.mem (taintExt_frame s e) :)
@[simp] theorem taintExt_chans (s : State) (e : Nat) : (s.taintExt e).chans = s.chans := (congrArg State.chans (taintExt_frame s e) :)
@[simp] theorem taintExt_links (s : State) (e : Nat) : (s.taintExt e).links = s.links := (congrArg State.links (taintExt_frame s e) :)
@[simp] theorem taintExt_notices (s : State) (e : Nat) : (s.taintExt e).notices = s.notices := (congrArg State.notices (taintExt_frame s e) :)
@[simp] theorem taintExt_job (s : State) (e : Nat) (k : Nat) : (s.taintExt e).job k = s.job k := (congrArg (fun u => State.job u k) (taintExt_frame s e) :)
@[simp] theorem taintExt_seg (s : State) (e : Nat) (k : Nat) : (s.taintExt e).seg k = s.seg k := (congrArg (fun u => State.seg u k) (taintExt_frame s e) :)
@[simp] theorem taintExt_cue (s : State) (e : Nat) (k : Nat) : (s.taintExt e).cue k = s.cue k := (congrArg (fun u => State.cue u k) (taintExt_frame s e) :)
@[simp] theorem taintExt_take (s : State) (e : Nat) (k : Nat) : (s.taintExt e).take k = s.take k := (congrArg (fun u => State.take u k) (taintExt_frame s e) :)
@[simp] theorem taintExt_hold (s : State) (e : Nat) (k : Nat) : (s.taintExt e).hold k = s.hold k := (congrArg (fun u => State.hold u k) (taintExt_frame s e) :)
@[simp] theorem taintExt_placement (s : State) (e : Nat) (k : Nat) : (s.taintExt e).placement k = s.placement k := (congrArg (fun u => State.placement u k) (taintExt_frame s e) :)
@[simp] theorem taintExt_chan (s : State) (e : Nat) (k : Nat) : (s.taintExt e).chan k = s.chan k := (congrArg (fun u => State.chan u k) (taintExt_frame s e) :)
@[simp] theorem taintExt_link (s : State) (e : Nat) (k : Nat) : (s.taintExt e).link k = s.link k := (congrArg (fun u => State.link u k) (taintExt_frame s e) :)

theorem dispose_frame (s : State) (e : Nat) :
    s.dispose e = { s with
      exts := (s.dispose e).exts
      freeList := (s.dispose e).freeList
      scrubList := (s.dispose e).scrubList
      served := (s.dispose e).served
      waiting := (s.dispose e).waiting
      port := (s.dispose e).port
      lowArmed := (s.dispose e).lowArmed
      notices := (s.dispose e).notices
      overflowed := (s.dispose e).overflowed } := by
  unfold dispose
  dsimp only; split
  · split
    · rw [claimScrub_frame]; rfl
    · rw [testLow_frame]; rfl
  all_goals rfl
@[simp] theorem dispose_jobs (s : State) (e : Nat) : (s.dispose e).jobs = s.jobs := (congrArg State.jobs (dispose_frame s e) :)
@[simp] theorem dispose_segs (s : State) (e : Nat) : (s.dispose e).segs = s.segs := (congrArg State.segs (dispose_frame s e) :)
@[simp] theorem dispose_segFree (s : State) (e : Nat) : (s.dispose e).segFree = s.segFree := (congrArg State.segFree (dispose_frame s e) :)
@[simp] theorem dispose_places (s : State) (e : Nat) : (s.dispose e).places = s.places := (congrArg State.places (dispose_frame s e) :)
@[simp] theorem dispose_cues (s : State) (e : Nat) : (s.dispose e).cues = s.cues := (congrArg State.cues (dispose_frame s e) :)
@[simp] theorem dispose_cueFree (s : State) (e : Nat) : (s.dispose e).cueFree = s.cueFree := (congrArg State.cueFree (dispose_frame s e) :)
@[simp] theorem dispose_takes (s : State) (e : Nat) : (s.dispose e).takes = s.takes := (congrArg State.takes (dispose_frame s e) :)
@[simp] theorem dispose_takeFree (s : State) (e : Nat) : (s.dispose e).takeFree = s.takeFree := (congrArg State.takeFree (dispose_frame s e) :)
@[simp] theorem dispose_ready (s : State) (e : Nat) : (s.dispose e).ready = s.ready := (congrArg State.ready (dispose_frame s e) :)
@[simp] theorem dispose_mem (s : State) (e : Nat) : (s.dispose e).mem = s.mem := (congrArg State.mem (dispose_frame s e) :)
@[simp] theorem dispose_chans (s : State) (e : Nat) : (s.dispose e).chans = s.chans := (congrArg State.chans (dispose_frame s e) :)
@[simp] theorem dispose_links (s : State) (e : Nat) : (s.dispose e).links = s.links := (congrArg State.links (dispose_frame s e) :)
@[simp] theorem dispose_job (s : State) (e : Nat) (k : Nat) : (s.dispose e).job k = s.job k := (congrArg (fun u => State.job u k) (dispose_frame s e) :)
@[simp] theorem dispose_seg (s : State) (e : Nat) (k : Nat) : (s.dispose e).seg k = s.seg k := (congrArg (fun u => State.seg u k) (dispose_frame s e) :)
@[simp] theorem dispose_cue (s : State) (e : Nat) (k : Nat) : (s.dispose e).cue k = s.cue k := (congrArg (fun u => State.cue u k) (dispose_frame s e) :)
@[simp] theorem dispose_take (s : State) (e : Nat) (k : Nat) : (s.dispose e).take k = s.take k := (congrArg (fun u => State.take u k) (dispose_frame s e) :)
@[simp] theorem dispose_hold (s : State) (e : Nat) (k : Nat) : (s.dispose e).hold k = s.hold k := (congrArg (fun u => State.hold u k) (dispose_frame s e) :)
@[simp] theorem dispose_placement (s : State) (e : Nat) (k : Nat) : (s.dispose e).placement k = s.placement k := (congrArg (fun u => State.placement u k) (dispose_frame s e) :)
@[simp] theorem dispose_chan (s : State) (e : Nat) (k : Nat) : (s.dispose e).chan k = s.chan k := (congrArg (fun u => State.chan u k) (dispose_frame s e) :)
@[simp] theorem dispose_link (s : State) (e : Nat) (k : Nat) : (s.dispose e).link k = s.link k := (congrArg (fun u => State.link u k) (dispose_frame s e) :)

theorem refDown_frame (s : State) (e : Nat) :
    s.refDown e = { s with
      exts := (s.refDown e).exts
      freeList := (s.refDown e).freeList
      scrubList := (s.refDown e).scrubList
      served := (s.refDown e).served
      waiting := (s.refDown e).waiting
      port := (s.refDown e).port
      lowArmed := (s.refDown e).lowArmed
      notices := (s.refDown e).notices
      overflowed := (s.refDown e).overflowed } := by
  unfold refDown
  dsimp only; split
  · rw [dispose_frame]; rfl
  · rfl
@[simp] theorem refDown_jobs (s : State) (e : Nat) : (s.refDown e).jobs = s.jobs := (congrArg State.jobs (refDown_frame s e) :)
@[simp] theorem refDown_segs (s : State) (e : Nat) : (s.refDown e).segs = s.segs := (congrArg State.segs (refDown_frame s e) :)
@[simp] theorem refDown_segFree (s : State) (e : Nat) : (s.refDown e).segFree = s.segFree := (congrArg State.segFree (refDown_frame s e) :)
@[simp] theorem refDown_places (s : State) (e : Nat) : (s.refDown e).places = s.places := (congrArg State.places (refDown_frame s e) :)
@[simp] theorem refDown_cues (s : State) (e : Nat) : (s.refDown e).cues = s.cues := (congrArg State.cues (refDown_frame s e) :)
@[simp] theorem refDown_cueFree (s : State) (e : Nat) : (s.refDown e).cueFree = s.cueFree := (congrArg State.cueFree (refDown_frame s e) :)
@[simp] theorem refDown_takes (s : State) (e : Nat) : (s.refDown e).takes = s.takes := (congrArg State.takes (refDown_frame s e) :)
@[simp] theorem refDown_takeFree (s : State) (e : Nat) : (s.refDown e).takeFree = s.takeFree := (congrArg State.takeFree (refDown_frame s e) :)
@[simp] theorem refDown_ready (s : State) (e : Nat) : (s.refDown e).ready = s.ready := (congrArg State.ready (refDown_frame s e) :)
@[simp] theorem refDown_mem (s : State) (e : Nat) : (s.refDown e).mem = s.mem := (congrArg State.mem (refDown_frame s e) :)
@[simp] theorem refDown_chans (s : State) (e : Nat) : (s.refDown e).chans = s.chans := (congrArg State.chans (refDown_frame s e) :)
@[simp] theorem refDown_links (s : State) (e : Nat) : (s.refDown e).links = s.links := (congrArg State.links (refDown_frame s e) :)
@[simp] theorem refDown_job (s : State) (e : Nat) (k : Nat) : (s.refDown e).job k = s.job k := (congrArg (fun u => State.job u k) (refDown_frame s e) :)
@[simp] theorem refDown_seg (s : State) (e : Nat) (k : Nat) : (s.refDown e).seg k = s.seg k := (congrArg (fun u => State.seg u k) (refDown_frame s e) :)
@[simp] theorem refDown_cue (s : State) (e : Nat) (k : Nat) : (s.refDown e).cue k = s.cue k := (congrArg (fun u => State.cue u k) (refDown_frame s e) :)
@[simp] theorem refDown_take (s : State) (e : Nat) (k : Nat) : (s.refDown e).take k = s.take k := (congrArg (fun u => State.take u k) (refDown_frame s e) :)
@[simp] theorem refDown_hold (s : State) (e : Nat) (k : Nat) : (s.refDown e).hold k = s.hold k := (congrArg (fun u => State.hold u k) (refDown_frame s e) :)
@[simp] theorem refDown_placement (s : State) (e : Nat) (k : Nat) : (s.refDown e).placement k = s.placement k := (congrArg (fun u => State.placement u k) (refDown_frame s e) :)
@[simp] theorem refDown_chan (s : State) (e : Nat) (k : Nat) : (s.refDown e).chan k = s.chan k := (congrArg (fun u => State.chan u k) (refDown_frame s e) :)
@[simp] theorem refDown_link (s : State) (e : Nat) (k : Nat) : (s.refDown e).link k = s.link k := (congrArg (fun u => State.link u k) (refDown_frame s e) :)

theorem enterQueue_frame (s : State) (t : Nat) :
    s.enterQueue t = { s with
      takes := (s.enterQueue t).takes
      ready := (s.enterQueue t).ready
      readiness := (s.enterQueue t).readiness } := by
  unfold enterQueue
  dsimp only; split
  · rfl
  · split <;> split <;> rfl
@[simp] theorem enterQueue_jobs (s : State) (t : Nat) : (s.enterQueue t).jobs = s.jobs := (congrArg State.jobs (enterQueue_frame s t) :)
@[simp] theorem enterQueue_segs (s : State) (t : Nat) : (s.enterQueue t).segs = s.segs := (congrArg State.segs (enterQueue_frame s t) :)
@[simp] theorem enterQueue_segFree (s : State) (t : Nat) : (s.enterQueue t).segFree = s.segFree := (congrArg State.segFree (enterQueue_frame s t) :)
@[simp] theorem enterQueue_places (s : State) (t : Nat) : (s.enterQueue t).places = s.places := (congrArg State.places (enterQueue_frame s t) :)
@[simp] theorem enterQueue_cues (s : State) (t : Nat) : (s.enterQueue t).cues = s.cues := (congrArg State.cues (enterQueue_frame s t) :)
@[simp] theorem enterQueue_cueFree (s : State) (t : Nat) : (s.enterQueue t).cueFree = s.cueFree := (congrArg State.cueFree (enterQueue_frame s t) :)
@[simp] theorem enterQueue_takeFree (s : State) (t : Nat) : (s.enterQueue t).takeFree = s.takeFree := (congrArg State.takeFree (enterQueue_frame s t) :)
@[simp] theorem enterQueue_exts (s : State) (t : Nat) : (s.enterQueue t).exts = s.exts := (congrArg State.exts (enterQueue_frame s t) :)
@[simp] theorem enterQueue_freeList (s : State) (t : Nat) : (s.enterQueue t).freeList = s.freeList := (congrArg State.freeList (enterQueue_frame s t) :)
@[simp] theorem enterQueue_scrubList (s : State) (t : Nat) : (s.enterQueue t).scrubList = s.scrubList := (congrArg State.scrubList (enterQueue_frame s t) :)
@[simp] theorem enterQueue_waiting (s : State) (t : Nat) : (s.enterQueue t).waiting = s.waiting := (congrArg State.waiting (enterQueue_frame s t) :)
@[simp] theorem enterQueue_port (s : State) (t : Nat) : (s.enterQueue t).port = s.port := (congrArg State.port (enterQueue_frame s t) :)
@[simp] theorem enterQueue_mem (s : State) (t : Nat) : (s.enterQueue t).mem = s.mem := (congrArg State.mem (enterQueue_frame s t) :)
@[simp] theorem enterQueue_chans (s : State) (t : Nat) : (s.enterQueue t).chans = s.chans := (congrArg State.chans (enterQueue_frame s t) :)
@[simp] theorem enterQueue_links (s : State) (t : Nat) : (s.enterQueue t).links = s.links := (congrArg State.links (enterQueue_frame s t) :)
@[simp] theorem enterQueue_notices (s : State) (t : Nat) : (s.enterQueue t).notices = s.notices := (congrArg State.notices (enterQueue_frame s t) :)
@[simp] theorem enterQueue_job (s : State) (t : Nat) (k : Nat) : (s.enterQueue t).job k = s.job k := (congrArg (fun u => State.job u k) (enterQueue_frame s t) :)
@[simp] theorem enterQueue_seg (s : State) (t : Nat) (k : Nat) : (s.enterQueue t).seg k = s.seg k := (congrArg (fun u => State.seg u k) (enterQueue_frame s t) :)
@[simp] theorem enterQueue_cue (s : State) (t : Nat) (k : Nat) : (s.enterQueue t).cue k = s.cue k := (congrArg (fun u => State.cue u k) (enterQueue_frame s t) :)
@[simp] theorem enterQueue_hold (s : State) (t : Nat) (k : Nat) : (s.enterQueue t).hold k = s.hold k := (congrArg (fun u => State.hold u k) (enterQueue_frame s t) :)
@[simp] theorem enterQueue_ext (s : State) (t : Nat) (k : Nat) : (s.enterQueue t).ext k = s.ext k := (congrArg (fun u => State.ext u k) (enterQueue_frame s t) :)
@[simp] theorem enterQueue_placement (s : State) (t : Nat) (k : Nat) : (s.enterQueue t).placement k = s.placement k := (congrArg (fun u => State.placement u k) (enterQueue_frame s t) :)
@[simp] theorem enterQueue_chan (s : State) (t : Nat) (k : Nat) : (s.enterQueue t).chan k = s.chan k := (congrArg (fun u => State.chan u k) (enterQueue_frame s t) :)
@[simp] theorem enterQueue_link (s : State) (t : Nat) (k : Nat) : (s.enterQueue t).link k = s.link k := (congrArg (fun u => State.link u k) (enterQueue_frame s t) :)

theorem leaveQueue_frame (s : State) (t : Nat) :
    s.leaveQueue t = { s with ready := (s.leaveQueue t).ready } := rfl
@[simp] theorem leaveQueue_jobs (s : State) (t : Nat) : (s.leaveQueue t).jobs = s.jobs := (congrArg State.jobs (leaveQueue_frame s t) :)
@[simp] theorem leaveQueue_segs (s : State) (t : Nat) : (s.leaveQueue t).segs = s.segs := (congrArg State.segs (leaveQueue_frame s t) :)
@[simp] theorem leaveQueue_segFree (s : State) (t : Nat) : (s.leaveQueue t).segFree = s.segFree := (congrArg State.segFree (leaveQueue_frame s t) :)
@[simp] theorem leaveQueue_places (s : State) (t : Nat) : (s.leaveQueue t).places = s.places := (congrArg State.places (leaveQueue_frame s t) :)
@[simp] theorem leaveQueue_cues (s : State) (t : Nat) : (s.leaveQueue t).cues = s.cues := (congrArg State.cues (leaveQueue_frame s t) :)
@[simp] theorem leaveQueue_cueFree (s : State) (t : Nat) : (s.leaveQueue t).cueFree = s.cueFree := (congrArg State.cueFree (leaveQueue_frame s t) :)
@[simp] theorem leaveQueue_takes (s : State) (t : Nat) : (s.leaveQueue t).takes = s.takes := (congrArg State.takes (leaveQueue_frame s t) :)
@[simp] theorem leaveQueue_takeFree (s : State) (t : Nat) : (s.leaveQueue t).takeFree = s.takeFree := (congrArg State.takeFree (leaveQueue_frame s t) :)
@[simp] theorem leaveQueue_exts (s : State) (t : Nat) : (s.leaveQueue t).exts = s.exts := (congrArg State.exts (leaveQueue_frame s t) :)
@[simp] theorem leaveQueue_freeList (s : State) (t : Nat) : (s.leaveQueue t).freeList = s.freeList := (congrArg State.freeList (leaveQueue_frame s t) :)
@[simp] theorem leaveQueue_scrubList (s : State) (t : Nat) : (s.leaveQueue t).scrubList = s.scrubList := (congrArg State.scrubList (leaveQueue_frame s t) :)
@[simp] theorem leaveQueue_waiting (s : State) (t : Nat) : (s.leaveQueue t).waiting = s.waiting := (congrArg State.waiting (leaveQueue_frame s t) :)
@[simp] theorem leaveQueue_port (s : State) (t : Nat) : (s.leaveQueue t).port = s.port := (congrArg State.port (leaveQueue_frame s t) :)
@[simp] theorem leaveQueue_mem (s : State) (t : Nat) : (s.leaveQueue t).mem = s.mem := (congrArg State.mem (leaveQueue_frame s t) :)
@[simp] theorem leaveQueue_chans (s : State) (t : Nat) : (s.leaveQueue t).chans = s.chans := (congrArg State.chans (leaveQueue_frame s t) :)
@[simp] theorem leaveQueue_links (s : State) (t : Nat) : (s.leaveQueue t).links = s.links := (congrArg State.links (leaveQueue_frame s t) :)
@[simp] theorem leaveQueue_notices (s : State) (t : Nat) : (s.leaveQueue t).notices = s.notices := (congrArg State.notices (leaveQueue_frame s t) :)
@[simp] theorem leaveQueue_job (s : State) (t : Nat) (k : Nat) : (s.leaveQueue t).job k = s.job k := (congrArg (fun u => State.job u k) (leaveQueue_frame s t) :)
@[simp] theorem leaveQueue_seg (s : State) (t : Nat) (k : Nat) : (s.leaveQueue t).seg k = s.seg k := (congrArg (fun u => State.seg u k) (leaveQueue_frame s t) :)
@[simp] theorem leaveQueue_cue (s : State) (t : Nat) (k : Nat) : (s.leaveQueue t).cue k = s.cue k := (congrArg (fun u => State.cue u k) (leaveQueue_frame s t) :)
@[simp] theorem leaveQueue_take (s : State) (t : Nat) (k : Nat) : (s.leaveQueue t).take k = s.take k := (congrArg (fun u => State.take u k) (leaveQueue_frame s t) :)
@[simp] theorem leaveQueue_hold (s : State) (t : Nat) (k : Nat) : (s.leaveQueue t).hold k = s.hold k := (congrArg (fun u => State.hold u k) (leaveQueue_frame s t) :)
@[simp] theorem leaveQueue_ext (s : State) (t : Nat) (k : Nat) : (s.leaveQueue t).ext k = s.ext k := (congrArg (fun u => State.ext u k) (leaveQueue_frame s t) :)
@[simp] theorem leaveQueue_placement (s : State) (t : Nat) (k : Nat) : (s.leaveQueue t).placement k = s.placement k := (congrArg (fun u => State.placement u k) (leaveQueue_frame s t) :)
@[simp] theorem leaveQueue_chan (s : State) (t : Nat) (k : Nat) : (s.leaveQueue t).chan k = s.chan k := (congrArg (fun u => State.chan u k) (leaveQueue_frame s t) :)
@[simp] theorem leaveQueue_link (s : State) (t : Nat) (k : Nat) : (s.leaveQueue t).link k = s.link k := (congrArg (fun u => State.link u k) (leaveQueue_frame s t) :)

end Sys2Proof.Machine.State
end

