-- ==== Sys2Proof/Laws/Operations.lean ====
section
/-! SUPPORT. What the guarded operations come to once their guards are met: the taking of a routed request, a request whose
checks pass, a change of the stream a channel carries, and the frames of a change to one channel or link. -/

set_option Elab.async false

namespace Sys2Proof.Machine

/-- A routed request is taken: the owner's answer is handed back. -/
theorem serve_routed {p : Port} {r : Request} {s : State} {who : Party} {tag : Byte} (h : s.routed p r = some (who, tag))
    (owner : Party → State → Ans) : serve p r s owner = .next (finish p r tag (owner who s)) := by
  unfold serve; rw [h]

/-- A request whose checks all pass is carried out. -/
theorem checked_pass {s : State} {checks : List (Bool × ReplyCode)} {taken : Ans} (h : ∀ c ∈ checks, c.1 = false) :
    checked s checks taken = taken := by
  have e : firstFailing checks = none := by
    induction checks with
    | nil => rfl
    | cons c rest ih =>
      obtain ⟨b, x⟩ := c
      have hb : b = false := h _ (List.mem_cons_self ..)
      subst hb
      exact ih fun c hc => h c (List.mem_cons_of_mem _ hc)
  unfold checked; rw [e]

/-- An answer with no notice after it is its reply. -/
theorem finish_plain (p : Port) (r : Request) (tag : Byte) (a : Ans) (h : a.after = none) :
    finish p r tag a = a.state.reply p r tag a.code a.result := by
  unfold finish; rw [h]

/-- A request carried out, with its results. -/
theorem finish_done (p : Port) (r : Request) (tag : Byte) (s : State) (items : List Item) :
    finish p r tag (done s items) = s.reply p r tag .done { fixed := items } := rfl

/-- A routed request that its owner carries out: the reply DONE with its results, on the state the owner made. -/
theorem serve_done {p : Port} {r : Request} {s t : State} {who : Party} {tag : Byte} {owner : Party → State → Ans}
    {items : List Item} (h : s.routed p r = some (who, tag)) (e : owner who s = done t items) :
    serve p r s owner = .next (t.reply p r tag .done { fixed := items }) := by
  rw [serve_routed h, e, finish_done]

/-- A routed request whose checks pass and whose effect is carried out. -/
theorem serve_checked {p : Port} {r : Request} {s t : State} {who : Party} {tag : Byte} {owner : Party → State → Ans}
    {checks : List (Bool × ReplyCode)} {items : List Item} (h : s.routed p r = some (who, tag))
    (e : owner who s = checked s checks (done t items)) (k : ∀ c ∈ checks, c.1 = false) :
    serve p r s owner = .next (t.reply p r tag .done { fixed := items }) :=
  serve_done h (e.trans (checked_pass k))

/-- A routed request that is refused changes nothing but the reply it hands back. -/
theorem serve_refused {p : Port} {r : Request} {s : State} {who : Party} {tag : Byte} {owner : Party → State → Ans}
    {c : ReplyCode} (h : s.routed p r = some (who, tag)) (e : owner who s = refuse c s) :
    serve p r s owner = .next (s.reply p r tag c {}) := by
  rw [serve_routed h, e]; rfl

/-- The first check that fails gives the refusal. -/
theorem checked_refuse {s : State} {pre post : List (Bool × ReplyCode)} {c : ReplyCode} {taken : Ans}
    (h : ∀ x ∈ pre, x.1 = false) : checked s (pre ++ (true, c) :: post) taken = refuse c s := by
  have e : firstFailing (pre ++ (true, c) :: post) = some c := by
    induction pre with
    | nil => rfl
    | cons x rest ih =>
      obtain ⟨b, y⟩ := x
      have hb : b = false := h _ (List.mem_cons_self ..)
      subst hb
      exact ih fun z hz => h z (List.mem_cons_of_mem _ hz)
  unfold checked; rw [e]

namespace State

variable {s : State} {ch : Nat}

theorem captureOf_eq {c : Capture} (h : (s.chan ch).stream = .capture c) : s.captureOf ch = some c := by
  unfold captureOf; rw [h]
theorem playOf_eq {p : Play} (h : (s.chan ch).stream = .play p) : s.playOf ch = some p := by
  unfold playOf; rw [h]
theorem readbackOf_eq {r : Readback} (h : (s.chan ch).stream = .readback r) : s.readbackOf ch = some r := by
  unfold readbackOf; rw [h]
theorem exportOf_eq {e : Exporting} (h : (s.chan ch).stream = .exporting e) : s.exportOf ch = some e := by
  unfold exportOf; rw [h]
theorem captureFields_capture {c : Capture} (h : (s.chan ch).stream = .capture c) :
    s.captureFields ch = some (c.job, c.ctx) := by
  unfold captureFields; rw [h]
theorem captureFields_readback {r : Readback} (h : (s.chan ch).stream = .readback r) :
    s.captureFields ch = some (r.job, r.parked) := by
  unfold captureFields; rw [h]

theorem updCapture_eq {c : Capture} (h : (s.chan ch).stream = .capture c) (f : Capture → Capture) :
    s.updCapture ch f = s.setChan ch { s.chan ch with stream := .capture (f c) } := by
  unfold updCapture; rw [captureOf_eq h]; rfl
theorem updPlay_eq {p : Play} (h : (s.chan ch).stream = .play p) (f : Play → Play) :
    s.updPlay ch f = s.setChan ch { s.chan ch with stream := .play (f p) } := by
  unfold updPlay; rw [playOf_eq h]; rfl
theorem updReadback_eq {r : Readback} (h : (s.chan ch).stream = .readback r) (f : Readback → Readback) :
    s.updReadback ch f = s.setChan ch { s.chan ch with stream := .readback (f r) } := by
  unfold updReadback; rw [readbackOf_eq h]; rfl
/-- A change of the stream of a channel just written. -/
@[simp] theorem updCapture_setChan (s : State) (x : Channel) (f : Capture → Capture) :
    (s.setChan ch x).updCapture ch f = match x.stream with
      | .capture c => (s.setChan ch x).setChan ch { x with stream := .capture (f c) }
      | .idle | .play _ | .readback _ | .exporting _ => s.setChan ch x := by
  unfold updCapture captureOf; rw [chan_setChan]; cases h : x.stream <;> simp [updChan]
@[simp] theorem updPlay_setChan (s : State) (x : Channel) (f : Play → Play) :
    (s.setChan ch x).updPlay ch f = match x.stream with
      | .play p => (s.setChan ch x).setChan ch { x with stream := .play (f p) }
      | .idle | .capture _ | .readback _ | .exporting _ => s.setChan ch x := by
  unfold updPlay playOf; rw [chan_setChan]; cases h : x.stream <;> simp [updChan]
@[simp] theorem updChan_setChan (s : State) (x : Channel) (f : Channel → Channel) :
    (s.setChan ch x).updChan ch f = (s.setChan ch x).setChan ch (f x) := by
  unfold updChan; rw [chan_setChan]
@[simp] theorem captureOf_setChan (s : State) (x : Channel) : (s.setChan ch x).captureOf ch = match x.stream with
    | .capture c => some c
    | .idle | .play _ | .readback _ | .exporting _ => none := by
  unfold captureOf; rw [chan_setChan] <;> cases x.stream <;> rfl
@[simp] theorem playOf_setChan (s : State) (x : Channel) : (s.setChan ch x).playOf ch = match x.stream with
    | .play p => some p
    | .idle | .capture _ | .readback _ | .exporting _ => none := by
  unfold playOf; rw [chan_setChan] <;> cases x.stream <;> rfl
theorem updChan_eq (f : Channel → Channel) : s.updChan ch f = s.setChan ch (f (s.chan ch)) := rfl
theorem updLink_eq (f : Link → Link) : s.updLink ch f = s.setLink ch (f (s.link ch)) := rfl
theorem updJob_eq (f : Job → Job) : s.updJob ch f = s.setJob ch (f (s.job ch)) := rfl
theorem updPlacement_eq (f : Placement → Placement) :
    s.updPlacement ch f = s.setPlacement ch (f (s.placement ch)) := rfl

/-- Two writes of one channel: the later stands. -/
theorem setChan_setChan_chan (x y : Channel) (k : Nat) : ((s.setChan ch x).setChan ch y).chan k = (s.setChan ch y).chan k := by
  by_cases h : k = ch
  · subst h; simp
  · simp [chan_setChan_ne, h]


end State

/-- The bytes just written read back as their number. -/
theorem Memory.read_write : ∀ (n a v : Nat) (m : List Host.Cell),
    Memory.read (Memory.write n a v m) n a = v % 256 ^ n := by
  intro n
  induction n with
  | zero => intro a v m; simp [Memory.read, Nat.mod_one]
  | succ n ih =>
    intro a v m
    simp only [Memory.read, Memory.write]
    rw [ih, Memory.get_write_outside _ _ _ _ _ (by omega), Table.get_put_self, Nat.pow_succ', Nat.mod_mul]
    simp

/-- A frame just written reads back. -/
theorem State.readFrame_writeFrame (s : State) (e f : Nat) (x : Frame) : (s.writeFrame e f x).readFrame e f = x := by
  unfold State.readFrame State.writeFrame
  dsimp only
  rw [Memory.read_write]
  have h := x.isLt
  apply BitVec.eq_of_toNat_eq
  rw [BitVec.toNat_ofNat, Nat.mod_eq_of_lt, Nat.mod_eq_of_lt]
  · exact lt_of_lt_of_eq h (by decide +kernel)
  · rw [Nat.mod_eq_of_lt]
    · exact h
    · exact lt_of_lt_of_eq h (by decide +kernel)

/-- A claim granted drives its own signals on the store interface. -/
@[simp] theorem State.storeWire_startAccess (s : State) (c : Claim) (burst : Nat) :
    (s.startAccess c burst).storeWire = some (c.signals s.bank) := rfl

/-- A channel context written is that channel set, and nothing else. -/
theorem channelSetTo_setChan (s : State) (ch : Nat) (x : Channel) : ChannelSetTo s (s.setChan ch x) ch x :=
  ⟨by simp, fun k h => State.chan_setChan_ne _ _ _ _ h, rfl⟩

/-- A channel set twice is set to the later. -/
theorem ChannelSetTo.setChan {s u : State} {ch : Nat} {x : Channel} (h : ChannelSetTo s u ch x) (y : Channel) :
    ChannelSetTo s (u.setChan ch y) ch y :=
  ⟨by simp, fun k hk => (State.chan_setChan_ne _ _ _ _ hk).trans (h.2.1 k hk), by
    have e := h.2.2
    generalize hv : u.setChan ch y = v
    subst hv
    unfold State.setChan
    rw [e]⟩

/-- The claims of a channel withdrawn, and its context written. -/
theorem channelHaltedTo_withdraw (s : State) (ch : Nat) (x : Channel) :
    ChannelHaltedTo s ((s.withdraw ch).setChan ch x) ch x := by
  refine ⟨by simp, fun k h => State.chan_setChan_ne _ _ _ _ h, fun c => ?_, rfl, rfl⟩
  change c ∈ s.waiting.filter (fun c => c.use.chan? != some ch) ↔ _
  simp [List.mem_filter]

theorem ChannelHaltedTo.setChan {s u : State} {ch : Nat} {x : Channel} (h : ChannelHaltedTo s u ch x) (y : Channel) :
    ChannelHaltedTo s (u.setChan ch y) ch y :=
  ⟨by simp, fun k hk => (State.chan_setChan_ne _ _ _ _ hk).trans (h.2.1 k hk), h.2.2.1, h.2.2.2.1, by
    have e := h.2.2.2.2
    unfold State.setChan
    rw [e]⟩

/-- A link record written is that link set, and nothing else. -/
theorem linkSetTo_setLink (s : State) (l : Nat) (x : Link) : LinkSetTo s (s.setLink l x) l x :=
  ⟨by simp, fun k h => State.link_setLink_ne _ _ _ _ h, rfl⟩

end Sys2Proof.Machine
end

