-- ==== Sys2Proof/Laws/Wire.lean ====
section
/-! SUPPORT. Bytes and readers: a number, a presence word and each operand form written as bytes reads back as it was
written, whatever follows (`Reads`). -/

set_option Elab.async false

open Sys2Proof

namespace Sys2Proof.Machine

/-- So many bytes. -/
theorem toBytes_length (n v : Nat) : (toBytes n v).length = n := by
  induction n generalizing v with
  | zero => rfl
  | succ n ih => simp [toBytes, ih]

theorem ofBytes_append (a : List Byte) (b : Byte) : ofBytes (a ++ [b]) = ofBytes a * 256 + b.toNat := by
  simp [ofBytes]

/-- A number written in `n` bytes reads as itself, within their range. -/
theorem ofBytes_toBytes (n v : Nat) : ofBytes (toBytes n v) = v % 256 ^ n := by
  induction n generalizing v with
  | zero => simp [toBytes, ofBytes, Nat.mod_one]
  | succ n ih =>
    rw [toBytes, ofBytes_append, ih, Nat.pow_succ', Nat.mod_mul]
    simp; omega

/-- A number in range is read back, with the bytes after it. -/
theorem num_toBytes (n v : Nat) (rest : List Byte) (h : v < 256 ^ n) :
    Reader.num n (toBytes n v ++ rest) = some (v, rest) := by
  unfold Reader.num
  rw [if_neg (by simp [toBytes_length])]
  rw [show (toBytes n v ++ rest).take n = toBytes n v by
    rw [List.take_append_of_le_length (by simp [toBytes_length])]; rw [List.take_of_length_le (by simp [toBytes_length])]]
  rw [show (toBytes n v ++ rest).drop n = rest by
    rw [List.drop_append_of_le_length (by simp [toBytes_length]), List.drop_of_length_le (by simp [toBytes_length])]; rfl]
  rw [ofBytes_toBytes, Nat.mod_eq_of_lt h]

theorem bind_eq {α β} (r : Reader α) (f : α → Reader β) (bs : List Byte) {x : α} {rest : List Byte} (h : r bs = some (x, rest)) :
    (r >>= f) bs = f x rest := by
  simp [bind, StateT.bind, h]
theorem pure_eq {α} (x : α) (bs : List Byte) : (pure x : Reader α) bs = some (x, bs) := rfl
theorem map_eq {α β} (r : Reader α) (f : α → β) (bs : List Byte) {x : α} {rest : List Byte} (h : r bs = some (x, rest)) :
    (f <$> r) bs = some (f x, rest) := by
  simp [Functor.map, StateT.map, h, bind]

theorem bits_toBytes (n w v : Nat) (rest : List Byte) (h : v < 256 ^ n) :
    Reader.bits n w (toBytes n v ++ rest) = some (BitVec.ofNat w v, rest) := by
  unfold Reader.bits; rw [bind_eq _ _ _ (num_toBytes n v rest h)]; rfl

theorem ref_refBytes (r : Ref) (rest : List Byte) (h : r.fits = true) : Reader.ref (refBytes r ++ rest) = some (r, rest) := by
  have h' : r.idx < 256 ^ 2 := by simpa [Ref.fits, fits2] using h
  unfold Reader.ref refBytes
  rw [List.append_assoc, bind_eq _ _ _ (num_toBytes 2 _ _ h')]
  rw [bind_eq _ _ _ (x := r.issue) (rest := rest)]
  · rfl
  · have := bits_toBytes 1 8 r.issue.toNat rest (by have := r.issue.isLt; omega)
    simpa [toBytes] using this

/-- A reader reads `x` from these bytes, whatever follows them. -/
def Reads {α : Type} (r : Reader α) (bytes : List Byte) (x : α) : Prop := ∀ rest, r (bytes ++ rest) = some (x, rest)

theorem Reads.bind {α β : Type} {r : Reader α} {f : α → Reader β} {a b : List Byte} {x : α} {y : β} (h : Reads r a x)
    (k : Reads (f x) b y) : Reads (r >>= f) (a ++ b) y := fun rest => by
  rw [List.append_assoc, bind_eq r f _ (h (b ++ rest)), k rest]
theorem Reads.last {α β : Type} {r : Reader α} {f : α → Reader β} {a : List Byte} {x : α} {y : β} (h : Reads r a x)
    (k : Reads (f x) [] y) : Reads (r >>= f) a y := by
  have := h.bind k; rwa [List.append_nil] at this
theorem Reads.pure {α : Type} (x : α) : Reads (Pure.pure x : Reader α) [] x := fun _ => rfl
theorem Reads.map {α β : Type} {r : Reader α} {a : List Byte} {x : α} (f : α → β) (h : Reads r a x) : Reads (f <$> r) a (f x) :=
  fun rest => map_eq r f _ (h rest)
theorem Reads.num (n v : Nat) (h : v < 256 ^ n) : Reads (Reader.num n) (toBytes n v) v := fun rest => num_toBytes n v rest h
theorem Reads.bits (n w : Nat) (v : BitVec w) (h : 2 ^ w ≤ 256 ^ n) : Reads (Reader.bits n w) (toBytes n v.toNat) v := fun rest => by
  rw [bits_toBytes n w _ rest (lt_of_lt_of_le v.isLt h)]; simp
theorem Reads.byte (v : Byte) : Reads (Reader.bits 1 8) [v] v := fun rest => by
  have := Reads.bits 1 8 v (by decide) rest
  simpa [toBytes] using this
theorem Reads.ref (r : Ref) (h : r.fits = true) : Reads Reader.ref (refBytes r) r := fun rest => ref_refBytes r rest h
theorem Reads.skip {α : Type} (w i : Nat) (r : Reader α) (h : w.testBit i = false) : Reads (Reader.part w i r) [] none := by
  unfold Reader.part; rw [h]; exact .pure _
theorem Reads.take {α : Type} {w i : Nat} {r : Reader α} {a : List Byte} {x : α} (h : w.testBit i = true) (k : Reads r a x) :
    Reads (Reader.part w i r) a (some x) := by
  unfold Reader.part; rw [h]; exact k.map _
theorem Reads.presence (n parts v : Nat) (h : v < 256 ^ n) (k : v < 2 ^ parts) : Reads (Reader.presence n parts) (toBytes n v) v :=
  fun rest => by unfold Reader.presence; rw [num_toBytes n v rest h]; simp [k]
theorem Reads.oneOf {α : Type} {forms : List (Reader α)} {r : Reader α} {i : Nat} {a : List Byte} {x : α} (h : forms[i]? = some r)
    (b : i < 256) (k : Reads r a x) : Reads (Reader.oneOf forms) (toBytes 1 i ++ a) x := fun rest => by
  unfold Reader.oneOf; rw [List.append_assoc, num_toBytes 1 i _ (by simpa using b)]; simp [h, k rest]
/-- Operands that read as a request, with no bytes left, are that request. -/
theorem Reads.parse {console : Bool} {kind : Nat} {bytes : List Byte} {r : Request} (h : Reads (Reader.request console kind) bytes r) :
    parseRequest console kind bytes = some r := by
  have := h []; unfold parseRequest; rw [List.append_nil] at this; rw [this]

theorem fits1_lt {n : Nat} (h : fits1 n = true) : n < 256 ^ 1 := by simpa [fits1] using h
theorem fits2_lt {n : Nat} (h : fits2 n = true) : n < 256 ^ 2 := by simpa [fits2] using h
theorem fits3_lt {n : Nat} (h : fits3 n = true) : n < 256 ^ 3 := by simpa [fits3] using h

theorem Reads.key (k : JobKey) : Reads Reader.key (keyBytes k) k := by
  unfold Reader.key keyBytes
  simp only [List.append_assoc]
  exact .bind (.bits 4 32 _ (by decide)) (.bind (.bits 1 6 _ (by decide)) (.bind (.bits 1 2 _ (by decide)) (.bind (.bits 1 3 _ (by decide)) (.last (.bits 1 1 _ (by decide)) (.pure _)))))
theorem Reads.window (w : WindowSpec) (h : w.fits = true) : Reads Reader.window (windowBytes w) w := by
  simp only [WindowSpec.fits, Bool.and_eq_true] at h
  unfold Reader.window windowBytes
  simp only [List.append_assoc]
  exact .bind (.num 1 _ (fits1_lt h.1.1)) (.bind (.num 1 _ (fits1_lt h.1.2)) (.last (.num 1 _ (fits1_lt h.2)) (.pure _)))
theorem Reads.placeOf (p : Place) (h : p.fits = true) : Reads Reader.place (placeBytes p) p := by
  unfold Reader.place
  cases p <;> simp only [Place.fits, Bool.and_eq_true] at h <;> simp only [placeBytes, List.append_assoc]
  · exact .oneOf rfl (by decide) (.bind (.ref _ h.1) (.last (.num 3 _ (fits3_lt h.2)) (.pure _)))
  · exact .oneOf rfl (by decide) (.last (.ref _ h) (.pure _))
  · exact .oneOf rfl (by decide) (.bind (.ref _ h.1) (.last (.num 3 _ (fits3_lt h.2)) (.pure _)))
  · exact .oneOf rfl (by decide) (.last (.ref _ h) (.pure _))
theorem Reads.cueOrPosOf (p : CueOrPos) (h : p.fits = true) : Reads Reader.cueOrPos (cueOrPosBytes p) p := by
  unfold Reader.cueOrPos
  cases p <;> simp only [CueOrPos.fits] at h <;> simp only [cueOrPosBytes]
  · exact .oneOf rfl (by decide) (.last (.ref _ h) (.pure _))
  · exact .oneOf rfl (by decide) (.last (.num 3 _ (fits3_lt h)) (.pure _))
/-- An optional operand reads back. -/
theorem Reads.opt {α : Type} {r : Reader α} (o : Option α) (f : α → List Byte) (h : ∀ x, o = some x → Reads r (f x) x) :
    Reads (Reader.optional r) (optionalBytes (o.map f)) o := by
  unfold Reader.optional optionalBytes partsBytes
  cases o with
  | none => exact .bind (.presence 1 1 0 (by decide) (by decide)) (.skip _ _ _ rfl)
  | some x =>
    have := Reads.bind (.presence 1 1 1 (by decide) (by decide)) (f := fun w => Reader.part w 0 r) (.take rfl (h x rfl))
    simpa [presenceOf, bit] using this
/-- What only the console carries reads back. -/
theorem Reads.consoleOnly {α : Type} {r : Reader α} (console : Bool) (o : Option α) (f : α → List Byte) (hc : o.isSome = console)
    (h : ∀ x, o = some x → Reads r (f x) x) :
    Reads (Reader.ifConsole console r) ((o.map f).getD []) o := by
  unfold Reader.ifConsole
  cases o with
  | none => simp at hc; subst hc; exact .pure _
  | some x => simp at hc; subst hc; exact (h x rfl).map _
/-- A part selected by its presence bit reads back. -/
theorem Reads.partOpt {α : Type} {r : Reader α} {w i : Nat} (o : Option α) (f : α → List Byte) (hw : w.testBit i = o.isSome)
    (h : ∀ x, o = some x → Reads r (f x) x) : Reads (Reader.part w i r) ((o.map f).getD []) o := by
  cases o with
  | none => exact .skip _ _ _ hw
  | some x => exact .take hw (h x rfl)
/-- A presence word has no bit beyond its parts. -/
theorem presence_lt {α} (l : List (Option α)) : presenceOf l < 2 ^ l.length := by
  induction l with
  | nil => simp [presenceOf]
  | cons o l ih => have : bit o.isSome ≤ 1 := by unfold bit; split <;> omega
                   simp only [presenceOf, List.length_cons, Nat.pow_succ]; omega
/-- A bit of a presence word says whether its part is present. -/
theorem presence_bit {α} (l : List (Option α)) (i : Nat) (o) (h : l[i]? = some o) : (presenceOf l).testBit i = o.isSome := by
  induction l generalizing i with
  | nil => simp at h
  | cons q l ih =>
    cases i with
    | zero => simp at h; subst h; simp [presenceOf, Nat.testBit_zero, bit]; cases q <;> simp
    | succ i =>
      simp at h
      rw [presenceOf, Nat.testBit_succ]
      rw [show (bit q.isSome + 2 * presenceOf l) / 2 = presenceOf l by
        have : bit q.isSome ≤ 1 := by unfold bit; split <;> omega
        omega]
      exact ih i h
theorem parts_flat (l : List (Option (List Byte))) : (l.filterMap id).flatten = (l.map fun o => o.getD []).flatten := by
  induction l with
  | nil => rfl
  | cons o l ih => cases o <;> simpa using ih

theorem getFits1 {o : Option Nat} (h : fitsIf fits1 o = true) : ∀ x, o = some x → Reads (Reader.num 1) (toBytes 1 x) x := by
  rintro x rfl; exact .num 1 _ (fits1_lt h)
theorem getFits3 {o : Option Nat} (h : fitsIf fits3 o = true) : ∀ x, o = some x → Reads (Reader.num 3) (toBytes 3 x) x := by
  rintro x rfl; exact .num 3 _ (fits3_lt h)


/-- Optional parts on the wire: the presence word, then each part, an absent one taking no bytes. -/
theorem parts_eq (n : Nat) (l : List (Option (List Byte))) : partsBytes n l = toBytes n (presenceOf l) ++ (l.map fun o => o.getD []).flatten := by
  unfold partsBytes; rw [parts_flat]

/-- The action matrix reads back. -/
theorem Reads.matrixOf (m : Matrix) : Reads Reader.matrix (toBytes 2 (matrixWord m)) m := by
  unfold Reader.matrix
  obtain ⟨a, b, c, d, e, f, g⟩ := m
  refine .last (.num 2 _ ?_) ?_
  · cases a <;> cases b <;> cases c <;> cases d <;> cases e <;> cases f <;> cases g <;> decide
  · have : ∀ a b c d e f g : Bool, (let w := matrixWord ⟨a,b,c,d,e,f,g⟩;
      ({ endReload := w.testBit 0, endChain := w.testBit 1, endNotify := w.testBit 2, matchReload := w.testBit 3
         matchChain := w.testBit 4, matchNotify := w.testBit 5, haltNotify := w.testBit 8 } : Matrix)) = ⟨a,b,c,d,e,f,g⟩ := by decide
    have := this a b c d e f g
    dsimp only at this
    rw [this]; exact .pure _

theorem Reads.pairOf {α β : Type} {p : Reader α} {q : Reader β} {a b : List Byte} {x : α} {y : β} (h : Reads p a x) (k : Reads q b y) :
    Reads (Reader.pair p q) (a ++ b) (x, y) := by
  unfold Reader.pair; exact .bind h (.last k (.pure _))

/-- The PLAY SETUP directive reads back. -/
theorem Reads.setup (d : PlaySetup) (h : d.fits = true) : Reads Reader.playSetup (playSetupBytes d) d := by
  simp only [PlaySetup.fits, Bool.and_eq_true] at h
  obtain ⟨⟨⟨⟨⟨h0, h1⟩, h2⟩, h3⟩, h4⟩, h5⟩ := h
  unfold playSetupBytes Reader.playSetup
  rw [parts_eq]
  generalize hl : [d.pos.map (toBytes 3), d.base.map (toBytes 3), d.remaining.map (toBytes 3), d.baseCount.map (toBytes 3),
      d.pattern.map fun x => toBytes 3 x.toNat, d.mask.map fun x => toBytes 3 x.toNat,
      d.matrix.map fun m => toBytes 2 (matrixWord m), d.mode.map (toBytes 1),
      d.window.map fun w => toBytes 3 w.1 ++ toBytes 3 w.2] = l
  have lt := presence_lt l
  have len : l.length = 9 := by subst hl; rfl
  rw [len] at lt
  have bitAt : ∀ i o, l[i]? = some o → (presenceOf l).testBit i = o.isSome := presence_bit l
  generalize presenceOf l = w at *
  subst hl
  refine .bind (.presence 2 9 _ (by omega) lt) ?_
  simp only [List.map_cons, List.map_nil, List.flatten_cons, List.flatten_nil]
  exact .bind (.partOpt _ _ (by rw [bitAt 0 _ rfl]; simp) (getFits3 h0)) <| .bind (.partOpt _ _ (by rw [bitAt 1 _ rfl]; simp) (getFits3 h1)) <|
    .bind (.partOpt _ _ (by rw [bitAt 2 _ rfl]; simp) (getFits3 h2)) <| .bind (.partOpt _ _ (by rw [bitAt 3 _ rfl]; simp) (getFits3 h3)) <|
    .bind (.partOpt _ _ (by rw [bitAt 4 _ rfl]; simp) fun x _ => .bits 3 20 x (by decide)) <|
    .bind (.partOpt _ _ (by rw [bitAt 5 _ rfl]; simp) fun x _ => .bits 3 20 x (by decide)) <|
    .bind (.partOpt _ _ (by rw [bitAt 6 _ rfl]; simp) fun x _ => .matrixOf x) <|
    .bind (.partOpt _ _ (by rw [bitAt 7 _ rfl]; simp) (getFits1 h4)) <|
    .bind (.partOpt _ _ (by rw [bitAt 8 _ rfl]; simp) (by
      rintro ⟨x, y⟩ hx; rw [hx] at h5; simp only [fitsIf, Bool.and_eq_true] at h5
      exact .pairOf (.num 3 _ (fits3_lt h5.1)) (.num 3 _ (fits3_lt h5.2)))) (.pure _)

/-- A bound named by the console reads back. -/
theorem Reads.boundOf (console : Bool) (x : Option (Ref × Nat)) (hc : x.isSome = console) (h : fitsIf placedFits x = true) :
    Reads (Reader.ifConsole console (Reader.pair Reader.ref (Reader.num 3))) (boundBytes x) x := by
  have e : boundBytes x = (x.map fun y => refBytes y.1 ++ toBytes 3 y.2).getD [] := by cases x <;> rfl
  rw [e]
  refine .consoleOnly console x _ hc ?_
  rintro ⟨a, b⟩ rfl
  simp only [fitsIf, placedFits, Bool.and_eq_true] at h
  exact .pairOf (.ref _ h.1) (.num 3 _ (fits3_lt h.2))

end Sys2Proof.Machine
end

