-- ==== Sys2Proof/Tests/Slice0.lean ====
section
/-! SUPPORT. Tests: each check of WellFormed refuses an ill-formed command, and every statement's hypotheses are met by a
concrete state and operands, with what the command then does there. -/

set_option Elab.async false

namespace Sys2Proof.Tests
open Sys2Proof Sys2Proof.Machine

/-! ### Well-formed commands -/

/-- An index beyond its two bytes, a position beyond its three, a code beyond its one. -/
theorem test_wf_refuses_wide_fields :
    (Instr.readJob .console ⟨65536, 0⟩).wf = false ∧ (Instr.sealRange ⟨0, 0⟩ 0 16777216 1).wf = false ∧
      (Instr.openJob 0 0 256 0).wf = false ∧ (Instr.queueEntry 65536).wf = false := by decide +kernel

/-- A field that is present beyond its width: attributes, place, mode, target, window, setup, profile, job and position. -/
theorem test_wf_refuses_wide_parts :
    (Instr.setJobAttributes ⟨0, 0⟩ { cls := some 256 }).wf = false ∧
      (Instr.placeCue .console 3 0 (.atPosition ⟨0, 0⟩ 16777216)).wf = false ∧
      (Instr.setCaptureMode 0 (.insert 16777216)).wf = false ∧ (Instr.jump 0 (.cue ⟨65536, 0⟩)).wf = false ∧
      (Instr.setBankMap ⟨0, 256, 0⟩ ⟨0, 0, 0⟩ ⟨0, 0, 0⟩ ⟨0, 0, 0⟩).wf = false ∧
      (Instr.playSetup 0 { pos := some 16777216 }).wf = false ∧
      (Instr.setProfile 0 0 0 { rate := some 256 }).wf = false ∧
      (Instr.cueAt .console (some (⟨65536, 0⟩, 0))).wf = false := by decide +kernel

/-- A role beyond the layout of CONFIGURE STATION, a request of the other port's form, an envelope that is a message, and an
arriving request that does not fit. -/
theorem test_wf_refuses_wrong_forms :
    (Instr.configureStation 0 3 1 0 0).wf = false ∧ (Instr.readChannel .console none).wf = false ∧
      (Instr.cueAt (.station 0) (some (⟨0, 0⟩, 0))).wf = false ∧
      (Instr.malformedMessage (.station 0) ⟨5, 0, []⟩).wf = false ∧
      (Instr.inboundRequest 0 0 (.sealMode 256)).wf = false ∧ (Instr.consoleRequest 0 (.exportStop 256)).wf = false := by
  decide +kernel

/-- Well-formed commands of each shape. -/
theorem test_wf_admits :
    (Instr.openJob 15 0xFFFFFFFF 255 0xFFFF).wf = true ∧ (Instr.sealRange ⟨65535, 255⟩ 0 16777215 255).wf = true ∧
      (Instr.readChannel .console (some 255)).wf = true ∧ (Instr.cueAt (.station 3) none).wf = true ∧
      (Instr.malformedMessage (.station 0) ⟨2, 1, [104]⟩).wf = true ∧ Instr.reset.wf = true := by decide +kernel

/-! ### Small states -/

/-- Reporter 7 at link 0 and typist 9 at link 1, both UP; a formatted store with extent 2 in use and extents 5 and 6 free. -/
def desks : State :=
  { links := [(0, { up := true, role := .reporter, person := 7 }),
      (1, { up := true, role := .typist, person := 9, clearance := 1, elig := 7 })]
    formatted := true, freeList := [5, 6]
    exts := [(2, { state := .inUse, refs := 2 }), (5, { state := .free }), (6, { state := .free })] }

/-- Job 3 of reporter 7: ten frames in segment 4, a cue 1 at frame 6, take 0. -/
def job3 : Job :=
  { issue := 1, state := .live, reporter := 7, length := 10, segHead := some ⟨4, 1⟩, firstCue := some ⟨1, 1⟩
    takeHead := some ⟨0, 1⟩, takeCount := 1, chan := some 0, tail := some { extent := 2, fill := 10 } }

/-- The segment of job 3. -/
def seg4 : SegBody := { job := ⟨3, 1⟩, extent := 2, first := 0, count := 10, cue := some ⟨1, 1⟩ }
/-- The cue of job 3. -/
def cue1 : CueBody := { job := ⟨3, 1⟩, kind := .exhibit, label := 5, anchor := .frame ⟨4, 1⟩ 6, placer := .reporter 7 }
/-- The take of job 3. -/
def take0 : TakeBody := { job := ⟨3, 1⟩ }

/-- Job 3 with its segment, its cue and its take. -/
def parts : State :=
  { desks with
    jobs := [(3, job3)]
    segs := [(4, { issue := 1, body := some seg4 })]
    segFree := 16383
    cues := [(1, { issue := 1, body := some cue1 })]
    cueFree := 8191
    takes := [(0, { issue := 1, body := some take0 })]
    takeFree := 1023 }

/-- A capture of job 3, PAUSED in APPEND at the job end. -/
def cap : Capture := { job := ⟨3, 1⟩ }

/-- Job 3 LIVE on channel 0, its capture in a state. -/
def live (c : Capture) : State := parts.setChan 0 { stream := .capture c }

/-- Job 3 in a state with no channel, its take in a state with typist 9. -/
def closed (j : JobState) (t : TakeState) : State :=
  { parts with
    jobs := [(3, { job3 with state := j, chan := none, tail := none })]
    takes := [(0, { issue := 1, body := some { take0 with state := t, typist := some 9 } })]
    holds := [(9, 1)] }

/-- A play of take 0 at frame 2. -/
def playing : Play := { job := ⟨3, 1⟩, take := ⟨0, 1⟩, pos := 128, run := .running }

/-- Take 0 CLAIMED and loaded on channel 1. -/
def played (p : Play) : State := (closed .closed .claimed).setChan 1 { stream := .play p }

/-- Job 3 of no hold and no channel, CLOSED, export-busy, its export on channel 14. -/
def exported (e : Exporting) : State :=
  { closed .closed .returned with
    jobs := [(3, { job3 with state := .closed, chan := none, tail := none, exportBusy := true })]
    chans := [(14, { binding := .bulk, stream := .exporting e })] }

/-- Channel 14 bound to BULK and IDLE, with job 3 CLOSED and its take RETURNED. -/
def bulky : State := { closed .closed .returned with chans := [(14, { binding := .bulk })] }

/-- A request routed, with tag 7. -/
def ask (s : State) (p : Port) (r : Request) : State :=
  match p with
  | .console => { s with conOutstanding := some ⟨r, 7⟩ }
  | .station l => s.updLink l.val fun k => { k with outstanding := some ⟨r, 7, k.role, k.person⟩ }

/-- The reporter, the typist and the console. -/
def rep : Party := .station 0 .reporter 7
/-- The typist. -/
def typ : Party := .station 1 .typist 9

/-- The state a command leads to. -/
def ran (c : Instr) (s : State) : State :=
  match exec c s with
  | .next t => t
  | .fault _ => s
  | .refused _ => s

/-- The last reply code handed to the console, and to a link. -/
def told (s : State) : Option ReplyCode := s.conUnsent.getLast?.map fun m => m.code
/-- The last reply code handed to a link. -/
def toldAt (s : State) (l : Nat) : Option ReplyCode :=
  match (s.link l).unsent.getLast? with
  | some (.reply _ _ c _) => some c
  | _ => none

/-! ### The step, routing, frames and invariants -/

/-- A link that is UP with a frame unsent, and a console reply unsent. -/
theorem meets_EmptyQueueSendsOldest : ∃ s : State, s.pending = [] ∧ (s.link 0).up = true ∧ (s.chan 0).binding = .link ∧
    (s.link 0).unsent = [.frame false false 0] ∧ s.conUnsent = [⟨0, 7, .done, {}⟩] :=
  ⟨{ desks.updLink 0 (fun k => { k with unsent := [.frame false false 0] }) with conUnsent := [⟨0, 7, .done, {}⟩] },
    by decide +kernel⟩

/-- The front command of a queue of two. -/
theorem meets_StepRunsFrontCommand : ∃ s : State, s.pending = [.format, .readPool] := ⟨{ pending := [.format, .readPool] }, rfl⟩

/-- A request of each port routed. -/
theorem meets_RoutedRequestsAndReplies : ∃ s : State, s.routed .console .readPool = some (.console, 7) ∧
    s.routed (.station 0) .record = some (rep, 7) ∧ told (s.reply .console .readPool 7 .done {}) = some .done ∧
    toldAt (s.reply (.station 0) .record 7 .done {}) 0 = some .done :=
  ⟨ask (ask desks .console .readPool) (.station 0) .record, by decide +kernel⟩

/-- A command whose request is not routed. -/
theorem meets_UnroutedRequestChangesNothing : ∃ s : State, Instr.asks .readPool = some (.console, .readPool) ∧
    s.routed .console .readPool = none := ⟨desks, by decide +kernel⟩

/-- A request refused RANGE. -/
theorem meets_RefusedRequestChangesNothing : ∃ s : State, Instr.asks (.hold ⟨512, 0⟩) = some (.console, .hold ⟨512, 0⟩) ∧
    Instr.hold ⟨512, 0⟩ ≠ .readNotice ∧ s.routed .console (.hold ⟨512, 0⟩) = some (.console, 7) ∧
    told (ran (.hold ⟨512, 0⟩) s) = some .range := ⟨ask desks .console (.hold ⟨512, 0⟩), by decide +kernel⟩

/-- A reading request routed. -/
theorem meets_ReadingChangesNothing : ∃ s : State, s.routed .console (.readLink 15) = some (.console, 7) ∧
    told (ran (.readLink 15) s) = some .done := ⟨ask desks .console (.readLink 15), by decide +kernel⟩

/-- A write completes with no access in progress, and with one, whose neighbour byte stands. -/
theorem meets_WritesStayInTheirFrame :
    (∃ s : State, s.port = none ∧ ∃ t, exec (.scrubWriteCompletion false) s = .next t) ∧
    ∃ s : State, s.port = some { claim := ⟨2, 1, .scrub⟩ } ∧ (∃ t, exec (.scrubWriteCompletion false) s = .next t) ∧
      s.mem = [(524351, 1), (524352, 2), (524415, 3), (524416, 4)] ∧
      (ran (.scrubWriteCompletion false) s).mem = [(524351, 1), (524416, 4)] :=
  ⟨⟨desks, rfl, _, rfl⟩, ⟨{ desks with
    port := some { claim := ⟨2, 1, .scrub⟩ }
    mem := [(524351, 1), (524352, 2), (524415, 3), (524416, 4)] }, rfl, ⟨_, rfl⟩, rfl, by decide +kernel⟩⟩

/-- A command that is no RESET. -/
theorem meets_SettingsChangeOnlyByTheirCommands : ∃ s t : State, exec (.framePeriod 0) s = .next t := ⟨desks, _, rfl⟩

/-- A state of the invariants, which a step leaves for another. -/
theorem meets_StepKeepsInvariants : ∃ s t : State, Sound s ∧ step s = .next t :=
  ⟨{ threshold := 4095, pending := [.linkUp 15] }, _, ⟨by unfold Canonical; decide +kernel, by unfold QueueBounded; decide,
    by intro c h; simp [State.chan, Table.get] at h, by intro c h; simp [State.chan, Table.get] at h,
    by intro c h; simp [State.chan, Table.get] at h, by intro _ _ _ _ h; simp [State.link, Table.get] at h⟩, rfl⟩

/-- A state in canonical form. -/
theorem meets_LowestFreeRecordIsTaken : ∃ s : State, Canonical s ∧ s.lowestVacant = 0 ∧ s.lowestFreeSeg = 0 ∧
    s.lowestFreeCue = 0 ∧ s.lowestFreeTake = 1 := ⟨parts, by unfold Canonical; decide +kernel⟩

/-- The RESET pin with a frame of the store being read. -/
theorem meets_ResetPinRestores : ∃ (s : State) (a : Access), s.port = some a ∧ a.claim.use = .play 15 :=
  ⟨{ desks with port := some { claim := ⟨4095, 4095, .play 15⟩ } }, _, rfl, rfl⟩

/-! ### Jobs -/

/-- A reporter opens a job of class 2, the largest. -/
theorem meets_OpenJobOpens : ∃ s : State, s.routed (.station 0) (.openJob 1 2 9) = some (.station 0 .reporter 7, 7) ∧
    s.ownsLive 7 = false ∧ (s.chan 0).isIdle = true ∧ (s.chan 0).second = none ∧ s.formatted = true ∧
    s.lowestVacant < 512 ∧ 0 < s.takeFree ∧ toldAt (ran (.openJob 0 1 2 9) s) 0 = some .done :=
  ⟨ask desks (.station 0) (.openJob 1 2 9), by decide +kernel⟩

/-- The console creates a job of reporter 63, with and without follow-behind. -/
theorem meets_CreateJobCreates :
    (∃ s : State, s.routed .console (.createJob 63 1 2 9 1) = some (.console, 7) ∧ s.lowestVacant < 512 ∧ 0 < s.takeFree ∧
      (ran (.createJob 63 1 2 9 1) s).ready = [0]) ∧
    ∃ s : State, s.routed .console (.createJob 1 1 0 9 0) = some (.console, 7) ∧ s.lowestVacant < 512 ∧ 0 < s.takeFree ∧
      (ran (.createJob 1 1 0 9 0) s).ready = [] :=
  ⟨⟨ask desks .console (.createJob 63 1 2 9 1), by decide +kernel⟩,
    ask desks .console (.createJob 1 1 0 9 0), by decide +kernel⟩

/-- A SET-ASIDE job attached, and a LIVE one detached. -/
theorem meets_AttachAndDetach :
    (∃ s : State, s.routed (.station 0) (.attach ⟨3, 1⟩) = some (.station 0 .reporter 7, 7) ∧ s.jobCurrent ⟨3, 1⟩ = true ∧
      (s.job 3).reporter = 7 ∧ (s.job 3).state = .setAside ∧ (s.job 3).held = false ∧ s.ownsLive 7 = false ∧
      (s.chan 0).isIdle = true ∧ (s.chan 0).second = none ∧ s.formatted = true ∧
      ((ran (.attach 0 ⟨3, 1⟩) s).job 3).state = .live) ∧
    ∃ s : State, s.routed (.station 0) (.detach ⟨3, 1⟩) = some (.station 0 .reporter 7, 7) ∧ s.jobCurrent ⟨3, 1⟩ = true ∧
      (s.job 3).reporter = 7 ∧ (s.job 3).state = .live ∧ (s.job 3).chan = some 0 ∧ (s.chan 0).stream = .capture cap ∧
      cap.running = false ∧ cap.job = ⟨3, 1⟩ ∧ ((ran (.detach 0 ⟨3, 1⟩) s).job 3).state = .setAside :=
  ⟨⟨ask (closed .setAside .opened) (.station 0) (.attach ⟨3, 1⟩), by decide +kernel⟩,
    ask (live cap) (.station 0) (.detach ⟨3, 1⟩), by decide +kernel⟩

/-- A LIVE job closed by its reporter, and a SET-ASIDE one with its take RETURNED by the console. -/
theorem meets_CloseDictationCloses :
    (∃ s : State, s.routed (.station 0) (.closeDictation ⟨3, 1⟩) = some (rep, 7) ∧ s.jobCurrent ⟨3, 1⟩ = true ∧
      rep.owns (s.job 3) = true ∧ (s.job 3).state = .live ∧ (s.job 3).held = false ∧
      s.captureBusy (s.job 3).chan = false ∧ (s.job 3).chan = some 0 ∧ (s.captureFields 0).map Prod.fst = some ⟨3, 1⟩ ∧
      ((ran (.closeDictation (.station 0) ⟨3, 1⟩) s).job 3).state = .closed) ∧
    ∃ s : State, s.routed .console (.closeDictation ⟨3, 1⟩) = some (.console, 7) ∧ s.jobCurrent ⟨3, 1⟩ = true ∧
      Party.console.owns (s.job 3) = true ∧ (s.job 3).state = .setAside ∧ (s.job 3).held = false ∧ (s.job 3).chan = none ∧
      ((ran (.closeDictation .console ⟨3, 1⟩) s).job 3).state = .complete :=
  ⟨⟨ask (live cap) (.station 0) (.closeDictation ⟨3, 1⟩), by decide +kernel⟩,
    ask (closed .setAside .returned) .console (.closeDictation ⟨3, 1⟩), by decide +kernel⟩

/-- Class 2 and follow-behind written to job 3. -/
theorem meets_SetJobAttributesWrites : ∃ (s : State) (a : JobAttrs), a = { cls := some 2, follow := some 1 } ∧
    (∀ c, a.cls = some c → c ≤ 2) ∧ (∀ f, a.follow = some f → f ≤ 1) ∧
    (s.routed .console (.setJobAttributes ⟨3, 1⟩ a) = some (.console, 7) ∧ s.jobCurrent ⟨3, 1⟩ = true ∧
    (s.job 3).state ≠ .retiring ∧ writeAttrs a (s.job 3) ≠ s.job 3 ∧
    ((ran (.setJobAttributes ⟨3, 1⟩ a) s).job 3).cls = .ordinary) :=
  ⟨ask parts .console (.setJobAttributes ⟨3, 1⟩ { cls := some 2, follow := some 1 }), _, rfl,
    by simp, by simp, by decide +kernel⟩

/-- A RELEASING job held, and one with no release and no export. -/
theorem meets_HoldHolds :
    (∃ s : State, s.routed .console (.hold ⟨3, 1⟩) = some (.console, 7) ∧ s.jobCurrent ⟨3, 1⟩ = true ∧
      (s.job 3).state = .releasing ∧ (s.job 3).held = false ∧ ((ran (.hold ⟨3, 1⟩) s).job 3).state = .complete) ∧
    ∃ s : State, s.routed .console (.hold ⟨3, 1⟩) = some (.console, 7) ∧ s.jobCurrent ⟨3, 1⟩ = true ∧
      (s.job 3).state = .closed ∧ (s.job 3).held = false ∧ (s.job 3).exportBusy = false ∧
      ((ran (.hold ⟨3, 1⟩) s).job 3).held = true :=
  ⟨⟨ask (closed .releasing .returned) .console (.hold ⟨3, 1⟩), by decide +kernel⟩,
    ask (closed .closed .ready) .console (.hold ⟨3, 1⟩), by decide +kernel⟩

/-- UNHOLD of slot 512, of a stale reference to slot 511, and of jobs RETIRING, not held and held. -/
theorem meets_UnholdClearsTheFlag :
    told (ran (.unhold ⟨512, 0⟩) (ask parts .console (.unhold ⟨512, 0⟩))) = some .range ∧
    told (ran (.unhold ⟨511, 0⟩) (ask parts .console (.unhold ⟨511, 0⟩))) = some .stale ∧
    told (ran (.unhold ⟨3, 1⟩) (ask (closed .retiring .returned) .console (.unhold ⟨3, 1⟩))) = some .state ∧
    told (ran (.unhold ⟨3, 1⟩) (ask parts .console (.unhold ⟨3, 1⟩))) = some .already ∧
    told (ran (.unhold ⟨3, 1⟩) (ask (parts.setJob 3 { job3 with held := true }) .console (.unhold ⟨3, 1⟩))) = some .done := by
  decide +kernel

/-- The first release, the second and a repeated one. -/
theorem meets_TwoReleasesRetire :
    (∃ s : State, s.routed .console (.release ⟨3, 1⟩) = some (.console, 7) ∧ s.jobCurrent ⟨3, 1⟩ = true ∧
      Party.console.owns (s.job 3) = true ∧ (s.job 3).state = .complete ∧ (s.job 3).held = false ∧
      (s.job 3).exportBusy = false ∧ ((ran (.release .console ⟨3, 1⟩) s).job 3).state = .releasing) ∧
    (∃ s : State, s.routed (.station 0) (.release ⟨3, 1⟩) = some (rep, 7) ∧ s.jobCurrent ⟨3, 1⟩ = true ∧
      rep.owns (s.job 3) = true ∧ (s.job 3).state = .releasing ∧ (s.job 3).release = some .console ∧
      (s.job 3).held = false ∧ (s.job 3).exportBusy = false ∧ (ran (.release (.station 0) ⟨3, 1⟩) s).retiring = [3]) ∧
    told (ran (.release .console ⟨3, 1⟩) (ask ((closed .releasing .returned).updJob 3 fun j =>
      { j with release := some .console }) .console (.release ⟨3, 1⟩))) = some .already :=
  ⟨⟨ask (closed .complete .returned) .console (.release ⟨3, 1⟩), by decide +kernel⟩,
    ⟨ask ((closed .releasing .returned).updJob 3 fun j => { j with release := some .console }) (.station 0)
      (.release ⟨3, 1⟩), by decide +kernel⟩, by decide +kernel⟩

/-- READ JOB of slot 512, of slot 511, by another reporter, of a RETIRING job, and by each party that may. -/
theorem meets_ReadJobAnswers :
    told (ran (.readJob .console ⟨512, 0⟩) (ask parts .console (.readJob ⟨512, 0⟩))) = some .range ∧
    told (ran (.readJob .console ⟨511, 0⟩) (ask parts .console (.readJob ⟨511, 0⟩))) = some .stale ∧
    toldAt (ran (.readJob (.station 1) ⟨3, 1⟩) (ask parts (.station 1) (.readJob ⟨3, 1⟩))) 1 = some .notPermitted ∧
    toldAt (ran (.readJob (.station 1) ⟨3, 1⟩) (ask (closed .closed .claimed) (.station 1) (.readJob ⟨3, 1⟩))) 1 =
      some .done ∧
    toldAt (ran (.readJob (.station 0) ⟨3, 1⟩) (ask parts (.station 0) (.readJob ⟨3, 1⟩))) 0 = some .done ∧
    told (ran (.readJob .console ⟨3, 1⟩) (ask (closed .retiring .returned) .console (.readJob ⟨3, 1⟩))) = some .state ∧
    told (ran (.readJob .console ⟨3, 1⟩) (ask parts .console (.readJob ⟨3, 1⟩))) = some .done := by decide +kernel

/-- FIND JOB from a start slot of 512, by a typist, finding job 3, and finding none from slot 511. -/
theorem meets_FindJobSearches :
    told (ran (.findJob .console 512 ⟨0, 0, 0, 0, 0⟩ ⟨0, 0, 0, 0, 0⟩)
      (ask parts .console (.findJob 512 ⟨0, 0, 0, 0, 0⟩ ⟨0, 0, 0, 0, 0⟩))) = some .range ∧
    toldAt (ran (.findJob (.station 1) 0 ⟨0, 0, 0, 0, 0⟩ ⟨0, 0, 0, 0, 0⟩)
      (ask parts (.station 1) (.findJob 0 ⟨0, 0, 0, 0, 0⟩ ⟨0, 0, 0, 0, 0⟩))) 1 = some .notPermitted ∧
    told (ran (.findJob .console 3 ⟨0, 7, 0, 0, 0⟩ ⟨0, 63, 0, 0, 0⟩)
      (ask parts .console (.findJob 3 ⟨0, 7, 0, 0, 0⟩ ⟨0, 63, 0, 0, 0⟩))) = some .done ∧
    told (ran (.findJob .console 511 ⟨0, 7, 0, 0, 0⟩ ⟨0, 63, 0, 0, 0⟩)
      (ask parts .console (.findJob 511 ⟨0, 7, 0, 0, 0⟩ ⟨0, 63, 0, 0, 0⟩))) = some .none := by decide +kernel

/-! ### Maps and cues -/

/-- READ SEGMENT, RETIRING STATUS with and without a job retiring, READ EXTENT of extent 4,095, READ POOL. -/
theorem meets_StoreAndMapReadsAnswer :
    (∃ s : State, s.routed .console (.readSegment ⟨4, 1⟩) = some (.console, 7) ∧ s.segCurrent ⟨4, 1⟩ = true ∧
      (s.seg 4).body = some seg4 ∧ s.mayReadJob .console 3 = true ∧ (s.job 3).state ≠ .retiring ∧
      told (ran (.readSegment .console ⟨4, 1⟩) s) = some .done) ∧
    (∃ s : State, s.routed .console .retiringStatus = some (.console, 7) ∧ s.retiring = []) ∧
    (∃ s : State, s.routed .console .retiringStatus = some (.console, 7) ∧ s.retiring = [3] ∧
      (s.job 3).sweep = some { phase := .takes, freed := 0 }) ∧
    told (ran (.readExtent 4095) (ask parts .console (.readExtent 4095))) = some .done ∧
    told (ran .readPool (ask parts .console .readPool)) = some .done :=
  ⟨⟨ask parts .console (.readSegment ⟨4, 1⟩), by decide +kernel⟩, ⟨ask parts .console .retiringStatus, by decide +kernel⟩,
    ⟨ask { parts.setJob 3 { job3 with state := .retiring, sweep := some { phase := .takes, freed := 0 } } with
      retiring := [3] } .console .retiringStatus, by decide +kernel⟩, by decide +kernel, by decide +kernel⟩

/-- The whole of job 3 sealed at class 3, the largest, and unsealed. -/
theorem meets_RangesWriteParts_seal : ∃ s : State, s.routed .console (.sealRange ⟨3, 1⟩ 0 10 3) = some (.console, 7) ∧
    s.jobCurrent ⟨3, 1⟩ = true ∧ (s.job 3).state ≠ .retiring ∧ (s.job 3).held = false ∧ (s.job 3).exportBusy = false ∧
    (s.job 3).length = 10 ∧ s.rangeHolds 3 0 10 (sealEdit 3) = false ∧ s.splitsNeeded 3 0 10 (sealEdit 3) ≤ s.segFree ∧
    s.jobSegs 3 = [(4, seg4)] ∧ seg4.count = 10 ∧
    (ran (.sealRange ⟨3, 1⟩ 0 10 3) s).seg 4 = { issue := 1, body := some { seg4 with sealPart := some 3 } } :=
  ⟨ask parts .console (.sealRange ⟨3, 1⟩ 0 10 3), by decide +kernel⟩

/-- The whole of job 3 paced at 32, the smallest pace. -/
theorem meets_RangesWriteParts_pace : ∃ s : State, s.routed .console (.paceRange ⟨3, 1⟩ 0 10 (some 32)) = some (.console, 7) ∧
    s.jobCurrent ⟨3, 1⟩ = true ∧ (s.job 3).state ≠ .retiring ∧ (s.job 3).held = false ∧ (s.job 3).exportBusy = false ∧
    s.rangeHolds 3 0 10 (paceEdit (some 32)) = false ∧ s.splitsNeeded 3 0 10 (paceEdit (some 32)) ≤ s.segFree ∧
    s.jobSegs 3 = [(4, seg4)] ∧
    (ran (.paceRange ⟨3, 1⟩ 0 10 (some 32)) s).seg 4 = { issue := 1, body := some { seg4 with pace := some 32 } } :=
  ⟨ask parts .console (.paceRange ⟨3, 1⟩ 0 10 (some 32)), by decide +kernel⟩

/-- A cue of kind 8, the last, at the last frame by the console, a TAKE cue at frame 3, and a typist's NOTE in its take. -/
theorem meets_PlaceCueAddsCue :
    (∃ (s : State) (f : Place), f = .atPosition ⟨3, 1⟩ 9 ∧ s.routed .console (.placeCue 8 8 f) = some (.console, 7) ∧
      kindOf 8 = some .mark ∧ Party.console.mayUse f = true ∧ placeRange s Party.console.link f = false ∧
      placeStale s f = false ∧ placeForeign s .console f = false ∧ placeState s .console 8 f = false ∧
      (s.job (s.placeJob f)).held = false ∧ placeFrozen s 8 f = false ∧ placeEmpty s 8 f = false ∧ 0 < s.cueFree ∧
      told (ran (.placeCue .console 8 8 f) s) = some .done) ∧
    (∃ (s : State) (f : Place), f = .atPosition ⟨3, 1⟩ 3 ∧ s.routed .console (.placeCue 1 8 f) = some (.console, 7) ∧
      kindOf 1 = some .take ∧ Party.console.mayUse f = true ∧ placeRange s Party.console.link f = false ∧
      placeStale s f = false ∧ placeForeign s .console f = false ∧ placeState s .console 1 f = false ∧
      (s.job (s.placeJob f)).held = false ∧ placeFrozen s 1 f = false ∧ placeEmpty s 1 f = false ∧ 0 < s.cueFree ∧
      0 < s.takeFree ∧ (ran (.placeCue .console 1 8 f) s).takeFree = s.takeFree - 1) ∧
    ∃ (s : State) (f : Place), f = .atTakePosition ⟨0, 1⟩ 9 ∧ s.routed (.station 1) (.placeCue 6 8 f) = some (typ, 7) ∧
      kindOf 6 = some .note ∧ typ.mayUse f = true ∧ placeRange s typ.link f = false ∧
      placeStale s f = false ∧ placeForeign s typ f = false ∧ placeState s typ 6 f = false ∧ typ.isTypist = true ∧
      placeFrozen s 6 f = false ∧ placeEmpty s 6 f = false ∧ 0 < s.cueFree ∧
      toldAt (ran (.placeCue (.station 1) 6 8 f) s) 1 = some .done :=
  ⟨⟨ask parts .console (.placeCue 8 8 (.atPosition ⟨3, 1⟩ 9)), _, rfl, by decide +kernel⟩,
    ⟨ask parts .console (.placeCue 1 8 (.atPosition ⟨3, 1⟩ 3)), _, rfl, by decide +kernel⟩,
    ask (closed .closed .claimed) (.station 1) (.placeCue 6 8 (.atTakePosition ⟨0, 1⟩ 9)), _, rfl, by decide +kernel⟩

/-- The exhibit cue removed by its reporter. -/
theorem meets_RemoveCueFreesCue : ∃ s : State, s.routed (.station 0) (.removeCue ⟨1, 1⟩) = some (rep, 7) ∧
    s.cueCurrent ⟨1, 1⟩ = true ∧ s.mayRemove rep 1 = true ∧ (s.job (s.cueJob 1)).state ≠ .retiring ∧
    (s.job (s.cueJob 1)).held = false ∧ s.removalFrozen 1 = false ∧ s.cueIs 1 .take = false ∧
    (ran (.removeCue (.station 0) ⟨1, 1⟩) s).cue 1 = { issue := 2 } :=
  ⟨ask parts (.station 0) (.removeCue ⟨1, 1⟩), by decide +kernel⟩

/-- READ CUE by the console and by a typist that holds the take. -/
theorem meets_CueReadsAnswer_readCue :
    (∃ s : State, s.routed .console (.readCue ⟨1, 1⟩) = some (.console, 7) ∧ s.cueCurrent ⟨1, 1⟩ = true ∧
      (s.cue 1).body = some cue1 ∧ s.mayReadCue .console 1 = true ∧ (s.job 3).state ≠ .retiring ∧
      told (ran (.readCue .console ⟨1, 1⟩) s) = some .done) ∧
    ∃ s : State, s.routed (.station 1) (.readCue ⟨1, 1⟩) = some (typ, 7) ∧ s.cueCurrent ⟨1, 1⟩ = true ∧
      (s.cue 1).body = some cue1 ∧ (s.job 3).state ≠ .retiring ∧ typ.isTypist = true ∧
      s.heldTakeWith 3 (s.anchorPos 3 cue1.anchor) typ.person = some (0, { take0 with state := .claimed, typist := some 9 }) ∧
      toldAt (ran (.readCue (.station 1) ⟨1, 1⟩) s) 1 = some .done :=
  ⟨⟨ask parts .console (.readCue ⟨1, 1⟩), by decide +kernel⟩,
    ask (closed .closed .claimed) (.station 1) (.readCue ⟨1, 1⟩), by decide +kernel⟩

/-- CUE AT at the cue's own position and just below it, LAST CUE of a job and of a take, with and without a cue. -/
theorem meets_CueReadsAnswer_cueAt :
    told (ran (.cueAt .console (some (⟨3, 1⟩, 6))) (ask parts .console (.cueAt (some (⟨3, 1⟩, 6))))) = some .done ∧
    told (ran (.cueAt .console (some (⟨3, 1⟩, 5))) (ask parts .console (.cueAt (some (⟨3, 1⟩, 5))))) = some .none ∧
    told (ran (.lastCue .console ⟨3, 1⟩) (ask parts .console (.lastCue ⟨3, 1⟩))) = some .done ∧
    told (ran (.lastCue .console ⟨3, 1⟩) (ask { parts with cues := [], jobs := [(3, { job3 with firstCue := none })] }
      .console (.lastCue ⟨3, 1⟩))) = some .none ∧
    toldAt (ran (.lastCue (.station 1) ⟨0, 1⟩) (ask (closed .closed .claimed) (.station 1) (.lastCue ⟨0, 1⟩))) 1 =
      some .done := by decide +kernel

/-- FIND CUE forward and backward, above, below, after and before the cue. -/
theorem meets_CueReadsAnswer_findCue :
    (boundOf parts .console (some (⟨3, 1⟩, 5))).toOption = some (parts.wholeJob 3, 5) ∧
    (parts.cuesIn (parts.wholeJob 3)).map Prod.fst = [1] ∧
    told (ran (.findCue .console (some (⟨3, 1⟩, 5)) 0 0 0 none)
      (ask parts .console (.findCue (some (⟨3, 1⟩, 5)) 0 0 0 none))) = some .done ∧
    told (ran (.findCue .console (some (⟨3, 1⟩, 6)) 0 0 0 none)
      (ask parts .console (.findCue (some (⟨3, 1⟩, 6)) 0 0 0 none))) = some .none ∧
    told (ran (.findCue .console (some (⟨3, 1⟩, 7)) 1 0 0 none)
      (ask parts .console (.findCue (some (⟨3, 1⟩, 7)) 1 0 0 none))) = some .done ∧
    told (ran (.findCue .console (some (⟨3, 1⟩, 7)) 0 0 0 (some ⟨1, 1⟩))
      (ask parts .console (.findCue (some (⟨3, 1⟩, 7)) 0 0 0 (some ⟨1, 1⟩)))) = some .none ∧
    told (ran (.findCue .console (some (⟨3, 1⟩, 7)) 1 0 0 (some ⟨1, 1⟩))
      (ask parts .console (.findCue (some (⟨3, 1⟩, 7)) 1 0 0 (some ⟨1, 1⟩)))) = some .none := by decide +kernel

/-! ### Takes and the store -/

/-- Job 3 with its take READY in the queue. -/
def queued (n : Nat) : State :=
  { closed .closed .ready with
    takes := [(0, { issue := 1, body := some { take0 with state := .ready, seq := some 1 } })]
    ready := [0]
    holds := if n = 0 then [] else [(9, n)] }

/-- CLAIM NEXT with three takes held, with four, and with no take eligible; ASSIGN to typist 63. -/
theorem meets_ClaimAndAssignGiveTakes :
    (∃ s : State, s.routed (.station 1) .claimNext = some (typ, 7) ∧ s.hold typ.person = 3 ∧ s.ready = [] ++ 0 :: [] ∧
      (s.take 0).body = some { take0 with state := .ready, seq := some 1 } ∧
      (s.link 1).elig.getLsbD (s.job 3).cls.code = true ∧ ((ran (.claimNext 1) s).hold 9) = 4) ∧
    (∃ s : State, s.routed (.station 1) .claimNext = some (typ, 7) ∧ s.hold typ.person = 4 ∧
      toldAt (ran (.claimNext 1) s) 1 = some .limit) ∧
    (∃ s : State, s.routed (.station 1) .claimNext = some (typ, 7) ∧ s.hold typ.person < 4 ∧ s.ready = [] ∧
      toldAt (ran (.claimNext 1) s) 1 = some .empty) ∧
    ∃ s : State, s.routed .console (.assign ⟨0, 1⟩ 63) = some (.console, 7) ∧ s.takeCurrent ⟨0, 1⟩ = true ∧
      (s.take 0).body = some { take0 with state := .ready, seq := some 1 } ∧ (s.job 3).state ≠ .retiring ∧ s.hold 63 < 4 ∧
      (ran (.assign ⟨0, 1⟩ 63) s).ready = [] :=
  ⟨⟨ask (queued 3) (.station 1) .claimNext, by decide +kernel⟩, ⟨ask (queued 4) (.station 1) .claimNext, by decide +kernel⟩,
    ⟨ask parts (.station 1) .claimNext, by decide +kernel⟩, ask (queued 0) .console (.assign ⟨0, 1⟩ 63), by decide +kernel⟩

/-- A take returned, the last of its CLOSED job. -/
theorem meets_ReturnTakeReturns : ∃ s : State, s.routed (.station 1) (.returnTake ⟨0, 1⟩) = some (typ, 7) ∧
    s.takeCurrent ⟨0, 1⟩ = true ∧ (s.take 0).body = some { take0 with state := .claimed, typist := some 9 } ∧
    s.anyLoaded ⟨0, 1⟩ = false ∧ (ran (.returnTake 1 ⟨0, 1⟩) s).reports = [⟨3, 1⟩] :=
  ⟨ask (closed .closed .claimed) (.station 1) (.returnTake ⟨0, 1⟩), by decide +kernel⟩

/-- A loaded take revoked; a RETURNED take reworked to nobody and to typist 63. -/
theorem meets_RevokeAndReworkMoveTakes :
    (∃ s : State, s.routed .console (.revoke ⟨0, 1⟩) = some (.console, 7) ∧ s.takeCurrent ⟨0, 1⟩ = true ∧
      (s.take 0).body = some { take0 with state := .claimed, typist := some 9 } ∧ (s.chan 1).loaded = some ⟨0, 1⟩ ∧
      ((ran (.revoke ⟨0, 1⟩) s).chan 1).stream = .idle ∧ (ran (.revoke ⟨0, 1⟩) s).ready = [0]) ∧
    (∃ s : State, s.routed .console (.rework ⟨0, 1⟩ none) = some (.console, 7) ∧ s.takeCurrent ⟨0, 1⟩ = true ∧
      (s.take 0).body = some { take0 with state := .returned, typist := some 9 } ∧ (s.job 3).state = .complete ∧
      (s.job 3).exportBusy = false ∧ ((ran (.rework ⟨0, 1⟩ none) s).job 3).state = .closed) ∧
    ∃ s : State, s.routed .console (.rework ⟨0, 1⟩ (some 63)) = some (.console, 7) ∧ s.takeCurrent ⟨0, 1⟩ = true ∧
      (s.take 0).body = some { take0 with state := .returned, typist := some 9 } ∧ (s.job 3).state = .closed ∧
      (s.job 3).exportBusy = false ∧ s.hold 63 < 4 ∧ (ran (.rework ⟨0, 1⟩ (some 63)) s).hold 63 = 1 :=
  ⟨⟨ask (played playing) .console (.revoke ⟨0, 1⟩), by decide +kernel⟩,
    ⟨ask (closed .complete .returned) .console (.rework ⟨0, 1⟩ none), by decide +kernel⟩,
    ask (closed .closed .returned) .console (.rework ⟨0, 1⟩ (some 63)), by decide +kernel⟩

/-- READ TAKE by its typist, HELD TAKES, QUEUE ENTRY of a rank in the queue and of rank 1023. -/
theorem meets_TakeReadsAnswer :
    (∃ s : State, s.routed (.station 1) (.readTake ⟨0, 1⟩) = some (typ, 7) ∧ s.takeCurrent ⟨0, 1⟩ = true ∧
      (s.take 0).body = some { take0 with state := .claimed, typist := some 9 } ∧ typ.isTypist = true ∧
      (s.job 3).state ≠ .retiring ∧ toldAt (ran (.readTake (.station 1) ⟨0, 1⟩) s) 1 = some .done) ∧
    toldAt (ran (.heldTakes 1) (ask (closed .closed .claimed) (.station 1) .heldTakes)) 1 = some .done ∧
    (∃ s : State, s.routed .console (.queueEntry 0) = some (.console, 7) ∧ s.ready[0]? = some 0 ∧
      (s.take 0).body = some { take0 with state := .ready, seq := some 1 } ∧
      told (ran (.queueEntry 0) s) = some .done) ∧
    told (ran (.queueEntry 1023) (ask (queued 0) .console (.queueEntry 1023))) = some .none :=
  ⟨⟨ask (closed .closed .claimed) (.station 1) (.readTake ⟨0, 1⟩), by decide +kernel⟩, by decide +kernel,
    ⟨ask (queued 0) .console (.queueEntry 0), by decide +kernel⟩, by decide +kernel⟩

/-- A bank map with a window at base group 15 written, an unformatted store formatted, bulk bursts of 16. -/
theorem meets_BankMapFormatPriority :
    (∃ (s : State) (w x : WindowSpec), w = ⟨1, 15, 15⟩ ∧ x = ⟨0, 0, 0⟩ ∧ s.formatted = false ∧
      s.routed .console (.setBankMap w x x x) = some (.console, 7) ∧
      s.bank ≠ { w0 := windowOf w, w1 := windowOf x, w2 := windowOf x, w3 := windowOf x }) ∧
    (∃ s : State, s.routed .console .format = some (.console, 7) ∧ s.formatted = false) ∧
    (∃ s : State, s.routed .console .format = some (.console, 7) ∧ s.formatted = true ∧ (∀ x ∈ s.jobs, x.2.state = .vacant) ∧
      ∀ c, c < 16 → (s.chan c).isIdle = true) ∧
    told (ran (.setBulkPriority 0 1 16 0 1) (ask desks .console (.setBulkPriority 0 1 16 0 1))) = some .done ∧
    told (ran (.setBulkPriority 1 1 1 1 1) (ask desks .console (.setBulkPriority 1 1 1 1 1))) = some .already :=
  ⟨⟨ask {} .console (.setBankMap ⟨1, 15, 15⟩ ⟨0, 0, 0⟩ ⟨0, 0, 0⟩ ⟨0, 0, 0⟩), _, _, rfl, rfl, by decide +kernel⟩,
    ⟨ask {} .console .format, by decide +kernel⟩, ⟨ask desks .console .format, by decide +kernel⟩, by decide +kernel,
    by decide +kernel⟩

/-- Thresholds 4,096, 4,095 and the present 64, with two extents free: an ARMED mark spent, a SPENT one armed at 2. -/
theorem meets_SetPoolThresholdTestsTheMark :
    told (ran (.setPoolThreshold 4096) (ask desks .console (.setPoolThreshold 4096))) = some .range ∧
    told (ran (.setPoolThreshold 64) (ask desks .console (.setPoolThreshold 64))) = some .already ∧
    (ran (.setPoolThreshold 4095) (ask { desks with lowArmed := true } .console (.setPoolThreshold 4095))).notices =
      [.poolLow 2 4095] ∧
    (ran (.setPoolThreshold 2) (ask desks .console (.setPoolThreshold 2))).lowArmed = true ∧
    (ran (.setPoolThreshold 3) (ask desks .console (.setPoolThreshold 3))).lowArmed = false := by decide +kernel

/-! ### Capture -/

/-- Points at the job's length, at its last frame (in the middle of a segment) and at frame 0. -/
theorem meets_CaptureModesAreSet_mode :
    (∃ s : State, s.routed (.station 0) (.setCaptureMode (.insert 10)) = some (rep, 7) ∧ (s.chan 0).stream = .capture cap ∧
      cap.running = false ∧ (s.placement 0).inflight = [] ∧ (s.job 3).length = 10 ∧
      (ran (.setCaptureMode 0 (.insert 10)) s).chan 0 = s.chan 0) ∧
    (∃ s : State, s.routed (.station 0) (.setCaptureMode (.insert 9)) = some (rep, 7) ∧ (s.chan 0).stream = .capture cap ∧
      (s.placement 0).inflight = [] ∧ 9 < (s.job 3).length ∧ s.editable 3 9 = true ∧ s.locate 3 9 = some (4, seg4, 9) ∧
      0 < s.segFree ∧ (ran (.setCaptureMode 0 (.insert 9)) s).segFree = s.segFree - 1) ∧
    ∃ s : State, s.routed (.station 0) (.setCaptureMode (.overwrite 0)) = some (rep, 7) ∧ (s.chan 0).stream = .capture cap ∧
      (s.placement 0).inflight = [] ∧ s.editable 3 0 = true ∧ s.locate 3 0 = some (4, seg4, 0) ∧
      (ran (.setCaptureMode 0 (.overwrite 0)) s).segFree = s.segFree :=
  ⟨⟨ask (live cap) (.station 0) (.setCaptureMode (.insert 10)), by decide +kernel⟩,
    ⟨ask (live cap) (.station 0) (.setCaptureMode (.insert 9)), by decide +kernel⟩,
    ask (live cap) (.station 0) (.setCaptureMode (.overwrite 0)), by decide +kernel⟩

/-- Seal class 3; counts of 6,000 and 1,048,575. -/
theorem meets_CaptureModesAreSet_setup :
    (∃ s : State, s.routed (.station 0) (.sealMode 3) = some (rep, 7) ∧ (s.chan 0).stream = .capture cap ∧
      cap.running = false ∧ (s.placement 0).inflight = [] ∧ toldAt (ran (.sealMode 0 3) s) 0 = some .done) ∧
    ∃ s : State, s.routed (.station 0) (.captureSetup 6000 1048575 true true true) = some (rep, 7) ∧
      (s.chan 0).stream = .capture cap ∧ toldAt (ran (.captureSetup 0 6000 1048575 true true true) s) 0 = some .done :=
  ⟨⟨ask (live cap) (.station 0) (.sealMode 3), by decide +kernel⟩,
    ask (live cap) (.station 0) (.captureSetup 6000 1048575 true true true), by decide +kernel⟩

/-- RECORD and PAUSE of a capture, PAUSE of a play, the RECORD control pressed and released. -/
theorem meets_RecordAndPauseRun :
    (∃ s : State, s.routed (.station 0) .record = some (rep, 7) ∧ (s.chan 0).stream = .capture cap ∧
      (s.chan 0).second = none ∧ (ran (.record 0) s).captureOf 0 = some { cap with running := true }) ∧
    (∃ s : State, s.routed (.station 0) .pause = some (rep, 7) ∧ (s.chan 0).stream = .capture { cap with running := true } ∧
      (ran (.pause 0) s).captureOf 0 = some cap) ∧
    (∃ s : State, s.routed (.station 1) .pause = some (typ, 7) ∧ (s.chan 1).stream = .play playing ∧ playing.run ≠ .paused ∧
      (ran (.pause 1) s).playOf 1 = some { playing with run := .paused }) ∧
    (∃ s : State, (s.link 0).up = true ∧ (s.chan 0).binding = .link ∧ (s.link 0).role = .reporter ∧
      (s.link 0).pedalMask = false ∧ (s.chan 0).stream = .capture { cap with running := true } ∧
      (ran (.recordRelease 0) s).captureOf 0 = some cap) ∧
    ∃ s : State, (s.link 0).up = true ∧ (s.link 0).role = .reporter ∧ (s.link 0).pedalMask = false ∧
      (s.chan 0).stream = .capture cap ∧ (s.chan 0).noContinuation = false ∧ (s.chan 0).second = none ∧
      (s.chan 0).suspended = false ∧ (ran (.recordPress 0) s).captureOf 0 = some { cap with running := true } :=
  ⟨⟨ask (live cap) (.station 0) .record, by decide +kernel⟩,
    ⟨ask (live { cap with running := true }) (.station 0) .pause, by decide +kernel⟩,
    ⟨ask (played playing) (.station 1) .pause, by decide +kernel⟩,
    ⟨live { cap with running := true }, by decide +kernel⟩, live cap, by decide +kernel⟩

/-- Job 3 read back from frame 2. -/
def reading : State := parts.setChan 0 { stream := .readback { job := ⟨3, 1⟩, parked := {}, pos := 128 } }

/-- A read-back from the last frame and from a cue, ended by READBACK END and by RECORD. -/
theorem meets_ReadbackStartsAndEnds :
    (∃ s : State, s.routed (.station 0) (.readback 8 (.pos 9)) = some (rep, 7) ∧ (s.chan 0).stream = .capture cap ∧
      cap.running = false ∧ (s.placement 0).inflight = [] ∧ 0 < s.cueFree ∧ 9 < (s.job 3).length ∧
      ((ran (.readback 0 8 (.pos 9)) s).readbackOf 0).map Readback.pos = some 576) ∧
    (∃ s : State, s.routed (.station 0) (.readback 8 (.cue ⟨1, 1⟩)) = some (rep, 7) ∧ (s.chan 0).stream = .capture cap ∧
      (s.placement 0).inflight = [] ∧ 0 < s.cueFree ∧ s.cueCurrent ⟨1, 1⟩ = true ∧ (s.cue 1).body = some cue1 ∧
      cue1.anchor ≠ .jobEnd ∧ ((ran (.readback 0 8 (.cue ⟨1, 1⟩)) s).readbackOf 0).map Readback.pos = some 384) ∧
    (∃ s : State, s.routed (.station 0) .readbackEnd = some (rep, 7) ∧
      (s.chan 0).stream = .readback { job := ⟨3, 1⟩, parked := {}, pos := 128 } ∧
      (ran (.readbackEnd 0) s).captureOf 0 = some cap) ∧
    ∃ s : State, s.routed (.station 0) .record = some (rep, 7) ∧
      (s.chan 0).stream = .readback { job := ⟨3, 1⟩, parked := {}, pos := 128 } ∧ (s.chan 0).second = none ∧
      (ran (.record 0) s).captureOf 0 = some { cap with running := true } :=
  ⟨⟨ask (live cap) (.station 0) (.readback 8 (.pos 9)), by decide +kernel⟩,
    ⟨ask (live cap) (.station 0) (.readback 8 (.cue ⟨1, 1⟩)), by decide +kernel⟩,
    ⟨ask reading (.station 0) .readbackEnd, by decide +kernel⟩, ask reading (.station 0) .record, by decide +kernel⟩

/-- A RUNNING capture with entries in flight, a tail extent and a free list. -/
def arriving (n : Nat) (t : Option Tail) (free : List Nat) : State :=
  { (live { cap with running := true }).setJob 3 { job3 with tail := t } with
    places := if n = 0 then [] else [(0, { inflight := List.replicate n { extent := 2, frame := 9, mode := .append, data := 0 } })]
    freeList := free }

/-- A frame arrives with four and with three in flight, at the last place of the tail extent, with no tail extent, and with no
free extent. -/
theorem meets_FrameArrivalClaimsAWrite :
    (∃ s : State, (s.link 0).up = true ∧ (s.chan 0).binding = .link ∧ (s.link 0).role = .reporter ∧
      (s.chan 0).stream = .capture { cap with running := true } ∧ (s.placement 0).inflight.length = 4 ∧
      (ran (.frameArrival 0 5) s).places = s.places) ∧
    (∃ s : State, (s.link 0).up = true ∧ (s.link 0).role = .reporter ∧ (s.placement 0).inflight.length = 3 ∧
      (s.chan 0).stream = .capture { cap with running := true } ∧
      (s.job 3).length + State.raising (s.placement 0).inflight < 16777215 ∧
      (s.job 3).tail = some { extent := 2, fill := 4095 } ∧ s.port = none ∧ s.waiting = [] ∧
      (ran (.frameArrival 0 5) s).port = some { claim := ⟨2, 4095, .capture 0 ⟨3, 1⟩ 5⟩ }) ∧
    (∃ s : State, (s.link 0).up = true ∧ (s.link 0).role = .reporter ∧ (s.placement 0).inflight = [] ∧
      (s.chan 0).stream = .capture { cap with running := true } ∧ (s.job 3).tail = none ∧ s.freeList = [5, 6] ∧
      ((ran (.frameArrival 0 5) s).job 3).tail = some { extent := 5, fill := 1 }) ∧
    ∃ s : State, (s.link 0).up = true ∧ (s.link 0).role = .reporter ∧ (s.placement 0).inflight = [] ∧
      (s.chan 0).stream = .capture { cap with running := true } ∧ (s.job 3).tail = none ∧ s.freeList = [] ∧
      s.notices.length < 32 ∧ (ran (.frameArrival 0 5) s).notices = [.captureEnded ⟨3, 1⟩ .storeFull] :=
  ⟨⟨arriving 4 job3.tail [5, 6], by decide +kernel⟩, ⟨arriving 3 (some { extent := 2, fill := 4095 }) [5, 6], by decide +kernel⟩,
    ⟨arriving 0 none [5, 6], by decide +kernel⟩, arriving 0 none [], by decide +kernel⟩

/-! ### Play -/

/-- A take loaded, and its play halted with HALT NOTIFY. -/
theorem meets_LoadAndHalt :
    (∃ s : State, s.routed (.station 1) (.loadTake ⟨0, 1⟩) = some (typ, 7) ∧ s.takeCurrent ⟨0, 1⟩ = true ∧
      (s.take 0).body = some { take0 with state := .claimed, typist := some 9 } ∧ (s.job 3).state ≠ .retiring ∧
      (s.chan 1).isIdle = true ∧ (ran (.loadTake 1 ⟨0, 1⟩) s).playOf 1 = some { job := ⟨3, 1⟩, take := ⟨0, 1⟩ }) ∧
    ∃ s : State, s.routed (.station 1) .halt = some (typ, 7) ∧ (s.chan 1).stream = .play playing ∧
      (s.chan 1).matrix.haltNotify = true ∧ ((ran (.halt 1) s).chan 1).slot.map Notice.cause = some .halt ∧
      ((ran (.halt 1) s).take 0).body.map TakeBody.resume = some (some 128) :=
  ⟨⟨ask (closed .closed .claimed) (.station 1) (.loadTake ⟨0, 1⟩), by decide +kernel⟩,
    ask ((played playing).updChan 1 fun c => { c with matrix := { haltNotify := true } }) (.station 1) .halt,
    by decide +kernel⟩

/-- PLAY from a backstep beyond the take's start; the PLAY control pressed and released. -/
theorem meets_PlayStartsAndStops :
    (∃ (s : State) (p : Play), p = { playing with run := .paused } ∧ (s.chan 1).stream = .play p ∧
      s.routed (.station 1) .play = some (typ, 7) ∧ (s.chan 1).noContinuation = false ∧ (s.link 1).up = true ∧
      (s.chan 1).binding = .link ∧ (s.link 1).role = .typist ∧ (s.link 1).pedalMask = false ∧ (s.chan 1).suspended = false ∧
      (ran (.play 1) s).playOf 1 = some { playing with pos := 0 } ∧
      (ran (.playPress 1) s).playOf 1 = some { playing with pos := 0 }) ∧
    ∃ s : State, (s.chan 1).stream = .play playing ∧ playing.run ≠ .paused ∧ (s.link 1).up = true ∧
      (s.link 1).role = .typist ∧ (ran (.playRelease 1) s).playOf 1 = some { playing with run := .paused } :=
  ⟨⟨ask (played { playing with run := .paused }) (.station 1) .play, _, rfl, by decide +kernel⟩,
    played playing, by decide +kernel⟩

/-- REWIND by 1 and FORWARD by 1,048,575, JUMP to the take's end and to the cue, and RETURN. -/
theorem meets_PositioningMoves :
    (∃ s : State, s.routed (.station 1) (.rewind 1) = some (typ, 7) ∧ (s.chan 1).stream = .play playing ∧
      ((ran (.rewind 1 1) s).playOf 1).map Play.pos = some 64) ∧
    (∃ s : State, s.routed (.station 1) (.forward 1048575) = some (typ, 7) ∧ (s.chan 1).stream = .play playing ∧
      ((ran (.forward 1 1048575) s).playOf 1).map Play.pos = some 640) ∧
    (∃ s : State, s.routed (.station 1) (.jump (.pos 10)) = some (typ, 7) ∧ (s.chan 1).stream = .play playing ∧
      s.playFrames playing = 10 ∧ playing.stack.length < 4 ∧
      ((ran (.jump 1 (.pos 10)) s).playOf 1).map Play.stack = some [128]) ∧
    (∃ s : State, s.routed (.station 1) (.jump (.cue ⟨1, 1⟩)) = some (typ, 7) ∧ (s.chan 1).stream = .play playing ∧
      s.cueCurrent ⟨1, 1⟩ = true ∧ s.cueJob 1 = 3 ∧ s.cuePos 1 = s.playStart playing + 6 ∧ 6 < s.playFrames playing ∧
      ((ran (.jump 1 (.cue ⟨1, 1⟩)) s).playOf 1).map Play.pos = some 384) ∧
    ∃ (s : State) (p : Play), p = { playing with stack := [64] } ∧ (s.chan 1).stream = .play p ∧
      s.routed (.station 1) .returnPlay = some (typ, 7) ∧
      ((ran (.returnPlay 1) s).playOf 1).map Play.pos = some 64 :=
  ⟨⟨ask (played playing) (.station 1) (.rewind 1), by decide +kernel⟩,
    ⟨ask (played playing) (.station 1) (.forward 1048575), by decide +kernel⟩,
    ⟨ask (played playing) (.station 1) (.jump (.pos 10)), by decide +kernel⟩,
    ⟨ask (played playing) (.station 1) (.jump (.cue ⟨1, 1⟩)), by decide +kernel⟩,
    ask (played { playing with stack := [64] }) (.station 1) .returnPlay, _, rfl, by decide +kernel⟩

/-- The REWIND control pressed, released, and the FORWARD control released while REWIND is held. -/
theorem meets_ShuttlePedals : ∃ (s : State) (p : Play), p = { playing with run := .paused, shuttle := .rewind } ∧
    (s.chan 1).stream = .play p ∧ (s.link 1).up = true ∧ (s.chan 1).binding = .link ∧ (s.link 1).role = .typist ∧
    (s.link 1).pedalMask = false ∧ (s.chan 1).suspended = false ∧
    ((ran (.rewindPress 1) s).playOf 1).map Play.shuttle = some .rewind ∧
    ((ran (.forwardPress 1) s).playOf 1).map Play.shuttle = some .forward ∧
    ((ran (.shuttleRelease 1 .rewind) s).playOf 1).map Play.shuttle = some .none ∧
    ((ran (.shuttleRelease 1 .forward) s).playOf 1).map Play.shuttle = some .rewind :=
  ⟨played { playing with run := .paused, shuttle := .rewind }, _, rfl, by decide +kernel⟩

/-- PLAY SETUP of a base, counts and a window, and of the position at the take's end. -/
theorem meets_PlaySetupAndProfilesWrite_setup :
    (∃ (s : State) (d : PlaySetup), d = { base := some 9, remaining := some 1048575, mode := some 3, window := some (4, 4) } ∧
      s.routed (.station 1) (.playSetup d) = some (typ, 7) ∧ (s.chan 1).stream = .play playing ∧ d ≠ {} ∧
      9 < s.playFrames playing ∧ toldAt (ran (.playSetup 1 d) s) 1 = some .done) ∧
    ∃ (s : State) (d : PlaySetup), d = { pos := some 10 } ∧ s.routed (.station 1) (.playSetup d) = some (typ, 7) ∧
      (s.chan 1).stream = .play playing ∧ d ≠ {} ∧ 10 ≤ s.playFrames playing ∧
      ((ran (.playSetup 1 d) s).playOf 1).map Play.pos = some 640 :=
  ⟨⟨ask (played playing) (.station 1)
      (.playSetup { base := some 9, remaining := some 1048575, mode := some 3, window := some (4, 4) }), _, rfl, by decide +kernel⟩,
    ask (played playing) (.station 1) (.playSetup { pos := some 10 }), _, rfl, by decide +kernel⟩

/-- Profile A written IMMEDIATE, and profile B AT-BOUNDARY, its rate marked. -/
theorem meets_PlaySetupAndProfilesWrite_profile :
    (∃ (s : State) (f : ProfileFields), f = { rate := some 32 } ∧ s.routed (.station 0) (.setProfile 0 0 f) = some (rep, 7) ∧
      profileOut f = false ∧ f ≠ {} ∧ profileHeld f (s.chan 0).profA = false ∧
      ((ran (.setProfile 0 0 0 f) s).chan 0).profA.active.rate = 32) ∧
    ∃ (s : State) (f : ProfileFields), f = { rate := some 128 } ∧
      s.routed (.station 1) (.setProfile 1 1 f) = some (typ, 7) ∧ profileOut f = false ∧ (s.chan 1).stream ≠ .idle ∧ f ≠ {} ∧
      profileHeld f (s.chan 1).profB = false ∧ ((ran (.setProfile 1 1 1 f) s).chan 1).profB.rateMark = true :=
  ⟨⟨ask desks (.station 0) (.setProfile 0 0 { rate := some 32 }), _, rfl, by decide +kernel⟩,
    ask (played playing) (.station 1) (.setProfile 1 1 { rate := some 128 }), _, rfl, by decide +kernel⟩

/-- READ PROFILES of channels 16 and 15, and by a station. -/
theorem meets_ReadProfilesAnswers :
    told (ran (.readProfiles .console (some 16)) (ask desks .console (.readProfiles (some 16)))) = some .range ∧
    told (ran (.readProfiles .console (some 15)) (ask desks .console (.readProfiles (some 15)))) = some .done ∧
    toldAt (ran (.readProfiles (.station 0) none) (ask desks (.station 0) (.readProfiles none))) 0 = some .done := by
  decide +kernel

/-! ### Channels, links and exports -/

/-- BIND CHANNEL both ways; frame timeouts 10 and 250. -/
theorem meets_ChannelAndLinkSettings_channel :
    (∃ s : State, s.routed .console (.bindChannel 15 1) = some (.console, 7) ∧ (s.chan 15).isIdle = true ∧
      (s.link 15).role = .vacant ∧ (s.chan 15).binding = .link ∧ ((ran (.bindChannel 15 1) s).chan 15).binding = .bulk) ∧
    (∃ s : State, s.routed .console (.bindChannel 14 0) = some (.console, 7) ∧ (s.chan 14).isIdle = true ∧
      (s.chan 14).binding = .bulk ∧ ((ran (.bindChannel 14 0) s).chan 14).binding = .link) ∧
    (∃ s : State, s.routed .console (.setFrameTimeout 15 10) = some (.console, 7) ∧ (s.chan 15).timeout ≠ 10 ∧
      ((ran (.setFrameTimeout 15 10) s).chan 15).timeout = 10) ∧
    told (ran (.setFrameTimeout 0 250) (ask desks .console (.setFrameTimeout 0 250))) = some .done ∧
    told (ran (.setFrameTimeout 0 251) (ask desks .console (.setFrameTimeout 0 251))) = some .range :=
  ⟨⟨ask desks .console (.bindChannel 15 1), by decide +kernel⟩, ⟨ask bulky .console (.bindChannel 14 0), by decide +kernel⟩,
    ⟨ask desks .console (.setFrameTimeout 15 10), by decide +kernel⟩, by decide +kernel, by decide +kernel⟩

/-- CONFIGURE STATION of a new person, of a clearance alone, and to VACANT; the pedal mask set and cleared. -/
theorem meets_ChannelAndLinkSettings_link :
    (∃ s : State, s.routed .console (.configureStation 15 2 63 3 7) = some (.console, 7) ∧
      (∀ x, x < 16 → x ≠ 15 → (s.link x).role ≠ .typist ∨ (s.link x).person ≠ 63) ∧
      (s.chan 15).binding = .link ∧ (s.chan 15).isIdle = true ∧ (ran (.configureStation 15 2 63 3 7) s).link 15 =
        { s.link 15 with role := .typist, person := 63, clearance := 3, elig := 7 }) ∧
    (∃ s : State, s.routed .console (.configureStation 1 2 9 0 7) = some (.console, 7) ∧
      (∀ x, x < 16 → x ≠ 1 → (s.link x).role ≠ .typist ∨ (s.link x).person ≠ 9) ∧ (s.chan 1).isIdle = true ∧
      (s.link 1).role = .typist ∧ (s.link 1).person = 9 ∧
      (ran (.configureStation 1 2 9 0 7) s).link 1 = { s.link 1 with clearance := 0 }) ∧
    told (ran (.configureStation 0 0 0 0 0) (ask desks .console (.configureStation 0 0 0 0 0))) = some .done ∧
    (∃ (s : State) (p : Play), p = { playing with run := .paused, shuttle := .forward } ∧
      s.routed (.station 1) (.pedalMask 0) = some (typ, 7) ∧ (s.link 1).pedalMask = false ∧ (s.chan 1).stream = .play p ∧
      ((ran (.pedalMask 1 0) s).playOf 1).map Play.shuttle = some .none ∧ ((ran (.pedalMask 1 0) s).link 1).pedalMask = true) ∧
    ∃ s : State, s.routed (.station 1) (.pedalMask 1) = some (typ, 7) ∧ (s.link 1).pedalMask = true ∧
      ((ran (.pedalMask 1 1) s).link 1).pedalMask = false :=
  ⟨⟨ask desks .console (.configureStation 15 2 63 3 7), by decide +kernel⟩,
    ⟨ask desks .console (.configureStation 1 2 9 0 7), by decide +kernel⟩, by decide +kernel,
    ⟨ask (played { playing with run := .paused, shuttle := .forward }) (.station 1) (.pedalMask 0), _, rfl, by decide +kernel⟩,
    ask (desks.updLink 1 fun k => { k with pedalMask := true }) (.station 1) (.pedalMask 1), by decide +kernel⟩

/-- READ CHANNEL and READ LINK of 16 and of 15, and READ CHANNEL by a station. -/
theorem meets_ChannelAndLinkReadsAnswer :
    told (ran (.readChannel .console (some 16)) (ask desks .console (.readChannel (some 16)))) = some .range ∧
    told (ran (.readChannel .console (some 15)) (ask desks .console (.readChannel (some 15)))) = some .done ∧
    toldAt (ran (.readChannel (.station 0) none) (ask (live cap) (.station 0) (.readChannel none))) 0 = some .done ∧
    told (ran (.readLink 16) (ask desks .console (.readLink 16))) = some .range ∧
    told (ran (.readLink 15) (ask desks .console (.readLink 15))) = some .done := by decide +kernel

/-- An export started, one that has no frame to claim, and one stopped with HALT NOTIFY. -/
theorem meets_ExportsStartAndStop :
    (∃ s : State, s.routed .console (.exportJob ⟨3, 1⟩ 14 1 3) = some (.console, 7) ∧ s.jobCurrent ⟨3, 1⟩ = true ∧
      (s.job 3).state = .closed ∧ (s.job 3).held = false ∧ (s.job 3).exportBusy = false ∧ (s.chan 14).binding = .bulk ∧
      (s.chan 14).isIdle = true ∧ (∀ b ∈ s.buffer, b.chan ≠ 14) ∧
      s.exportFrom { job := ⟨3, 1⟩, excludeSealed := true } < (s.job 3).length ∧
      (ran (.exportJob ⟨3, 1⟩ 14 1 3) s).exportOf 14 = some { job := ⟨3, 1⟩, excludeSealed := true }) ∧
    (∃ s : State, s.routed .console (.exportJob ⟨3, 1⟩ 14 0 0) = some (.console, 7) ∧ s.jobCurrent ⟨3, 1⟩ = true ∧
      (s.job 3).state = .closed ∧ (s.job 3).held = false ∧ (s.job 3).exportBusy = false ∧ (s.chan 14).binding = .bulk ∧
      (s.chan 14).isIdle = true ∧ (s.job 3).length ≤ s.exportFrom { job := ⟨3, 1⟩ } ∧
      (ran (.exportJob ⟨3, 1⟩ 14 0 0) s).exportOf 14 = none) ∧
    ∃ s : State, s.routed .console (.exportStop 14) = some (.console, 7) ∧
      (s.chan 14).stream = .exporting { job := ⟨3, 1⟩, pos := 4 } ∧ (s.chan 14).matrix.haltNotify = true ∧
      (s.chan 14).slot = none ∧ ((ran (.exportStop 14) s).chan 14).slot.map Notice.pos = some 256 :=
  ⟨⟨ask bulky .console (.exportJob ⟨3, 1⟩ 14 1 3), by decide +kernel⟩,
    ⟨ask (bulky.updJob 3 fun j => { j with length := 0, segHead := none }) .console (.exportJob ⟨3, 1⟩ 14 0 0), by decide +kernel⟩,
    ask ((exported { job := ⟨3, 1⟩, pos := 4 }).updChan 14 fun c => { c with matrix := { haltNotify := true } })
      .console (.exportStop 14), by decide +kernel⟩

/-- A claim of an export at frame 9 with 31 places taken and 15 claims outstanding, the store in use and the store at rest. -/
theorem meets_ExportFramesMove_claim :
    (∃ (s : State) (e : Exporting), e = { job := ⟨3, 1⟩, pos := 9, outstanding := 15 } ∧ (s.chan 14).stream = .exporting e ∧
      (s.chan 14).suspended = false ∧ s.buffer.length + s.reserved = 31 ∧ 9 < (s.job 3).length ∧
      s.locate 3 9 = some (4, seg4, 9) ∧ s.port ≠ none ∧ (ran (.bulkClaim 14) s).waiting = [⟨2, 9, .bulk 14 9⟩]) ∧
    ∃ (s : State) (e : Exporting), e = { job := ⟨3, 1⟩, pos := 9, outstanding := 15 } ∧ (s.chan 14).stream = .exporting e ∧
      s.buffer.length + s.reserved < 32 ∧ s.locate 3 9 = some (4, seg4, 9) ∧ s.port = none ∧ s.waiting = [] ∧
      (ran (.bulkClaim 14) s).port = some { claim := ⟨2, 9, .bulk 14 9⟩, place := true } :=
  ⟨⟨{ exported { job := ⟨3, 1⟩, pos := 9, outstanding := 15 } with
      reserved := 31, port := some { claim := ⟨2, 0, .play 1⟩ } }, _, rfl, by decide +kernel⟩,
    { exported { job := ⟨3, 1⟩, pos := 9, outstanding := 15 } with reserved := 15 }, _, rfl, by decide +kernel⟩

/-- The last read of an export but one completes, well and with a check on a DAMAGED extent; BULK READ of one and of 16. -/
theorem meets_ExportFramesMove_read :
    (∃ (s : State) (a : Access) (e : Exporting), a = { claim := ⟨2, 4, .bulk 14 4⟩, place := true } ∧
      e = { job := ⟨3, 1⟩, pos := 6, outstanding := 2 } ∧ s.port = some a ∧ (s.chan 14).stream = .exporting e ∧
      e.pos < (s.job 3).length ∧ ((ran (.exportReadCompletion false) s).buffer.map BufEntry.pos) = [4]) ∧
    (∃ (s : State) (a : Access) (e : Exporting), a = { claim := ⟨2, 4, .bulk 14 4⟩, place := true } ∧
      e = { job := ⟨3, 1⟩, pos := 6, outstanding := 2 } ∧ s.port = some a ∧ (s.chan 14).stream = .exporting e ∧
      e.pos < (s.job 3).length ∧ (s.ext 2).state = .damaged ∧
      ((ran (.exportReadCompletion true) s).buffer.map BufEntry.damaged) = [true]) ∧
    told (ran (.bulkRead 14 1) (ask bulky .console (.bulkRead 14 1))) = some .done ∧
    told (ran (.bulkRead 15 16) (ask bulky .console (.bulkRead 15 16))) = some .done :=
  ⟨⟨{ exported { job := ⟨3, 1⟩, pos := 6, outstanding := 2 } with
      reserved := 2, port := some { claim := ⟨2, 4, .bulk 14 4⟩, place := true } }, _, _, rfl, rfl, by decide +kernel⟩,
    ⟨{ exported { job := ⟨3, 1⟩, pos := 6, outstanding := 2 } with
      exts := [(2, { state := .damaged, refs := 2 })]
      reserved := 2, port := some { claim := ⟨2, 4, .bulk 14 4⟩, place := true } }, _, _, rfl, rfl, by decide +kernel⟩,
    by decide +kernel, by decide +kernel⟩

/-! ### The console port and the links -/

/-- READ NOTICE with one notice, with two, and with none. -/
theorem meets_ReadNoticeTakesOldest :
    (∃ s : State, s.routed .console .readNotice = some (.console, 7) ∧ s.notices = [.poolLow 1 2] ∧
      (ran .readNotice s).attention = false) ∧
    (∃ s : State, s.routed .console .readNotice = some (.console, 7) ∧ s.notices = [.poolLow 1 2, .poolLow 3 4] ∧
      (ran .readNotice s).attention = true) ∧
    ∃ s : State, s.routed .console .readNotice = some (.console, 7) ∧ s.notices = [] ∧ s.overflowed = true ∧
      told (ran .readNotice s) = some .none ∧ (ran .readNotice s).overflowed = false :=
  ⟨⟨ask { desks with notices := [.poolLow 1 2] } .console .readNotice, by decide +kernel⟩,
    ⟨ask { desks with notices := [.poolLow 1 2, .poolLow 3 4] } .console .readNotice, by decide +kernel⟩,
    ask { desks with overflowed := true } .console .readNotice, by decide +kernel⟩

/-- A notice of a channel. -/
def note (ch : Nat) : Notice := { chan := ch, cause := .halt, action := .stopped, job := ⟨3, 1⟩, pos := 0 }

/-- ACKNOWLEDGE NOTICE and NOTICE_ACK with one notice and with two; NOTICE_ACK with none. -/
theorem meets_AcknowledgementsMoveNotices :
    (∃ s : State, s.routed .console (.acknowledgeNotice 14) = some (.console, 7) ∧ (s.chan 14).binding = .bulk ∧
      (s.chan 14).slot = some (note 14) ∧ (s.chan 14).second = none ∧
      ((ran (.acknowledgeNotice 14) s).chan 14).slot = none) ∧
    (∃ s : State, s.routed .console (.acknowledgeNotice 14) = some (.console, 7) ∧ (s.chan 14).binding = .bulk ∧
      (s.chan 14).slot = some (note 14) ∧ (s.chan 14).second = some (note 14) ∧
      (ran (.acknowledgeNotice 14) s).notices = [.channel 14 (note 14)]) ∧
    (∃ s : State, (s.link 1).up = true ∧ (s.chan 1).binding = .link ∧ (s.chan 1).slot = none ∧ ran (.noticeAck 1) s = s) ∧
    (∃ s : State, (s.link 1).up = true ∧ (s.chan 1).binding = .link ∧ (s.chan 1).slot = some (note 1) ∧
      (s.chan 1).second = none ∧ ((ran (.noticeAck 1) s).chan 1).slot = none) ∧
    ∃ s : State, (s.link 1).up = true ∧ (s.chan 1).binding = .link ∧ (s.chan 1).slot = some (note 1) ∧
      (s.chan 1).second = some (note 1) ∧ ((ran (.noticeAck 1) s).link 1).unsent = [.notice (note 1)] :=
  ⟨⟨ask (bulky.updChan 14 fun c => { c with slot := some (note 14) }) .console (.acknowledgeNotice 14), by decide +kernel⟩,
    ⟨ask (bulky.updChan 14 fun c => { c with slot := some (note 14), second := some (note 14) }) .console
      (.acknowledgeNotice 14), by decide +kernel⟩,
    ⟨desks, by decide +kernel⟩, ⟨desks.updChan 1 fun c => { c with slot := some (note 1) }, by decide +kernel⟩,
    desks.updChan 1 fun c => { c with slot := some (note 1), second := some (note 1) }, by decide +kernel⟩

/-- WARM RESET with a capture running. -/
theorem meets_WarmResetStops : ∃ s : State, s.routed .console .warmReset = some (.console, 7) ∧
    s.captureFields 0 = some (⟨3, 1⟩, {}) ∧ ((ran .warmReset s).job 3).state = .setAside ∧
    ((ran .warmReset s).chan 0).stream = .idle :=
  ⟨ask (live { cap with running := true }) .console .warmReset, by decide +kernel⟩

/-- A console request routed, one met BUSY, and one only a station may send. -/
theorem meets_ConsoleRequestsAreRouted :
    fitsPort true .readPool = true ∧ (ran (.consoleRequest 9 .readPool) desks).conOutstanding = some ⟨.readPool, 9⟩ ∧
    told (ran (.consoleRequest 9 .readPool) (ask desks .console .format)) = some .busy ∧
    fitsPort true .record = true ∧ told (ran (.consoleRequest 9 .record) desks) = some .notPermitted := by decide +kernel

/-- A station's request routed, of another form, not permitted, met BUSY; a malformed envelope of each port; a link DOWN. -/
theorem meets_StationMessagesArrive :
    ((ran (.inboundRequest 0 9 .record) desks).link 0).outstanding = some ⟨.record, 9, .reporter, 7⟩ ∧
    fitsPort false (.readChannel (some 0)) = false ∧
    toldAt (ran (.inboundRequest 0 9 (.readChannel (some 0))) desks) 0 = some .malformed ∧
    toldAt (ran (.inboundRequest 0 9 .claimNext) desks) 0 = some .notPermitted ∧
    toldAt (ran (.inboundRequest 0 9 .record) (ask desks (.station 0) .pause)) 0 = some .busy ∧
    (∃ (k : Nat) (t : Byte), judge false ⟨2, 1, [104]⟩ = .malformed k t) ∧
    (∃ (k : Nat) (t : Byte), judge true ⟨2, 1, [104]⟩ = .malformed k t) ∧
    (desks.link 0).up = true ∧ (desks.chan 0).binding = .link ∧ (desks.link 2).up = false ∧ (bulky.chan 14).binding = .bulk :=
  ⟨by decide +kernel, by decide +kernel, by decide +kernel, by decide +kernel, by decide +kernel, ⟨_, _, rfl⟩, ⟨_, _, rfl⟩,
    by decide +kernel⟩

/-- A link goes up; a link of a channel bound to BULK, of a play and of a capture goes down. -/
theorem meets_LinksGoUpAndDown :
    (∃ s : State, (s.link 15).up = false ∧ ((ran (.linkUp 15) s).link 15).up = true) ∧
    (∃ s : State, (s.link 14).up = true ∧ (s.chan 14).binding = .bulk ∧ ((ran (.linkDown 14) s).link 14).up = false) ∧
    (∃ s : State, (s.link 1).up = true ∧ (s.chan 1).binding = .link ∧ (s.chan 1).stream = .play playing ∧
      ((ran (.linkDown 1) s).take 0).body.map TakeBody.resume = some (some 128)) ∧
    ∃ s : State, (s.link 0).up = true ∧ (s.chan 0).binding = .link ∧ s.captureFields 0 = some (⟨3, 1⟩, {}) ∧
      ((ran (.linkDown 0) s).job 3).state = .setAside :=
  ⟨⟨desks, by decide +kernel⟩, ⟨bulky.updLink 14 fun k => { k with up := true }, by decide +kernel⟩,
    ⟨played playing, by decide +kernel⟩, live cap, by decide +kernel⟩

/-! ### Events of the part -/

/-- A frame period of a capture one short of its timeout, and at it. -/
theorem meets_FramePeriods_capture :
    (∃ (s : State) (c : Capture), c = { cap with running := true, counter := 48 } ∧ (s.chan 0).suspended = false ∧
      (s.chan 0).stream = .capture c ∧ (s.chan 0).timeout = 50 ∧
      (ran (.framePeriod 0) s).captureOf 0 = some { c with counter := 49 }) ∧
    ∃ (s : State) (c : Capture), c = { cap with running := true, counter := 49 } ∧ (s.chan 0).suspended = false ∧
      (s.chan 0).stream = .capture c ∧ (s.chan 0).timeout = 50 ∧ (s.chan 0).binding = .link ∧ s.notices.length < 32 ∧
      (ran (.framePeriod 0) s).notices = [.captureEnded ⟨3, 1⟩ .frameTimeout] :=
  ⟨⟨live { cap with running := true, counter := 48 }, _, rfl, by decide +kernel⟩,
    live { cap with running := true, counter := 49 }, _, rfl, by decide +kernel⟩

/-- A frame period of a play with the store in use and at rest, of a shuttle held, and of an IDLE channel. -/
theorem meets_FramePeriods_play :
    (∃ s : State, (s.chan 1).suspended = false ∧ (s.chan 1).stream = .play playing ∧ playing.pos / 64 < s.playFrames playing ∧
      s.locate 3 (s.playStart playing + playing.pos / 64) = some (4, seg4, 2) ∧ seg4.sealPart.getD 0 ≤ (s.link 1).clearance ∧
      s.port = none ∧ s.waiting = [] ∧ (ran (.framePeriod 1) s).port = some { claim := ⟨2, 2, .play 1⟩ }) ∧
    (∃ s : State, (s.chan 1).stream = .play playing ∧ s.port ≠ none ∧
      (ran (.framePeriod 1) s).waiting = [⟨2, 2, .play 1⟩]) ∧
    (∃ (s : State) (p : Play), p = { playing with run := .paused, shuttle := .rewind } ∧ (s.chan 1).stream = .play p ∧
      (s.chan 1).suspended = false ∧ ((ran (.framePeriod 1) s).playOf 1).map Play.pos = some 0) ∧
    ∃ s : State, (s.chan 0).stream = .idle ∧ ran (.framePeriod 0) s = s :=
  ⟨⟨played playing, by decide +kernel⟩, ⟨{ played playing with port := some { claim := ⟨6, 0, .scrub⟩ } }, by decide +kernel⟩,
    ⟨played { playing with run := .paused, shuttle := .rewind }, _, rfl, by decide +kernel⟩, desks, by decide +kernel⟩

/-- A capture's write in progress: frame 10 of extent 2, for the entry at the head of the list. -/
def writing (j : Job) (live_ : Bool) : State :=
  { (live { cap with running := true }).setJob 3 { j with tail := some { extent := 2, fill := 11 } } with
    places := [(0, { inflight := [{ extent := 2, frame := 10, mode := .append, data := 5 }] })]
    port := some { claim := ⟨2, 10, .capture 0 ⟨3, 1⟩ 5⟩, live := live_ } }

/-- A good capture write that extends the last segment, one that opens the job's first segment, one no longer wanted, and one
that ends in a check. -/
theorem meets_WritesComplete_capture :
    (∃ (s : State) (x : Entry), x = { extent := 2, frame := 10, mode := .append, data := 5 } ∧
      s.port = some { claim := ⟨2, 10, .capture 0 ⟨3, 1⟩ 5⟩ } ∧ (s.placement 0).inflight = [x] ∧
      (s.chan 0).stream = .capture { cap with running := true } ∧ 0 < s.segFree ∧
      (s.jobSegs 3).getLast? = some (4, seg4) ∧ seg4.extent = x.extent ∧ seg4.first + seg4.count = x.frame ∧
      ((ran (.captureWriteCompletion false) s).job 3).length = 11 ∧
      ((ran (.captureWriteCompletion false) s).seg 4).body.map SegBody.count = some 11) ∧
    (∃ s : State, s.port = some { claim := ⟨2, 10, .capture 0 ⟨3, 1⟩ 5⟩ } ∧ (s.job 3).segHead = none ∧ 0 < s.segFree ∧
      ((ran (.captureWriteCompletion false) s).job 3).length = 1) ∧
    (∃ (s : State) (a : Access), a = { claim := ⟨2, 10, .capture 0 ⟨3, 1⟩ 5⟩, live := false } ∧ s.port = some a ∧
      a.live = false ∧ ((ran (.captureWriteCompletion false) s).job 3).length = 10) ∧
    ∃ (s : State) (x : Entry), x = { extent := 2, frame := 10, mode := .append, data := 5 } ∧
      s.port = some { claim := ⟨2, 10, .capture 0 ⟨3, 1⟩ 5⟩ } ∧ (s.chan 0).stream = .capture { cap with running := true } ∧
      s.jobCurrent ⟨3, 1⟩ = true ∧ (s.placement 0).inflight = [x] ∧ (s.job 3).tail = some { extent := 2, fill := 11 } ∧
      (s.ext 2).state = .inUse ∧ s.freeList = [5, 6] ∧ s.notices.length < 32 ∧
      ((ran (.captureWriteCompletion true) s).job 3).tail = some { extent := 5, fill := 1 } ∧
      (ran (.captureWriteCompletion true) s).notices = [.storeError 2 .write] :=
  ⟨⟨writing job3 true, _, rfl, by decide +kernel⟩,
    ⟨writing { job3 with length := 0, segHead := none, firstCue := none } true, by decide +kernel⟩,
    ⟨writing job3 false, _, rfl, by decide +kernel⟩, writing job3 true, _, rfl, by decide +kernel⟩

/-- Extent 7 being scrubbed at a frame. -/
def scrubbing (n : Nat) : State :=
  { desks with
    exts := [(7, { state := .scrub })], scrubList := [7], scrubNext := n, formatLeft := 1
    port := some { claim := ⟨7, n, .scrub⟩ } }

/-- A good scrub write of the last frame but one and of the last, and one that ends in a check. -/
theorem meets_WritesComplete_scrub :
    (∃ s : State, s.port = some { claim := ⟨7, 4094, .scrub⟩ } ∧ s.scrubNext = 4094 ∧
      (ran (.scrubWriteCompletion false) s).scrubNext = 4095) ∧
    (∃ s : State, s.port = some { claim := ⟨7, 4095, .scrub⟩ } ∧ s.scrubNext = 4095 ∧ s.scrubList = [7] ∧
      (ran (.scrubWriteCompletion false) s).freeList = [5, 6, 7]) ∧
    ∃ s : State, s.port = some { claim := ⟨7, 0, .scrub⟩ } ∧ (s.ext 7).state = .scrub ∧ s.notices.length < 32 ∧
      ((ran (.scrubWriteCompletion true) s).ext 7).state = .damaged :=
  ⟨⟨scrubbing 4094, by decide +kernel⟩, ⟨scrubbing 4095, by decide +kernel⟩, scrubbing 0, by decide +kernel⟩

/-- A play of take 0 with a read of the frame at its position granted. -/
def fetching (pos : Nat) (t : TakeState) (st : ExtState) (b : Bool) : State :=
  { (closed .closed t).setChan 1
      { stream := .play { playing with pos := pos, read := some { extent := 2, frame := 9, prof := .a } } } with
    exts := [(2, { state := st, refs := 2 })]
    port := some { claim := ⟨2, 9, .play 1⟩, live := b } }

/-- A play read that stops short of the take's end, one at the end of a CLAIMED and of a FOLLOWING take, one with a check, one
no longer wanted. -/
theorem meets_PlayReadCompletes :
    (∃ (s : State) (p : Play), p = { playing with pos := 512, read := some { extent := 2, frame := 9, prof := .a } } ∧
      s.port = some { claim := ⟨2, 9, .play 1⟩ } ∧ (s.chan 1).stream = .play p ∧ (s.chan 1).matrix = {} ∧
      (s.link 1).up = true ∧ (s.chan 1).binding = .link ∧ s.playFrames p = 10 ∧ p.pos + s.rateOf 1 .a none = 576 ∧
      ((ran (.playReadCompletion false) s).playOf 1).map Play.pos = some 576) ∧
    (∃ (s : State) (p : Play), p = { playing with pos := 576, read := some { extent := 2, frame := 9, prof := .a } } ∧
      s.port = some { claim := ⟨2, 9, .play 1⟩ } ∧ (s.chan 1).stream = .play p ∧ (s.chan 1).matrix = {} ∧
      s.takeState p.take = some .claimed ∧ ((ran (.playReadCompletion false) s).chan 1).noContinuation = true) ∧
    (∃ (s : State) (p : Play), p = { playing with pos := 576, read := some { extent := 2, frame := 9, prof := .a } } ∧
      s.port = some { claim := ⟨2, 9, .play 1⟩ } ∧ (s.chan 1).stream = .play p ∧
      s.takeState p.take = some .following ∧
      ((ran (.playReadCompletion false) s).playOf 1).map Play.run = some .followWait) ∧
    (∃ s : State, s.port = some { claim := ⟨2, 9, .play 1⟩ } ∧ (s.ext 2).state = .damaged ∧
      ((ran (.playReadCompletion true) s).link 1).unsent = [.frame true true 0]) ∧
    ∃ s : State, s.port = some { claim := ⟨2, 9, .play 1⟩, live := false } ∧
      ((ran (.playReadCompletion false) s).link 1).unsent = [] :=
  ⟨⟨fetching 512 .claimed .inUse true, _, rfl, by decide +kernel⟩, ⟨fetching 576 .claimed .inUse true, _, rfl, by decide +kernel⟩,
    ⟨fetching 576 .following .inUse true, _, rfl, by decide +kernel⟩, ⟨fetching 512 .claimed .damaged true, by decide +kernel⟩,
    fetching 512 .claimed .inUse false, by decide +kernel⟩

/-- Job 3 RETIRING in a phase of its sweep. -/
def sweeping (p : Phase) (j : Job) : State :=
  { closed .retiring .returned with
    jobs := [(3, { j with state := .retiring, chan := none, tail := none, sweep := some { phase := p, freed := 0 } })]
    retiring := [3] }

/-- Each phase of the sweep with a record left and with none. -/
theorem meets_SweepsAndReports_sweep :
    ((sweeping .segments job3).jobSegs 3 = [(4, seg4)] ∧ (ran .sweepStep (sweeping .segments job3)).segFree = 16384) ∧
    ((sweeping .segments { job3 with segHead := none }).jobSegs 3 = [] ∧
      (ran .sweepStep (sweeping .segments { job3 with segHead := none })).segFree = 16383) ∧
    ((sweeping .cues job3).jobCues 3 = [(1, cue1)] ∧ (ran .sweepStep (sweeping .cues job3)).cueFree = 8192) ∧
    ((sweeping .cues { job3 with firstCue := none }).jobCues 3 = [] ∧
      (ran .sweepStep (sweeping .cues { job3 with firstCue := none })).cueFree = 8191) ∧
    (((sweeping .takes job3).jobTakes 3).map Prod.fst = [0] ∧ (ran .sweepStep (sweeping .takes job3)).takeFree = 1024) ∧
    (sweeping .takes { job3 with takeHead := none }).jobTakes 3 = [] ∧
    (ran .sweepStep (sweeping .takes { job3 with takeHead := none })).notices = [.retired ⟨3, 1⟩ 0 7] := by decide +kernel

/-- A completion report that completes its job, and one that is dropped. -/
theorem meets_SweepsAndReports_report :
    (∃ s : State, s.reports = [⟨3, 1⟩] ∧ s.jobCurrent ⟨3, 1⟩ = true ∧ (s.job 3).state = .closed ∧ s.allReturned 3 = true ∧
      (ran .completionReport s).notices = [.jobComplete ⟨3, 1⟩]) ∧
    ∃ s : State, s.reports = [⟨3, 0⟩] ∧ s.jobCurrent ⟨3, 0⟩ = false ∧ (ran .completionReport s).reports = [] :=
  ⟨⟨{ closed .closed .returned with reports := [⟨3, 1⟩] }, by decide +kernel⟩,
    { closed .closed .returned with reports := [⟨3, 0⟩] }, by decide +kernel⟩

/-! ### The wider clauses -/

/-- A reply with one optional result of two: its presence word is 2, and a second byte of it stands for nine optional results. -/
theorem meets_RoutedRequestsAndReplies_bytes :
    replyBytes 12 7 .done { fixed := [.num 2 5], optional := [none, some [.num 1 9]] } = [3, 0, 7, 12, 7, 0, 0, 5, 2, 9] ∧
    ({ optional := List.replicate 8 none ++ [some [.num 1 9]] } : Result).bytes = [1, 0, 9] ∧
    (ask bulky (.station 14) .record).routed (.station 14) .record = none ∧
    (ask bulky (.station 14) .claimNext).routed (.station 14) .claimNext = some (.station 14 .vacant 0, 7) := by decide +kernel

/-- Job 3 in two takes, the second from the TAKE cue at frame 6. -/
def divided (t u : TakeState) : State :=
  { closed .closed .ready with
    jobs := [(3, { job3 with state := .closed, chan := none, tail := none, takeCount := 2 })]
    cues := [(1, { issue := 1, body := some { cue1 with kind := .take } })]
    takes := [(0, { issue := 1, body := some { take0 with state := t, next := some ⟨1, 1⟩, seq := some 4 } }),
      (1, { issue := 1, body := some { take0 with state := u, start := some ⟨1, 1⟩, seq := some 5 } })]
    takeFree := 1022, ready := [0, 1], readiness := 6 }

/-- CLOSE DICTATION of a job whose takes begin at its own cues; its second take has no frames, and goes with its cue. -/
theorem meets_CloseDictationCloses_takes : ∃ s : State, s.routed .console (.closeDictation ⟨3, 1⟩) = some (.console, 7) ∧
    s.jobCurrent ⟨3, 1⟩ = true ∧ (s.job 3).state = .setAside ∧ (s.job 3).held = false ∧ (s.job 3).chan = none ∧
    (∀ x ∈ s.jobTakes 3, x.2.start = none ∨ (x.2.start = some ⟨1, 1⟩ ∧ s.cueJob 1 = 3)) ∧
    ((ran (.closeDictation .console ⟨3, 1⟩) s).job 3).takeCount = 1 ∧ (ran (.closeDictation .console ⟨3, 1⟩) s).cueFree = 8192 :=
  ⟨ask { divided .ready .opened with
      jobs := [(3, { job3 with state := .setAside, chan := none, tail := none, takeCount := 2, length := 6 })]
      segs := [(4, { issue := 1, body := some { seg4 with count := 6, cue := none } })]
      cues := [(1, { issue := 1, body := some { cue1 with kind := .take, anchor := .jobEnd } })] }
    .console (.closeDictation ⟨3, 1⟩), by decide +kernel⟩

/-- An attribute written to a job whose two queued takes stand in the order of their keys, and follow-behind cleared. -/
theorem meets_SetJobAttributesWrites_queue :
    (∃ s : State, s.routed .console (.setJobAttributes ⟨3, 1⟩ { due := some 9 }) = some (.console, 7) ∧
      (s.job 3).state ≠ .retiring ∧ s.ready = [0, 1] ∧ keyBefore (s.queueKey 0) (s.queueKey 1) = true ∧
      (ran (.setJobAttributes ⟨3, 1⟩ { due := some 9 }) s).ready = [0, 1] ∧
      (ran (.setJobAttributes ⟨3, 1⟩ { due := some 9 }) s).takes = s.takes) ∧
    ∃ s : State, s.routed .console (.setJobAttributes ⟨3, 1⟩ { follow := some 0 }) = some (.console, 7) ∧
      s.openTake 3 = some 0 ∧ s.ready = [0] ∧ (ran (.setJobAttributes ⟨3, 1⟩ { follow := some 0 }) s).ready = [] :=
  ⟨⟨ask (divided .ready .ready) .console (.setJobAttributes ⟨3, 1⟩ { due := some 9 }), by decide +kernel⟩,
    ask { parts with jobs := [(3, { job3 with follow := true })], ready := [0] } .console
      (.setJobAttributes ⟨3, 1⟩ { follow := some 0 }), by decide +kernel⟩

/-- Frames 2 to 7 of job 3 sealed and paced: the segment is divided at both ends, and its middle part alone takes the part. A
read of the job that waits is withdrawn. -/
theorem meets_RangesWriteParts_inside : ∃ s : State, Canonical s ∧
    s.routed .console (.sealRange ⟨3, 1⟩ 2 7 2) = some (.console, 7) ∧ s.jobCurrent ⟨3, 1⟩ = true ∧
    (s.job 3).state ≠ .retiring ∧ (s.job 3).held = false ∧ (s.job 3).exportBusy = false ∧
    s.rangeHolds 3 2 7 (sealEdit 2) = false ∧ s.splitsNeeded 3 2 7 (sealEdit 2) = 2 ∧
    (((s.splitIf 3 2 (sealEdit 2)).splitIf 3 7 (sealEdit 2)).jobSegs 3).map (fun x => (x.1, x.2.first, x.2.count)) =
      [(4, 0, 2), (0, 2, 5), (1, 7, 3)] ∧
    s.readWaiting 1 = true ∧ (ran (.sealRange ⟨3, 1⟩ 2 7 2) s).waiting = [] ∧
    ((ran (.sealRange ⟨3, 1⟩ 2 7 2) s).jobSegs 3).map (fun x => x.2.sealPart) = [none, some 2, none] ∧
    ((ran (.sealRange ⟨3, 1⟩ 2 7 2) s).cue 1).body.map CueBody.anchor = some (.frame ⟨0, 0⟩ 4) ∧
    ((ran (.sealRange ⟨3, 1⟩ 2 7 2) s).ext 2).taint = true ∧
    ((ran (.paceRange ⟨3, 1⟩ 2 7 (some 128)) (ask s .console (.paceRange ⟨3, 1⟩ 2 7 (some 128)))).jobSegs 3).map
      (fun x => x.2.pace) = [none, some 128, none] :=
  ⟨ask { played { playing with read := some { extent := 2, frame := 2, prof := .a } } with waiting := [⟨2, 2, .play 1⟩] }
    .console (.sealRange ⟨3, 1⟩ 2 7 2), by unfold Canonical; decide +kernel, by decide +kernel⟩

/-- A TAKE cue at the capture point of a FOLLOW-BEHIND job, one in an OPEN take, and one in a READY take with its resume
position beyond the cue. -/
theorem meets_PlaceCueAddsCue_take :
    (∃ (s : State) (f : Place), Canonical s ∧ f = .atCapturePoint ⟨3, 1⟩ ∧
      s.routed (.station 0) (.placeCue 1 8 f) = some (rep, 7) ∧ rep.mayUse f = true ∧ placeRange s rep.link f = false ∧
      placeStale s f = false ∧ placeForeign s rep f = false ∧ placeState s rep 1 f = false ∧
      (s.job (s.placeJob f)).held = false ∧ placeFrozen s 1 f = false ∧ placeEmpty s 1 f = false ∧ 0 < s.takeFree ∧
      s.lastTake 3 = some (0, take0) ∧ (s.job 3).follow = true ∧
      ((ran (.placeCue (.station 0) 1 8 f) s).take 0).body.map TakeBody.state = some .ready ∧
      (ran (.placeCue (.station 0) 1 8 f) s).ready = [0, 1]) ∧
    (∃ (s : State) (f : Place), Canonical s ∧ f = .atPosition ⟨3, 1⟩ 3 ∧ s.routed .console (.placeCue 1 8 f) = some (.console, 7) ∧
      placeFrozen s 1 f = false ∧ placeEmpty s 1 f = false ∧ s.containingTake 3 3 = some (0, take0) ∧
      ((ran (.placeCue .console 1 8 f) s).take 1).body = some { take0 with start := some ⟨0, 0⟩ } ∧
      (ran (.placeCue .console 1 8 f) s).ready = [0]) ∧
    ∃ (s : State) (f : Place) (b : TakeBody), Canonical s ∧ f = .atPosition ⟨3, 1⟩ 3 ∧
      b = { take0 with state := .ready, seq := some 1, resume := some 192 } ∧
      s.routed .console (.placeCue 1 8 f) = some (.console, 7) ∧ placeFrozen s 1 f = false ∧ placeEmpty s 1 f = false ∧
      s.containingTake 3 3 = some (0, b) ∧
      ((ran (.placeCue .console 1 8 f) s).take 0).body = some { b with next := some ⟨1, 0⟩, resume := none } ∧
      ((ran (.placeCue .console 1 8 f) s).take 1).body =
        some { take0 with start := some ⟨0, 0⟩, state := .ready, seq := some 0 } :=
  ⟨⟨ask { (live cap) with jobs := [(3, { job3 with follow := true })], ready := [0] } (.station 0)
      (.placeCue 1 8 (.atCapturePoint ⟨3, 1⟩)), _, by unfold Canonical; decide +kernel, rfl, by decide +kernel⟩,
    ⟨ask parts .console (.placeCue 1 8 (.atPosition ⟨3, 1⟩ 3)), _, by unfold Canonical; decide +kernel, rfl, by decide +kernel⟩,
    ask { queued 0 with
        takes := [(0, { issue := 1, body := some { take0 with state := .ready, seq := some 1, resume := some 192 } })] }
      .console (.placeCue 1 8 (.atPosition ⟨3, 1⟩ 3)), _, _, by unfold Canonical; decide +kernel, rfl, rfl, by decide +kernel⟩

/-- The TAKE cue between two READY takes removed, and the one at which an OPEN take begins. -/
theorem meets_RemoveCueFreesCue_take :
    (∃ s : State, s.routed .console (.removeCue ⟨1, 1⟩) = some (.console, 7) ∧ s.mayRemove .console 1 = true ∧
      s.removalFrozen 1 = false ∧ s.cueIs 1 .take = true ∧
      (s.takesAround 3 1).map (fun x => (x.1.1, x.2.1)) = some (0, 1) ∧
      (ran (.removeCue .console ⟨1, 1⟩) s).ready = [0] ∧
      (ran (.removeCue .console ⟨1, 1⟩) s).take 0 =
        { issue := 1, body := some { take0 with state := .ready, seq := some 4 } }) ∧
    ∃ s : State, s.routed .console (.removeCue ⟨1, 1⟩) = some (.console, 7) ∧ s.removalFrozen 1 = false ∧
      (s.takesAround 3 1).map (fun x => (x.1.1, x.2.2.state)) = some (0, .opened) ∧
      (ran (.removeCue .console ⟨1, 1⟩) s).ready = [] ∧
      ((ran (.removeCue .console ⟨1, 1⟩) s).take 0).body.map TakeBody.state = some .opened :=
  ⟨⟨ask (divided .ready .ready) .console (.removeCue ⟨1, 1⟩), by decide +kernel⟩,
    ask { divided .ready .opened with ready := [0] } .console (.removeCue ⟨1, 1⟩), by decide +kernel⟩

/-- A take enters a queue that stands in order, before and behind the take there, with a sequence and without one. -/
theorem meets_ClaimAndAssignGiveTakes_queue :
    ({ divided .ready .ready with ready := [1] }.enterQueue 0).ready = [0, 1] ∧
    ({ divided .ready .ready with ready := [0] }.enterQueue 1).ready = [0, 1] ∧
    (parts.enterQueue 0).readiness = 1 ∧ ((parts.enterQueue 0).take 0).body = some { take0 with seq := some 0 } ∧
    keyBefore (0, 65535, 9, 9) (1, 0, 0, 0) = true ∧ keyBefore (0, 1, 2, 3) (0, 1, 2, 3) = false := by decide +kernel

/-- The store with claims waiting as an unwanted play read ends. -/
def contended (w : List Claim) : State :=
  { desks with
    bulk14 := { mode := .hog, burst := 4 }, served := { class2 := 3 }, waiting := w
    port := some { claim := ⟨2, 0, .play 1⟩, live := false } }

/-- An access ends with no claim waiting, with plays of channels 3 and 5 waiting where 3 was served last, with a scrub above
a BULK claim, with a BULK claim alone, and in a burst. -/
theorem meets_BankMapFormatPriority_arbiter :
    (ran (.playReadCompletion false) (contended [])).port = none ∧
    (ran (.playReadCompletion false) (contended [⟨2, 1, .play 3⟩, ⟨2, 2, .play 5⟩, ⟨2, 9, .play 5⟩])).port =
      some { claim := ⟨2, 2, .play 5⟩ } ∧
    (ran (.playReadCompletion false) (contended [⟨2, 1, .bulk 14 8⟩, ⟨7, 0, .scrub⟩])).port =
      some { claim := ⟨7, 0, .scrub⟩ } ∧
    (ran (.playReadCompletion false) (contended [⟨2, 1, .bulk 14 8⟩])).port =
      some { claim := ⟨2, 1, .bulk 14 8⟩, burst := 1, place := true } ∧
    ((contended [⟨7, 0, .scrub⟩, ⟨2, 1, .bulk 14 8⟩]).endAccess { claim := ⟨2, 0, .bulk 14 7⟩, burst := 3 }).port =
      some { claim := ⟨2, 1, .bulk 14 8⟩, burst := 4, place := true } ∧
    ((contended [⟨7, 0, .scrub⟩, ⟨2, 1, .bulk 14 8⟩]).endAccess { claim := ⟨2, 0, .bulk 14 7⟩, burst := 4 }).port =
      some { claim := ⟨7, 0, .scrub⟩ } := by decide +kernel

/-- The profile at frame 4 of a play in each mode, in a segment over clearance, at both ends of the window, and at the end. -/
theorem meets_PlayStartsAndStops_profile :
    let s : Nat → Nat → State := fun m c => { (played playing).updChan 1 (fun x => { x with mode := m, winStart := 4, winEnd := 6 })
      with segs := [(4, { issue := 1, body := some { seg4 with sealPart := some c } })] }
    (s 0 2).profileAt 1 playing 4 = .a ∧ (s 1 0).profileAt 1 playing 4 = .b ∧ (s 2 2).profileAt 1 playing 4 = .b ∧
      (s 2 1).profileAt 1 playing 4 = .a ∧ (s 2 2).profileAt 1 playing 10 = .a ∧ (s 3 0).profileAt 1 playing 3 = .a ∧
      (s 3 0).profileAt 1 playing 4 = .b ∧ (s 3 0).profileAt 1 playing 5 = .b ∧ (s 3 0).profileAt 1 playing 6 = .a := by
  decide +kernel

/-- A shuttle control pressed on a play at frame 9 moves it at once by 8 frames, to the end at most. -/
theorem meets_ShuttlePedals_moves : ∃ (s : State) (p : Play), p = { playing with pos := 576, run := .paused } ∧
    (s.chan 1).stream = .play p ∧ (s.link 1).up = true ∧ (s.link 1).role = .typist ∧ (s.link 1).pedalMask = false ∧
    (s.chan 1).suspended = false ∧ ((ran (.rewindPress 1) s).playOf 1).map Play.pos = some 64 ∧
    ((ran (.forwardPress 1) s).playOf 1).map Play.pos = some 640 :=
  ⟨played { playing with pos := 576, run := .paused }, _, rfl, by decide +kernel⟩

/-- Job 3 in two segments, of 4 and 6 frames, with a SEAL part each or none. -/
def twoSegs (s : State) (a b : Option Nat) : State :=
  { s with
    segs := [(4, { issue := 1, body := some { seg4 with count := 4, next := some ⟨5, 1⟩, cue := none, sealPart := a } }),
      (5, { issue := 1, body := some { seg4 with first := 4, count := 6, sealPart := b } })]
    cues := [(1, { issue := 1, body := some { cue1 with anchor := .frame ⟨5, 1⟩ 2 } })] }

/-- A claim under EXCLUDE-SEALED passes the first segment, one finds no frame left; the first failing check of a read, the last
read with and without END NOTIFY, and BULK READ of a channel SUSPENDED with no export. -/
theorem meets_ExportFramesMove_ends :
    (∃ (s : State) (e : Exporting), e = { job := ⟨3, 1⟩, excludeSealed := true } ∧ (s.chan 14).stream = .exporting e ∧
      s.locate 3 4 = some (5, { seg4 with first := 4, count := 6 }, 0) ∧
      (∀ p, p < 4 → (s.locate 3 p).all fun x => x.2.1.sealPart.isSome) ∧ (∀ x ∈ s.jobSegs 3, 0 < x.2.count) ∧
      (ran (.bulkClaim 14) s).port = some { claim := ⟨2, 4, .bulk 14 4⟩, place := true } ∧
      (ran (.bulkClaim 14) s).exportOf 14 = some { e with pos := 5, outstanding := 1 }) ∧
    (∃ (s : State) (e : Exporting), e = { job := ⟨3, 1⟩, excludeSealed := true, outstanding := 1 } ∧
      (s.chan 14).stream = .exporting e ∧ s.locate 3 10 = none ∧
      (∀ p, p < 10 → (s.locate 3 p).all fun x => x.2.1.sealPart.isSome) ∧
      (ran (.bulkClaim 14) s).exportOf 14 = some { e with pos := 10 }) ∧
    (∃ (s : State) (e : Exporting), e = { job := ⟨3, 1⟩, pos := 6, outstanding := 2 } ∧
      s.port = some { claim := ⟨2, 4, .bulk 14 4⟩, place := true } ∧ (s.chan 14).stream = .exporting e ∧
      (s.ext 2).state = .inUse ∧ (∀ y ∈ s.jobs, y.2.tail = none) ∧ s.notices = [] ∧
      (ran (.exportReadCompletion true) s).notices = [.storeError 2 .read] ∧
      (ran (.exportReadCompletion true) s).ext 2 = { s.ext 2 with state := .damaged } ∧
      (ran (.exportReadCompletion true) s).buffer = [{ chan := 14, pos := 4, damaged := true, data := 0 }]) ∧
    (∃ (s : State) (e : Exporting), e = { job := ⟨3, 1⟩, pos := 10, outstanding := 1 } ∧
      s.port = some { claim := ⟨2, 9, .bulk 14 9⟩, place := true } ∧ (s.chan 14).stream = .exporting e ∧
      (s.chan 14).matrix.endNotify = true ∧ (s.chan 14).slot = none ∧
      ((ran (.exportReadCompletion false) s).chan 14).slot =
        some { chan := 14, cause := .ended, action := .stopped, job := ⟨3, 1⟩, pos := 640 } ∧
      ((ran (.exportReadCompletion false) s).job 3).exportBusy = false) ∧
    (∃ (s : State) (e : Exporting), e = { job := ⟨3, 1⟩, pos := 10, outstanding := 1 } ∧
      s.port = some { claim := ⟨2, 9, .bulk 14 9⟩, place := true } ∧ (s.chan 14).stream = .exporting e ∧
      (s.chan 14).matrix.endNotify = false ∧ (ran (.exportReadCompletion false) s).notices = [] ∧
      ((ran (.exportReadCompletion false) s).chan 14).stream = .idle) ∧
    ∃ s : State, s.routed .console (.bulkRead 14 1) = some (.console, 7) ∧ (s.chan 14).suspended = true ∧
      s.exportOf 14 = none ∧ (ran (.bulkRead 14 1) s).conUnsent.map (fun m => m.result.fixed) = [[.num 1 0, .num 1 0]] :=
  ⟨⟨twoSegs (exported { job := ⟨3, 1⟩, excludeSealed := true }) (some 1) none, _, rfl, by decide +kernel⟩,
    ⟨twoSegs { exported { job := ⟨3, 1⟩, excludeSealed := true, outstanding := 1 } with reserved := 1 } (some 1) (some 3),
      _, rfl, by decide +kernel⟩,
    ⟨{ exported { job := ⟨3, 1⟩, pos := 6, outstanding := 2 } with
        reserved := 2, port := some { claim := ⟨2, 4, .bulk 14 4⟩, place := true } }, _, rfl, by decide +kernel⟩,
    ⟨({ exported { job := ⟨3, 1⟩, pos := 10, outstanding := 1 } with
        reserved := 1, port := some { claim := ⟨2, 9, .bulk 14 9⟩, place := true } } : State).updChan 14 fun c =>
        { c with matrix := { endNotify := true } }, _, rfl, by decide +kernel⟩,
    ⟨{ exported { job := ⟨3, 1⟩, pos := 10, outstanding := 1 } with
        reserved := 1, port := some { claim := ⟨2, 9, .bulk 14 9⟩, place := true } }, _, rfl, by decide +kernel⟩,
    ask (bulky.updChan 14 fun c => { c with suspended := true, slot := some (note 14), second := some (note 14) }) .console
      (.bulkRead 14 1), by decide +kernel⟩

/-- WARM RESET with a play, an export, and a typist's request not yet taken. -/
theorem meets_WarmResetStops_records : ∃ s : State, s.routed .console .warmReset = some (.console, 7) ∧
    s.playOf 1 = some playing ∧ s.exportOf 14 = some { job := ⟨3, 1⟩ } ∧ (s.link 1).outstanding.isSome = true ∧
    (s.link 1).up = true ∧ (s.chan 1).binding = .link ∧ (∀ d, d < 16 → d ≠ 1 → s.playOf d = none) ∧
    ((ran .warmReset s).take 0).body.map TakeBody.resume = some (some 128) ∧
    ((ran .warmReset s).job 3).exportBusy = false ∧ toldAt (ran .warmReset s) 1 = some .busy :=
  ⟨ask (ask { played playing with
      jobs := [(3, { job3 with state := .closed, chan := none, tail := none, exportBusy := true })]
      chans := [(1, { stream := .play playing }), (14, { binding := .bulk, stream := .exporting { job := ⟨3, 1⟩ } })] }
    (.station 1) .halt) .console .warmReset, by decide +kernel⟩

/-- Envelopes of each kind judged, with each failing test, and the commands they are; an unused request kind. -/
theorem meets_StationMessagesArrive_judge :
    judge false ⟨2, 2, [67, 9]⟩ = .message (.request 9 .record) ∧ judge false ⟨2, 3, [67, 9, 1]⟩ = .malformed 67 9 ∧
    judge true ⟨2, 1, [67]⟩ = .malformed 0 0 ∧ judge false ⟨2, 9, [67, 9]⟩ = .malformed 67 9 ∧
    judge false ⟨2, 9, [67]⟩ = .discard ∧ judge true ⟨2, 9, [67]⟩ = .discard ∧ judge false ⟨2, 0, []⟩ = .discard ∧
    judge true ⟨2, 0, []⟩ = .discard ∧
    judge false ⟨3, 0, []⟩ = .discard ∧ judge false ⟨5, 1, []⟩ = .discard ∧
    judge false ⟨1, 66, List.replicate 66 0⟩ = .message (.frame 0) ∧ judge false ⟨1, 65, List.replicate 65 0⟩ = .discard ∧
    judge false ⟨5, 0, []⟩ = .message .noticeAck ∧ judge false ⟨5, 1, [0]⟩ = .discard ∧
    judge false ⟨6, 2, [4, 2]⟩ = .message (.pedal 4 false) ∧ judge false ⟨6, 2, [5, 2]⟩ = .discard ∧
    judge false ⟨6, 1, [4]⟩ = .discard ∧
    envelopeCommand (.station 3) ⟨6, 2, [4, 2]⟩ = some (.shuttleRelease 3 .forward) ∧
    envelopeCommand (.station 3) ⟨5, 0, []⟩ = some (.noticeAck 3) ∧
    envelopeCommand (.station 3) ⟨1, 66, List.replicate 66 0⟩ = some (.frameArrival 3 0) ∧
    envelopeCommand (.station 3) ⟨2, 2, [67, 9]⟩ = some (.inboundRequest 3 9 .record) ∧
    envelopeCommand .console ⟨2, 2, [53, 9]⟩ = some (.consoleRequest 9 .readPool) ∧
    envelopeCommand .console ⟨5, 0, []⟩ = none ∧ parseRequest false 13 [] = none := by decide +kernel

/-- No request has kind 13. -/
theorem test_kind_13_is_unused : ∀ r : Request, requestKind r ≠ 13 := by intro r; cases r <;> simp [requestKind]

/-- Requests with optional fields, a form and a VACANT station, sent and read back. -/
theorem meets_StationMessagesArrive_roundTrip :
    ∀ r ∈ ([.setJobAttributes ⟨3, 1⟩ { cls := some 2, follow := some 1 }, .placeCue 8 513 (.atPosition ⟨3, 1⟩ 9),
      .configureStation 15 2 63 3 7, .configureStation 0 0 0 0 0, .configureStation 1 1 9 0 0,
      .findCue (some (⟨3, 1⟩, 5)) 1 4096 983040 (some ⟨1, 1⟩)] : List Request),
      fitsPort true r = true ∧ r.wf = true ∧ judge true (requestEnvelope 9 r) = .message (.request 9 r) := by decide +kernel

/-- A frame over clearance muted in the middle of a take and at its last frame; a skip that lands, and one that finds no
segment of a CLAIMED and of a FOLLOWING take. -/
theorem meets_FramePeriods_sealed :
    (∃ s : State, (s.chan 1).stream = .play playing ∧ (s.chan 1).matrix = {} ∧ (s.link 1).up = true ∧
      s.locate 3 2 = some (4, { seg4 with sealPart := some 2 }, 2) ∧ (s.link 1).clearance = 1 ∧
      ((s.chan 1).activeCopy (s.profileAt 1 playing 2)).sealAct = .mute ∧
      ((ran (.framePeriod 1) s).playOf 1).map Play.pos = some 192 ∧
      ((ran (.framePeriod 1) s).link 1).unsent = [.frame true false 0]) ∧
    (∃ (s : State) (p : Play), p = { playing with pos := 576 } ∧ (s.chan 1).stream = .play p ∧ (s.chan 1).matrix = {} ∧
      s.playFrames p = 10 ∧ s.locate 3 9 = some (4, { seg4 with sealPart := some 2 }, 9) ∧
      ((ran (.framePeriod 1) s).playOf 1).map (fun q => (q.pos, q.run)) = some (640, .paused)) ∧
    (∃ s : State, (s.chan 1).stream = .play playing ∧ ((s.chan 1).activeCopy .a).sealAct = .skip ∧
      s.profileAt 1 playing 2 = .a ∧ s.port = none ∧
      (withStarts 0 (s.jobSegs 3)).map (fun x => (x.1, x.2.2, x.2.1.sealPart)) = [(4, 0, some 2), (5, 4, some 1)] ∧
      (ran (.framePeriod 1) s).port = some { claim := ⟨2, 4, .play 1⟩ } ∧
      ((ran (.framePeriod 1) s).playOf 1).map Play.pos = some 256) ∧
    ∀ t ∈ [TakeState.claimed, .following], ∃ s : State, (s.chan 1).stream = .play playing ∧ (s.chan 1).matrix = {} ∧
      ((s.chan 1).activeCopy (s.profileAt 1 playing 2)).sealAct = .skip ∧ s.takeState ⟨0, 1⟩ = some t ∧
      (∀ x ∈ withStarts 0 (s.jobSegs 3), x.2.1.sealPart = some 2) ∧
      ((ran (.framePeriod 1) s).playOf 1).map (fun q => (q.pos, q.run)) =
        some (640, if t = .claimed then .paused else .followWait) := by
  refine ⟨⟨{ played playing with segs := [(4, { issue := 1, body := some { seg4 with sealPart := some 2 } })] }, by decide +kernel⟩,
    ⟨{ played { playing with pos := 576 } with segs := [(4, { issue := 1, body := some { seg4 with sealPart := some 2 } })] },
      _, rfl, by decide +kernel⟩,
    ⟨twoSegs ((played playing).updChan 1 fun c => { c with profA := { active := { sealAct := .skip } } }) (some 2) (some 1),
      by decide +kernel⟩, ?_⟩
  intro t h
  refine ⟨twoSegs ((closed .closed t).setChan 1
    { stream := .play playing, profA := { active := { sealAct := .skip } } }) (some 2) (some 2), ?_⟩
  simp only [List.mem_cons, List.not_mem_nil, or_false] at h
  rcases h with h | h <;> subst h <;> decide +kernel

/-- A capture write in progress for an entry of some placement mode, at a capture point, with a count. -/
def placing (m : CapMode) (c : Capture) (f : Nat) : State :=
  { twoSegs ((live c).setJob 3 { job3 with tail := some { extent := 2, fill := f + 1 } }) none none with
    segFree := 16382
    places := [(0, { inflight := [{ extent := 2, frame := f, mode := m, data := 5 }] })]
    port := some { claim := ⟨2, f, .capture 0 ⟨3, 1⟩ 5⟩ } }

/-- A RUNNING capture at an anchor. -/
def capAt (m : CapMode) (a : Anchor) : Capture := { cap with running := true, ctx := { point := a, mode := m } }

/-- A frame appended behind a segment it does not extend. -/
theorem meets_WritesComplete_fresh : ∃ s : State, Canonical s ∧ s.port = some { claim := ⟨2, 20, .capture 0 ⟨3, 1⟩ 5⟩ } ∧
    (s.jobSegs 3).getLast? = some (5, { seg4 with first := 4, count := 6 }) ∧ s.lowestFreeSeg = 0 ∧
    (ran (.captureWriteCompletion false) s).segFree = s.segFree - 1 ∧
    ((ran (.captureWriteCompletion false) s).ext 2).refs = (s.ext 2).refs + 1 ∧
    ((ran (.captureWriteCompletion false) s).seg 0).body =
      some { job := ⟨3, 1⟩, extent := 2, first := 20, count := 1 } :=
  ⟨placing .append (capAt .append .jobEnd) 20, by unfold Canonical; decide +kernel, by decide +kernel⟩

/-- A frame inserted that extends the segment before the capture point, one that does not, and one before the first segment. -/
theorem meets_WritesComplete_insert :
    (∃ s : State, Canonical s ∧ s.captureOf 0 = some (capAt .insert (.frame ⟨5, 1⟩ 0)) ∧
      s.editable 3 (s.anchorPos 3 (.frame ⟨5, 1⟩ 0)) = true ∧ segBefore (s.jobSegs 3) 5 = some 4 ∧
      (ran (.captureWriteCompletion false) s).seg 4 =
        { issue := 1, body := some { seg4 with count := 5, next := some ⟨5, 1⟩, cue := none } } ∧
      ((ran (.captureWriteCompletion false) s).job 3).length = 11) ∧
    (∃ s : State, Canonical s ∧ s.captureOf 0 = some (capAt .insert (.frame ⟨5, 1⟩ 0)) ∧ s.lowestFreeSeg = 0 ∧
      segBefore (s.jobSegs 3) 5 = some 4 ∧ (ran (.captureWriteCompletion false) s).seg 4 =
        { issue := 1, body := some { seg4 with count := 4, next := some ⟨0, 0⟩, cue := none } } ∧
      ((ran (.captureWriteCompletion false) s).seg 0).body =
        some { job := ⟨3, 1⟩, extent := 2, first := 20, count := 1, next := some ⟨5, 1⟩ }) ∧
    ∃ s : State, Canonical s ∧ s.captureOf 0 = some (capAt .insert (.frame ⟨4, 1⟩ 0)) ∧
      s.editable 3 (s.anchorPos 3 (.frame ⟨4, 1⟩ 0)) = true ∧ segBefore (s.jobSegs 3) 4 = none ∧
      ((ran (.captureWriteCompletion false) s).job 3).segHead = some ⟨0, 0⟩ ∧
      ((ran (.captureWriteCompletion false) s).seg 0).body =
        some { job := ⟨3, 1⟩, extent := 2, first := 20, count := 1, next := some ⟨4, 1⟩ } :=
  ⟨⟨placing .insert (capAt .insert (.frame ⟨5, 1⟩ 0)) 4, by unfold Canonical; decide +kernel, by decide +kernel⟩,
    ⟨placing .insert (capAt .insert (.frame ⟨5, 1⟩ 0)) 20, by unfold Canonical; decide +kernel, by decide +kernel⟩,
    placing .insert (capAt .insert (.frame ⟨4, 1⟩ 0)) 20, by unfold Canonical; decide +kernel, by decide +kernel⟩

/-- A frame placed over the first of six frames, and over the last frame of the job, whose cue moves to the run start. -/
theorem meets_WritesComplete_overwrite :
    (∃ s : State, Canonical s ∧ s.captureOf 0 = some (capAt .overwrite (.frame ⟨5, 1⟩ 0)) ∧
      s.takeCueAt 3 (.frame ⟨5, 1⟩ 0) = false ∧ segBefore (s.jobSegs 3) 5 = some 4 ∧
      (s.seg 5).body.map SegBody.count = some 6 ∧
      ((ran (.captureWriteCompletion false) s).job 3).length = 10 ∧
      (ran (.captureWriteCompletion false) s).seg 5 =
        { issue := 1, body := some { seg4 with first := 5, count := 5 } } ∧
      ((ran (.captureWriteCompletion false) s).cue 1).body.map CueBody.anchor = some (.frame ⟨5, 1⟩ 1) ∧
      ((ran (.captureWriteCompletion false) s).placement 0).runStart = some (.frame ⟨4, 1⟩ 4)) ∧
    ∃ s : State, Canonical s ∧ s.captureOf 0 = some (capAt .overwrite (.frame ⟨5, 1⟩ 0)) ∧
      s.takeCueAt 3 (.frame ⟨5, 1⟩ 0) = false ∧ segBefore (s.jobSegs 3) 5 = some 4 ∧
      (s.seg 5).body.map SegBody.count = some 1 ∧
      (ran (.captureWriteCompletion false) s).seg 5 = { issue := 2 } ∧
      ((ran (.captureWriteCompletion false) s).cue 1).body.map CueBody.anchor = some (.frame ⟨4, 1⟩ 4) ∧
      (ran (.captureWriteCompletion false) s).captureOf 0 = some (capAt .overwrite .jobEnd) :=
  ⟨⟨placing .overwrite (capAt .overwrite (.frame ⟨5, 1⟩ 0)) 4, by unfold Canonical; decide +kernel, by decide +kernel⟩,
    { placing .overwrite (capAt .overwrite (.frame ⟨5, 1⟩ 0)) 4 with
      jobs := [(3, { job3 with length := 5, tail := some { extent := 2, fill := 5 } })]
      segs := [(4, { issue := 1, body := some { seg4 with count := 4, next := some ⟨5, 1⟩, cue := none } }),
        (5, { issue := 1, body := some { seg4 with first := 40, count := 1 } })]
      cues := [(1, { issue := 1, body := some { cue1 with anchor := .frame ⟨5, 1⟩ 0 } })] },
    by unfold Canonical; decide +kernel, by decide +kernel⟩

/-- An overwrite that has reached the end, one that meets a TAKE cue, and one whose take is CLAIMED. -/
theorem meets_WritesComplete_turns :
    (∃ s : State, s.captureOf 0 = some (capAt .overwrite .jobEnd) ∧
      (ran (.captureWriteCompletion false) s).captureOf 0 = some (capAt .append .jobEnd) ∧
      ((ran (.captureWriteCompletion false) s).job 3).length = 11) ∧
    (∃ s : State, s.captureOf 0 = some (capAt .overwrite (.frame ⟨5, 1⟩ 2)) ∧ s.takeCueAt 3 (.frame ⟨5, 1⟩ 2) = true ∧
      s.editable 3 (s.anchorPos 3 (.frame ⟨5, 1⟩ 2)) = true ∧ (s.chan 0).slot = none ∧
      (ran (.captureWriteCompletion false) s).captureOf 0 = some (capAt .insert (.frame ⟨5, 1⟩ 2)) ∧
      ((ran (.captureWriteCompletion false) s).chan 0).slot.map (fun n => (n.cause, n.pos)) = some (.enteredInsert, 384)) ∧
    ∃ s : State, s.captureOf 0 = some (capAt .insert (.frame ⟨5, 1⟩ 0)) ∧
      s.editable 3 (s.anchorPos 3 (.frame ⟨5, 1⟩ 0)) = false ∧ (s.chan 0).slot = none ∧
      (ran (.captureWriteCompletion false) s).captureOf 0 = some cap ∧
      ((ran (.captureWriteCompletion false) s).chan 0).slot.map (fun n => (n.cause, n.pos)) = some (.halt, 256) :=
  ⟨⟨placing .overwrite (capAt .overwrite .jobEnd) 20, by decide +kernel⟩,
    ⟨{ placing .overwrite (capAt .overwrite (.frame ⟨5, 1⟩ 2)) 20 with
        cues := [(1, { issue := 1, body := some { cue1 with kind := .take, anchor := .frame ⟨5, 1⟩ 2 } })] }, by decide +kernel⟩,
    { placing .insert (capAt .insert (.frame ⟨5, 1⟩ 0)) 4 with
      takes := [(0, { issue := 1, body := some { take0 with state := .claimed, typist := some 9 } })] }, by decide +kernel⟩

/-- A frame placed with a count of 2 and of 1 left. -/
theorem meets_WritesComplete_count : ∀ n ∈ [1, 2], ∃ (s : State) (c : Capture),
    c = { cap with running := true, ctx := { remaining := n } } ∧ s.captureOf 0 = some c ∧ 0 < s.segFree ∧
    (ran (.captureWriteCompletion false) s).captureOf 0 =
      some { c with ctx := { remaining := n - 1 }, running := decide (n = 2) } ∧
    ((ran (.captureWriteCompletion false) s).job 3).length = 11 := by
  intro n h
  refine ⟨placing .append { cap with running := true, ctx := { remaining := n } } 10, _, rfl, ?_⟩
  simp only [List.mem_cons, List.not_mem_nil, or_false] at h
  rcases h with h | h <;> subst h <;> decide +kernel

/-- A capture whose count has reached 0, with an action matrix. -/
def counted (m : Matrix) : State :=
  (live { cap with running := true, ctx := { base := 6 } }).updChan 0 fun c => { c with matrix := m }

/-- END of a count: RELOAD, a pause, a CHAIN made, and one that finds no frames in the last take. -/
theorem meets_WritesComplete_countEnd :
    ((counted { endReload := true, endNotify := true }).countEnd 0).captureOf 0 =
      some { cap with running := true, ctx := { remaining := 6, base := 6 } } ∧
    (((counted { endNotify := true }).countEnd 0).captureOf 0 = some { cap with ctx := { base := 6 } } ∧
      (((counted { endNotify := true }).countEnd 0).chan 0).noContinuation = true) ∧
    (Canonical (counted { endChain := true, endNotify := true }) ∧
      (counted { endChain := true, endNotify := true }).emptyHead 3 = false ∧
      (((counted { endChain := true, endNotify := true }).countEnd 0).chan 0).slot.map (fun n => (n.cause, n.action, n.pos)) =
        some (.ended, .chained, 640) ∧
      ((counted { endChain := true, endNotify := true }).countEnd 0).cueFree = 8190 ∧
      ((counted { endChain := true, endNotify := true }).countEnd 0).takeFree = 1022 ∧
      ((counted { endChain := true, endNotify := true }).countEnd 0).cue 0 =
        { body := some { job := ⟨3, 1⟩, kind := .take, label := Config.freeLabel 0, anchor := .jobEnd, placer := .reporter 7 } } ∧
      ((counted { endChain := true, endNotify := true }).countEnd 0).take 1 =
        { body := some { job := ⟨3, 1⟩, start := some ⟨0, 0⟩ } }) ∧
    ({ counted { endChain := true } with cueFree := 0 }.countEnd 0).chan 0 = { (counted { endChain := true }).chan 0 with
      chainAbort := true
      slot := some { chan := 0, cause := .chainAbort, action := .continued, job := ⟨3, 1⟩, pos := 640 } } :=
  ⟨by decide +kernel, by decide +kernel, ⟨by unfold Canonical; decide +kernel, by decide +kernel, by decide +kernel,
    by decide +kernel, by decide +kernel, by rfl, by decide +kernel⟩, by decide +kernel⟩

/-- The first failing check of a play read, of an extent that is no tail, that is the tail of a job with no channel, and that is
the tail of a job with a frame in flight for it. -/
theorem meets_PlayReadCompletes_check :
    (∃ s : State, s.port = some { claim := ⟨2, 9, .play 1⟩ } ∧ (s.ext 2).state = .inUse ∧ (∀ y ∈ s.jobs, y.2.tail = none) ∧
      s.notices = [] ∧ (s.chan 1).matrix = {} ∧ (s.link 1).up = true ∧
      (ran (.playReadCompletion true) s).ext 2 = { s.ext 2 with state := .damaged } ∧
      (ran (.playReadCompletion true) s).notices = [.storeError 2 .read] ∧
      ((ran (.playReadCompletion true) s).link 1).unsent = [.frame true true 0] ∧
      ((ran (.playReadCompletion true) s).playOf 1).map Play.pos = some 576) ∧
    (∃ s : State, s.port = some { claim := ⟨2, 9, .play 1⟩, live := false } ∧ (s.ext 2).state = .inUse ∧
      (∀ y ∈ s.jobs, y.1 = 3) ∧ (s.job 3).tail = some { extent := 2, fill := 10 } ∧ (s.job 3).chan = none ∧
      (ran (.playReadCompletion true) s).ext 2 = { s.ext 2 with state := .damaged, refs := 1 } ∧
      ((ran (.playReadCompletion true) s).job 3).tail = none) ∧
    ∃ s : State, s.port = some { claim := ⟨2, 9, .play 1⟩, live := false } ∧ (s.ext 2).state = .inUse ∧
      (∀ y ∈ s.jobs, y.1 = 3) ∧ (s.job 3).chan = some 0 ∧ (s.placement 0).inflight.map Entry.extent = [2] ∧
      s.freeList = [5, 6] ∧ ((ran (.playReadCompletion true) s).job 3).tail = some { extent := 5, fill := 1 } ∧
      (ran (.playReadCompletion true) s).ext 5 = { s.ext 5 with state := .inUse, refs := 1 } ∧
      (ran (.playReadCompletion true) s).freeList = [6] ∧ (ran (.playReadCompletion true) s).chans = s.chans :=
  ⟨⟨fetching 512 .claimed .inUse true, by decide +kernel⟩,
    ⟨{ parts with
        jobs := [(3, { job3 with chan := none })], port := some { claim := ⟨2, 9, .play 1⟩, live := false } }, by decide +kernel⟩,
    { writing job3 true with port := some { claim := ⟨2, 9, .play 1⟩, live := false } }, by decide +kernel⟩

/-- A play read that passes the cue at frame 6, with an action matrix. -/
def passing (m : Matrix) : State :=
  (fetching 320 .claimed .inUse true).updChan 1 fun c => { c with matrix := m }

/-- MATCH with CHAIN, with RELOAD, and with notice alone. -/
theorem meets_PlayReadCompletes_match :
    ((passing { matchChain := true, matchNotify := true }).playFrames playing = 10 ∧
      ((passing { matchChain := true, matchNotify := true }).passage 3 6 7 0 0 none).map Prod.fst = some 1) ∧
    (((ran (.playReadCompletion false) (passing { matchChain := true, matchNotify := true })).playOf 1).map
        (fun q => (q.pos, q.run)) = some (384, .running) ∧
      ((ran (.playReadCompletion false) (passing { matchChain := true, matchNotify := true })).chan 1).slot.map
        (fun n => (n.cause, n.action, n.pos)) = some (.matched, .chained, 384)) ∧
    ((ran (.playReadCompletion false) (passing { matchReload := true })).playOf 1).map (fun q => (q.pos, q.run)) =
      some (0, .running) ∧
    ((ran (.playReadCompletion false) (passing { matchNotify := true })).playOf 1).map
      (fun q => (q.pos, q.run, q.matched)) = some (384, .paused, some ⟨1, 1⟩) := by
  decide +kernel

/-- The last frame of a count, and the last frame of a CLAIMED take, raise END. -/
theorem meets_PlayReadCompletes_end :
    (∃ s : State, (s.playOf 1).map Play.remaining = some 1 ∧ s.port = some { claim := ⟨2, 9, .play 1⟩ } ∧ (s.chan 1).matrix = {} ∧
      ((ran (.playReadCompletion false) s).playOf 1).map (fun q => (q.run, q.remaining, q.pos)) = some (.paused, 0, 128)) ∧
    ∃ s : State, (s.playOf 1).map Play.pos = some 576 ∧ s.takeState ⟨0, 1⟩ = some .claimed ∧ (s.chan 1).matrix = {} ∧
      ((ran (.playReadCompletion false) s).playOf 1).map (fun q => (q.run, q.pos)) = some (.paused, 640) :=
  ⟨⟨(fetching 64 .claimed .inUse true).setChan 1 { stream := .play { playing with
      pos := 64, remaining := 1, read := some { extent := 2, frame := 9, prof := .a } } }, by decide +kernel⟩,
    fetching 576 .claimed .inUse true, by decide +kernel⟩

/-- A play whose END is raised with take 1 of job 3 READY in the queue. -/
def ended (m : Matrix) : State :=
  ({ divided .claimed .ready with ready := [1] }).setChan 1 { stream := .play { playing with baseCount := 3 }, matrix := m }

/-- END feeds take 1 under CHAIN; without it, RELOAD and a pause; with no take to feed, CHAIN-ABORT. -/
theorem meets_PlayReadCompletes_raiseEnd :
    ((ended { endChain := true, endNotify := true }).hold 9 = 1 ∧
      ((ended { endChain := true, endNotify := true }).take 1).body.map (fun b => (b.state, b.job.idx)) = some (.ready, 3) ∧
      (((ended { endChain := true, endNotify := true }).raiseEnd 1).playOf 1).map (fun q => (q.take, q.pos, q.remaining)) =
        some (⟨1, 1⟩, 0, 3) ∧
      ((ended { endChain := true, endNotify := true }).raiseEnd 1).hold 9 = 2 ∧
      (((ended { endChain := true, endNotify := true }).raiseEnd 1).take 0).body.map TakeBody.resume = some (some 128) ∧
      (((ended { endChain := true, endNotify := true }).raiseEnd 1).chan 1).slot.map (fun n => (n.cause, n.action, n.pos)) =
        some (.ended, .chained, 128)) ∧
    (((ended { endReload := true }).raiseEnd 1).playOf 1).map (fun q => (q.pos, q.remaining, q.run)) = some (0, 3, .running) ∧
    (((ended {}).raiseEnd 1).playOf 1).map Play.run = some .paused ∧
    ({ ended { endChain := true } with ready := [] }.raiseEnd 1).chan 1 = { (ended { endChain := true }).chan 1 with
      stream := .play { playing with baseCount := 3, run := .paused }, chainAbort := true, noContinuation := true
      slot := some { chan := 1, cause := .chainAbort, action := .stopped, job := ⟨3, 1⟩, take := some ⟨0, 1⟩, pos := 128 } } := by
  decide +kernel

/-! ### Clauses on the store interface, read-backs, FOLLOW-WAIT, boundaries, notices and last takes -/

/-- The head of two jobs on the retiring list: four presence bits. -/
theorem meets_StoreAndMapReadsAnswer_retiring : ∃ s : State, s.routed .console .retiringStatus = some (.console, 7) ∧
    s.retiring = [3, 8] ∧ (s.job 3).sweep = some { phase := .takes, freed := 2 } ∧
    (retiringReport s).result.bytes = [0, 2, 15, 0, 3, 1, 3, 0, 2, 0, 0, 10, 0, 8, 0] ∧
    told (ran .retiringStatus s) = some .done :=
  ⟨ask { parts.setJob 3 { job3 with state := .retiring, sweep := some { phase := .takes, freed := 2 } } with
    retiring := [3, 8] } .console .retiringStatus, by decide +kernel⟩

/-- The store interface during a scrub write and a play read, and at rest; the lowest-numbered matching window gives the line. -/
theorem meets_BankMapFormatPriority_wire :
    (let b : BankMap := { w1 := { enable := true, base := 4, mask := 12 }, w3 := { enable := true, base := 0, mask := 8 } }
     let s : State := { bank := b, port := some { claim := ⟨1024, 4095, .scrub⟩ } }
     s.storeWire = some
        { write := true, address := 268697536, line := some 1, claimant := none, data := some 0 } ∧
      b.line 1023 = some 3 ∧ b.line 2047 = some 1 ∧ b.line 2048 = none) ∧
    ({ port := some { claim := ⟨2, 1, .play 5⟩ } } : State).storeWire =
      some { write := false, address := 524352, line := none, claimant := some 5 } ∧
    ({} : State).storeWire = none := by decide +kernel

/-- The console closes a LIVE job whose OPEN take has frames; a FOLLOWING last take with frames, and one with none, held by
typist 9 and loaded on channel 1. -/
theorem meets_CloseDictationCloses_last :
    (∃ s : State, s.routed .console (.closeDictation ⟨3, 1⟩) = some (.console, 7) ∧ (s.job 3).state = .live ∧
      (s.job 3).chan = some 0 ∧ (s.captureFields 0).isSome = true ∧ (s.chan 0).slot = none ∧
      s.lastTake 3 = some (0, take0) ∧ s.takeFrames take0 = 10 ∧
      ((ran (.closeDictation .console ⟨3, 1⟩) s).chan 0).stream = .idle ∧
      (((ran (.closeDictation .console ⟨3, 1⟩) s).chan 0).slot.map fun n => (n.cause, n.pos)) = some (.halt, 640) ∧
      ((ran (.closeDictation .console ⟨3, 1⟩) s).take 0).body = some { take0 with state := .ready, seq := some 0 } ∧
      (ran (.closeDictation .console ⟨3, 1⟩) s).ready = [0]) ∧
    (∃ s : State, s.routed .console (.closeDictation ⟨3, 1⟩) = some (.console, 7) ∧
      s.lastTake 3 = some (0, { take0 with state := .following, typist := some 9 }) ∧
      (ran (.closeDictation .console ⟨3, 1⟩) s).takeState ⟨0, 1⟩ = some .claimed) ∧
    ∃ s : State, s.routed .console (.closeDictation ⟨3, 1⟩) = some (.console, 7) ∧ (s.job 3).length = 0 ∧ s.hold 9 = 1 ∧
      s.lastTake 3 = some (0, { take0 with state := .following, typist := some 9 }) ∧
      s.takeFrames { take0 with state := .following, typist := some 9 } = 0 ∧ s.playOf 1 = some playing ∧
      (ran (.closeDictation .console ⟨3, 1⟩) s).hold 9 = 0 ∧
      ((ran (.closeDictation .console ⟨3, 1⟩) s).take 0).body = none ∧
      ((ran (.closeDictation .console ⟨3, 1⟩) s).chan 1).stream = .idle ∧
      ((ran (.closeDictation .console ⟨3, 1⟩) s).job 3).state = .complete :=
  ⟨⟨ask (live cap) .console (.closeDictation ⟨3, 1⟩), by decide +kernel⟩,
    ⟨ask (closed .setAside .following) .console (.closeDictation ⟨3, 1⟩), by decide +kernel⟩,
    ask ({ closed .setAside .following with
        jobs := [(3, { job3 with
          state := .setAside, chan := none, tail := none, length := 0, segHead := none, firstCue := none })]
        segs := [], cues := [] }.setChan 1 { stream := .play playing }) .console (.closeDictation ⟨3, 1⟩),
      by decide +kernel⟩

/-- HOLD of a job exported on channel 14, with a claim waiting and another granted. -/
theorem meets_HoldHolds_exported : ∃ (s : State) (e : Exporting), e = { job := ⟨3, 1⟩, pos := 2, outstanding := 2 } ∧
    s.routed .console (.hold ⟨3, 1⟩) = some (.console, 7) ∧ s.jobCurrent ⟨3, 1⟩ = true ∧ (s.job 3).state = .closed ∧
    (s.job 3).held = false ∧ (s.job 3).exportBusy = true ∧ (s.chan 14).stream = .exporting e ∧
    (ran (.hold ⟨3, 1⟩) s).waiting = [] ∧ ((ran (.hold ⟨3, 1⟩) s).port.map fun a => a.live) = some false ∧
    ((ran (.hold ⟨3, 1⟩) s).chan 14).stream = .idle ∧
    (((ran (.hold ⟨3, 1⟩) s).chan 14).slot.map fun n => (n.cause, n.pos)) = some (.jobHeld, 128) :=
  ⟨ask { exported { job := ⟨3, 1⟩, pos := 2, outstanding := 2 } with
      waiting := [⟨2, 1, .bulk 14 1⟩], port := some { claim := ⟨2, 0, .bulk 14 0⟩, place := true } } .console (.hold ⟨3, 1⟩),
    _, rfl, by decide +kernel⟩

/-- The edit point 9 inside segment 4: the map and the cues are those of its split. -/
theorem meets_CaptureModesAreSet_split :
    let s := ask (live cap) (.station 0) (.setCaptureMode (.insert 9))
    (ran (.setCaptureMode 0 (.insert 9)) s).segs = (s.splitSeg 4 9).segs ∧
      (ran (.setCaptureMode 0 (.insert 9)) s).captureOf 0 =
        some { cap with ctx := { point := .frame ⟨0, 0⟩ 0, mode := .insert } } := by decide +kernel

/-- A notice offered to a queue of 31 and of 32, and LINK-UP at a queue of 32. -/
theorem meets_ReadNoticeTakesOldest_full :
    (({ desks with notices := List.replicate 31 (.poolLow 1 2) } : State).raise (.poolLow 3 4)).notices.length = 32 ∧
    ({ desks with notices := List.replicate 32 (.poolLow 1 2) } : State).raise (.poolLow 3 4) =
      { desks with notices := List.replicate 32 (.poolLow 1 2), overflowed := true } ∧
    (desks.link 2).up = false ∧
    (ran (.linkUp 2) { desks with notices := List.replicate 32 (.poolLow 1 2) }).overflowed = true := by decide +kernel

/-- A play channel of a notice or two, and one bound to BULK. -/
def noted (slot second : Option Notice) : State :=
  (played { playing with shuttle := .forward }).updChan 1 fun c => { c with slot := slot, second := second }

/-- A notice placed in an empty slot of a link and of a bulk-bound channel, behind a current one with and without
suspension, and over a second one. -/
theorem meets_AcknowledgementsMoveNotices_place :
    (((noted none none).placeNotice (note 1) true).link 1).unsent = [.notice (note 1)] ∧
    ((bulky.placeNotice (note 14) true).notices = [.channel 14 (note 14)] ∧
      ((bulky.placeNotice (note 14) true).chan 14).slot = some (note 14)) ∧
    (((noted (some (note 1)) none).placeNotice (note 1) false).chan 1 =
        { (noted (some (note 1)) none).chan 1 with second := some (note 1) } ∧
      (((noted (some (note 1)) none).placeNotice (note 1) false).chan 1).secondNotice = true) ∧
    ((noted (some (note 1)) none).placeNotice (note 1) true).chan 1 =
      { (noted (some (note 1)) none).chan 1 with second := some (note 1), suspended := true, stream := .play playing } ∧
    (((noted (some (note 1)) (some (note 1))).placeNotice (note 1) true).chan 1).second =
      some { note 1 with superseded := true } := by decide +kernel

/-- A play in FOLLOW-WAIT at frame 4 of job 3 in two segments, the last frame sent in one of them, a rate marked. -/
def followed (t : TakeState) (pos : Nat) (last : Nat) : State :=
  (twoSegs (closed .live t) none none).setChan 1
    { stream := .play { playing with pos := pos, run := .followWait, lastSeg := some ⟨last, 1⟩ }
      profA := { stored := { rate := 80 }, rateMark := true } }

/-- FOLLOW-WAIT left by END, kept at the take's end, and left for the frame that has come, with and without a crossing. -/
theorem meets_FramePeriods_follow :
    ((followed .claimed 640 5).takeState ⟨0, 1⟩ = some .claimed ∧
      ran (.framePeriod 1) (followed .claimed 640 5) = (followed .claimed 640 5).raiseEnd 1) ∧
    ((followed .following 640 5).takeState ⟨0, 1⟩ = some .following ∧
      ran (.framePeriod 1) (followed .following 640 5) = followed .following 640 5) ∧
    ((followed .following 256 4).locate 3 4 = some (5, { seg4 with first := 4, count := 6 }, 0) ∧
      (ran (.framePeriod 1) (followed .following 256 4)).port = some { claim := ⟨2, 4, .play 1⟩ } ∧
      ((ran (.framePeriod 1) (followed .following 256 4)).chan 1).profA.active.rate = 80 ∧
      ((ran (.framePeriod 1) (followed .following 256 4)).playOf 1).map Play.run = some .running) ∧
    ((ran (.framePeriod 1) (followed .following 256 5)).port = some { claim := ⟨2, 4, .play 1⟩ } ∧
      ((ran (.framePeriod 1) (followed .following 256 5)).chan 1).profA.active.rate = 64) := by decide +kernel

/-- A frame period of a read-back at a frame, with its read outstanding, and at no frame. -/
theorem meets_FramePeriods_readback :
    ((reading.chan 0).suspended = false ∧ reading.locate 3 2 = some (4, seg4, 2) ∧
      (ran (.framePeriod 0) reading).port = some { claim := ⟨2, 2, .play 0⟩ } ∧
      ((ran (.framePeriod 0) reading).readbackOf 0).map Readback.read =
        some (some { extent := 2, frame := 2, prof := .a })) ∧
    ran (.framePeriod 0) (ran (.framePeriod 0) reading) = ran (.framePeriod 0) reading ∧
    ∃ s : State, (s.readbackOf 0).map Readback.pos = some 640 ∧ s.locate 3 10 = none ∧
      (s.chan 0).matrix.endNotify = true ∧ (ran (.framePeriod 0) s).captureOf 0 = some cap ∧
      (((ran (.framePeriod 0) s).chan 0).slot.map fun n => (n.cause, n.pos)) = some (.ended, 640) :=
  ⟨by decide +kernel, by decide +kernel,
    parts.setChan 0 { stream := .readback { job := ⟨3, 1⟩, parked := {}, pos := 640 }, matrix := { endNotify := true } },
    by decide +kernel⟩

/-- A frame timeout behind a current notice takes the second slot and does not suspend. -/
theorem meets_FramePeriods_second : ∃ s : State, (s.captureOf 0).map Capture.counter = some 49 ∧ (s.chan 0).timeout = 50 ∧
    (s.chan 0).slot = some (note 0) ∧ (s.chan 0).second = none ∧ (s.chan 0).suspended = false ∧
    ((ran (.framePeriod 0) s).chan 0).second.map Notice.cause = some .frameTimeout ∧
    ((ran (.framePeriod 0) s).chan 0).suspended = false :=
  ⟨(live { cap with running := true, counter := 49 }).updChan 0 fun c => { c with slot := some (note 0) }, by decide +kernel⟩

/-- A read-back of job 3 in two segments with its read granted, a rate marked. -/
def backing (pos : Nat) (m : Matrix) : State :=
  { (twoSegs parts none none).setChan 0
      { stream := .readback
          { job := ⟨3, 1⟩, parked := {}, pos := pos, read := some { extent := 2, frame := pos / 64, prof := .a } }
        profA := { stored := { rate := 80 }, rateMark := true }, matrix := m } with
    port := some { claim := ⟨2, pos / 64, .play 0⟩ } }

/-- A read-back read inside a segment, one that crosses into the next, and the last one, with END NOTIFY and MATCH enabled. -/
theorem meets_PlayReadCompletes_readback :
    (((ran (.playReadCompletion false) (backing 64 { matchNotify := true })).readbackOf 0).map
        (fun r => (r.pos, r.read, r.lastSeg)) = some (128, none, some ⟨4, 1⟩) ∧
      ((ran (.playReadCompletion false) (backing 64 { matchNotify := true })).link 0).unsent = [.frame false false 0] ∧
      ((ran (.playReadCompletion false) (backing 64 {})).chan 0).profA.active.rate = 64) ∧
    (((ran (.playReadCompletion false) (backing 192 {})).readbackOf 0).map Readback.pos = some 256 ∧
      ((ran (.playReadCompletion false) (backing 192 {})).chan 0).profA = { active := { rate := 80 }, stored := { rate := 80 } }) ∧
    ((ran (.playReadCompletion false) (backing 576 { endNotify := true })).captureOf 0 = some cap ∧
      ((ran (.playReadCompletion false) (backing 576 { endNotify := true })).chan 0).noContinuation = true ∧
      ((ran (.playReadCompletion false) (backing 576 { endNotify := true })).chan 0).slot.map Notice.cause = some .ended) := by
  decide +kernel

/-- A play read whose advance crosses from segment 4 into segment 5 of job 3, and one that does not. -/
theorem meets_PlayReadCompletes_cross :
    let s : Nat → State := fun pos => (twoSegs (fetching pos .claimed .inUse true) none none).updChan 1 fun c =>
      { c with profA := { stored := { rate := 80 }, rateMark := true } }
    ((s 192).segAt 3 3 = some ⟨4, 1⟩ ∧ (s 192).segAt 3 4 = some ⟨5, 1⟩ ∧
      ((ran (.playReadCompletion false) (s 192)).chan 1).profA = { active := { rate := 80 }, stored := { rate := 80 } }) ∧
    ((ran (.playReadCompletion false) (s 64)).chan 1).profA = ((s 64).chan 1).profA := by decide +kernel

/-- END behind a current notice suspends the play channel in the state END left it in. -/
theorem meets_PlayReadCompletes_second :
    let s := (ended { endReload := true, endNotify := true }).updChan 1 fun c => { c with slot := some (note 1) }
    ((s.raiseEnd 1).chan 1).suspended = true ∧ ((s.raiseEnd 1).playOf 1).map (fun q => (q.pos, q.run)) = some (0, .running) ∧
      ((s.raiseEnd 1).chan 1).second.map (fun n => (n.cause, n.action)) = some (.ended, .reloaded) := by decide +kernel

/-- A segment freed: its extent, in use, untainted and tainted, leaves use with its last reference; the cue on it moves to
the next segment or to END. -/
theorem meets_SweepsAndReports_segment :
    (let s := { sweeping .segments job3 with exts := [(2, { state := .inUse, refs := 1 })] }
     (ran .sweepStep s).ext 2 = { state := .free, refs := 0 } ∧ (ran .sweepStep s).freeList = [5, 6, 2] ∧
      ((ran .sweepStep s).cue 1).body.map CueBody.anchor = some .jobEnd) ∧
    (let s := { sweeping .segments job3 with exts := [(2, { state := .inUse, refs := 1, taint := true })] }
     (ran .sweepStep s).ext 2 = { state := .scrub, refs := 0, taint := true } ∧ (ran .sweepStep s).scrubList = [2]) ∧
    (let s := { twoSegs (sweeping .segments job3) none none with
        cues := [(1, { issue := 1, body := some { cue1 with anchor := .frame ⟨4, 1⟩ 3 } })] }
     (ran .sweepStep s).ext 2 = { s.ext 2 with refs := 1 } ∧
      ((ran .sweepStep s).cue 1).body.map CueBody.anchor = some (.frame ⟨5, 1⟩ 0) ∧
      ((ran .sweepStep s).seg 5).body.map SegBody.cue = some (some ⟨1, 1⟩)) := by decide +kernel

/-- A TAKE cue freed by the sweep clears the start boundary of take 1. -/
theorem meets_SweepsAndReports_takeCue :
    let s := { divided .returned .returned with
      jobs := (sweeping .cues job3).jobs, retiring := [3] }
    s.jobCues 3 = [(1, { cue1 with kind := .take })] ∧ ((s.take 1).body.map TakeBody.start) = some (some ⟨1, 1⟩) ∧
      ((ran .sweepStep s).take 1).body.map TakeBody.start = some none ∧ (ran .sweepStep s).take 0 = s.take 0 := by
  decide +kernel

end Sys2Proof.Tests
end

section
/-! ## The job directory

Chapter 1: what a job slot reads as when no job record is listed, and what the RESET pin leaves in the directory (R21). -/

set_option Elab.async false

namespace Sys2Proof.Machine

/-- A slot the table does not list holds the VACANT record, every field at its value of R1. -/
theorem State.job_of_jobs_nil (s : State) (h : s.jobs = []) (i : Nat) : s.job i = {} := by
  rw [State.job, h, Table.get]

/-- No reference to a VACANT slot is current (R2). -/
theorem State.jobCurrent_of_vacant (s : State) {r : Ref} (h : (s.job r.idx).state = .vacant) : s.jobCurrent r = false := by
  simp [State.jobCurrent, h]

/-- Power-on lists no job record. -/
@[simp] theorem State.reset_jobs : State.reset.jobs = [] := rfl

/-- The RESET pin empties the job table, whatever it held. -/
@[simp] theorem State.resetPin_jobs (s : State) : s.resetPin.jobs = [] := rfl

theorem exec_reset (s : State) : exec .reset s = .next s.resetPin := rfl

/-- Settles O12: power-on and the RESET pin both leave the job table empty, and an empty table is a directory of VACANT
slots. -/
theorem resetVacatesEverySlot : Obligations.ResetVacatesEverySlot := by
  unfold Obligations.ResetVacatesEverySlot
  intro vacated
  have vacated_of_jobs_nil (t : State) (h : t.jobs = []) : vacated t := by
    constructor
    · intro i
      simp [t.job_of_jobs_nil h i]
    · intro r
      exact t.jobCurrent_of_vacant (by rw [t.job_of_jobs_nil h])
  constructor
  · exact vacated_of_jobs_nil _ State.reset_jobs
  · intro s
    exact ⟨s.resetPin, exec_reset s, vacated_of_jobs_nil _ s.resetPin_jobs⟩

end Sys2Proof.Machine
end

section
/-! ## The low mark and the pool threshold

The test of the low mark, one equation per case of R101, and SET POOL THRESHOLD, which makes that test at once (R102). -/

set_option Elab.async false

namespace Sys2Proof.Machine

/-- An ARMED mark with the free count below the threshold raises POOL-LOW and becomes SPENT. -/
theorem State.testLow_of_armed_below {s : State} (armed : s.lowArmed = true) (below : s.freeList.length < s.threshold) :
    s.testLow = ({ s with lowArmed := false } : State).raise (.poolLow s.freeList.length s.threshold) :=
  (if_pos armed).trans (if_pos below)

/-- An ARMED mark with the free count at or above the threshold is unchanged. -/
theorem State.testLow_of_armed_reached {s : State} (armed : s.lowArmed = true)
    (reached : s.threshold ≤ s.freeList.length) : s.testLow = s :=
  (if_pos armed).trans (if_neg (Nat.not_lt.2 reached))

/-- A SPENT mark with the free count at or above the threshold becomes ARMED. -/
theorem State.testLow_of_spent_reached {s : State} (spent : s.lowArmed = false)
    (reached : s.threshold ≤ s.freeList.length) : s.testLow = { s with lowArmed := true } :=
  (if_neg (ne_true_of_eq_false spent)).trans (if_pos reached)

/-- A SPENT mark with the free count below the threshold is unchanged. -/
theorem State.testLow_of_spent_below {s : State} (spent : s.lowArmed = false) (below : s.freeList.length < s.threshold) :
    s.testLow = s :=
  (if_neg (ne_true_of_eq_false spent)).trans (if_neg (Nat.not_le.2 below))

/-- The test of the mark as one chain: an ARMED mark is spent, a SPENT one armed, or nothing changes (R101). -/
theorem State.testLow_eq (s : State) :
    s.testLow =
      if s.lowArmed = true ∧ s.freeList.length < s.threshold then
        ({ s with lowArmed := false } : State).raise (.poolLow s.freeList.length s.threshold)
      else if s.lowArmed = false ∧ s.threshold ≤ s.freeList.length then { s with lowArmed := true }
      else s := by
  cases mark : s.lowArmed with
  | true =>
    rcases Nat.lt_or_ge s.freeList.length s.threshold with below | reached
    · rw [testLow_of_armed_below mark below, if_pos ⟨rfl, below⟩]
    · rw [testLow_of_armed_reached mark reached, if_neg (by omega), if_neg (by simp)]
  | false =>
    rcases Nat.lt_or_ge s.freeList.length s.threshold with below | reached
    · rw [testLow_of_spent_below mark below, if_neg (by simp), if_neg (by omega)]
    · rw [testLow_of_spent_reached mark reached, if_neg (by simp), if_pos ⟨rfl, reached⟩]

theorem exec_setPoolThreshold (n : Nat) (s : State) : exec (.setPoolThreshold n) s = execSetPoolThreshold n s := rfl

/-- Settles O36: the two checks in their order, and past them the threshold written and the mark tested. -/
theorem setPoolThresholdTestsTheMark : Obligations.SetPoolThresholdTestsTheMark := by
  unfold Obligations.SetPoolThresholdTestsTheMark
  intro n s who tag routed
  rw [exec_setPoolThreshold]
  by_cases above : 4095 < n
  · rw [if_pos above]
    refine serve_refused routed ?_
    rw [decide_eq_true above]
    exact checked_refuse (pre := []) (by simp)
  by_cases present : n = s.threshold
  · rw [if_neg above, if_pos present]
    refine serve_refused routed ?_
    rw [decide_eq_true present]
    exact checked_refuse (pre := [(decide (4095 < n), .range)]) (by simpa using above)
  · have written : execSetPoolThreshold n s =
        .next (({ s with threshold := n } : State).testLow.reply .console (.setPoolThreshold n) tag .done {}) := by
      refine serve_checked (items := []) routed rfl ?_
      simp [Nat.le_of_not_lt above, present]
    rw [if_neg above, if_neg present, written, State.testLow_eq]

end Sys2Proof.Machine
end

section
/-! ## The checks of a job reference, and UNHOLD

What the two checks of a job reference come to (R2, R6), one lemma per outcome, and UNHOLD, which makes two checks of its
own after them and then clears the held flag (R166). -/

set_option Elab.async false

namespace Sys2Proof.Machine

section JobReference

variable {s : State} {r : Ref} {post : List (Bool × ReplyCode)} {taken : Ans}

/-- A request that names a job slot above 511 is refused RANGE, whatever it checks after. -/
theorem checked_jobChecks_of_range (above : Config.jobSlots ≤ r.idx) :
    checked s (jobChecks s r ++ post) taken = refuse .range s := by
  rw [jobChecks, decide_eq_true above]
  exact checked_refuse (pre := []) (by simp)

/-- A request that names a slot of the directory by a reference that is not current is refused STALE. -/
theorem checked_jobChecks_of_stale (inside : r.idx < Config.jobSlots) (stale : s.jobCurrent r = false) :
    checked s (jobChecks s r ++ post) taken = refuse .stale s := by
  rw [jobChecks, stale]
  exact checked_refuse (pre := [(decide (Config.jobSlots ≤ r.idx), .range)]) (by simpa using inside)

/-- A current reference names a slot of the directory (R2). -/
theorem State.idx_lt_of_jobCurrent (current : s.jobCurrent r = true) : r.idx < Config.jobSlots := by
  simp only [State.jobCurrent, Bool.and_eq_true, decide_eq_true_eq] at current
  obtain ⟨⟨inside, _⟩, _⟩ := current
  exact inside

/-- A current reference passes both checks. -/
theorem jobChecks_pass (current : s.jobCurrent r = true) : ∀ c ∈ jobChecks s r, c.1 = false := by
  simp [jobChecks, current, State.idx_lt_of_jobCurrent current]

/-- Past the checks of a current reference, the first failing check of the request's own gives the refusal. -/
theorem checked_jobChecks_refuse {pre : List (Bool × ReplyCode)} {c : ReplyCode} (current : s.jobCurrent r = true)
    (passed : ∀ x ∈ pre, x.1 = false) :
    checked s (jobChecks s r ++ (pre ++ (true, c) :: post)) taken = refuse c s := by
  rw [← List.append_assoc]
  refine checked_refuse fun x member => ?_
  exact (List.mem_append.1 member).elim (jobChecks_pass current x) (passed x)

end JobReference

/-- UNHOLD checks the job reference, then its state and its held flag, and taken writes the job's record with the flag
clear (R166). -/
theorem exec_unhold (r : Ref) (s : State) :
    exec (.unhold r) s = serve .console (.unhold r) s fun _ s =>
      checked s
        (jobChecks s r ++ [(decide ((s.job r.idx).state = .retiring), .state), (!(s.job r.idx).held, .already)])
        (done (s.setJob r.idx { s.job r.idx with held := false })) := rfl

/-- Settles O22: the four refusals in their order, and past them the held flag cleared. -/
theorem unholdClearsTheFlag : Obligations.UnholdClearsTheFlag := by
  unfold Obligations.UnholdClearsTheFlag
  intro r s who tag routed
  rw [exec_unhold]
  by_cases above : 511 < r.idx
  · rw [if_pos above]
    exact serve_refused routed (checked_jobChecks_of_range above)
  rw [if_neg above]
  cases current : s.jobCurrent r with
  | false =>
    rw [if_pos rfl]
    exact serve_refused routed (checked_jobChecks_of_stale (Nat.lt_of_not_le above) current)
  | true =>
    rw [if_neg Bool.true_eq_false_eq_False]
    by_cases retiring : (s.job r.idx).state = .retiring
    · rw [if_pos retiring]
      refine serve_refused routed ?_
      rw [decide_eq_true retiring]
      exact checked_jobChecks_refuse (pre := []) current (by simp)
    rw [if_neg retiring]
    cases held : (s.job r.idx).held with
    | false =>
      rw [if_pos rfl]
      refine serve_refused routed ?_
      rw [held]
      exact checked_jobChecks_refuse (pre := [(decide ((s.job r.idx).state = .retiring), .state)]) current
        (by simpa using retiring)
    | true =>
      rw [if_neg Bool.true_eq_false_eq_False]
      refine serve_checked (items := []) routed rfl fun c member => ?_
      rcases List.mem_append.1 member with reference | own
      · exact jobChecks_pass current c reference
      · simp only [held, List.mem_cons, List.not_mem_nil, or_false] at own
        rcases own with rfl | rfl
        · exact decide_eq_false retiring
        · rfl

end Sys2Proof.Machine
end

section
/-! ## The console port

What the console port does with a request of its form, one equation per outcome of the checks of R195 past the first, and
which kinds stop at the second of them (R196). -/

set_option Elab.async false

namespace Sys2Proof.Machine

@[simp] theorem firstFailing_nil : firstFailing [] = none := rfl

@[simp] theorem firstFailing_fail (c : ReplyCode) (rest : List (Bool × ReplyCode)) :
    firstFailing ((true, c) :: rest) = some c := rfl

@[simp] theorem firstFailing_pass (c : ReplyCode) (rest : List (Bool × ReplyCode)) :
    firstFailing ((false, c) :: rest) = firstFailing rest := rfl

namespace State

variable {s : State} {tag : Byte} {r : Request}

/-- A station-only kind is refused NOT-PERMITTED, whether or not a request is outstanding (R195 step 2). -/
theorem takeConsole_of_stationOnly (fits : fitsPort true r = true) (only : stationOnly r = true) :
    s.takeConsole tag r = s.handConsole ⟨requestKind r, tag, .notPermitted, {}⟩ := by
  simp [takeConsole, fits, only]

/-- A kind the console may issue is refused BUSY while a request is outstanding (R195 step 3). -/
theorem takeConsole_of_outstanding {o : ConsoleOutstanding} (fits : fitsPort true r = true)
    (allowed : stationOnly r = false) (waiting : s.conOutstanding = some o) :
    s.takeConsole tag r = s.handConsole ⟨requestKind r, tag, .busy, {}⟩ := by
  simp [takeConsole, fits, allowed, waiting]

/-- A kind the console may issue becomes the outstanding request when there is none. -/
theorem takeConsole_of_idle (fits : fitsPort true r = true) (allowed : stationOnly r = false)
    (idle : s.conOutstanding = none) : s.takeConsole tag r = { s with conOutstanding := some ⟨r, tag⟩ } := by
  simp [takeConsole, fits, allowed, idle]

/-- Past the check of its kind, a request is routed or refused BUSY. -/
theorem takeConsole_of_allowed (fits : fitsPort true r = true) (allowed : stationOnly r = false) :
    s.takeConsole tag r =
      if s.conOutstanding = none then { s with conOutstanding := some ⟨r, tag⟩ }
      else s.handConsole ⟨requestKind r, tag, .busy, {}⟩ := by
  cases outstanding : s.conOutstanding with
  | none => rw [if_pos rfl, takeConsole_of_idle fits allowed outstanding]
  | some o => rw [if_neg (Option.some_ne_none o), takeConsole_of_outstanding fits allowed outstanding]

end State

theorem exec_consoleRequest (tag : Byte) (r : Request) (s : State) :
    exec (.consoleRequest tag r) s = .next (s.takeConsole tag r) := rfl

/-- Settles O54: the table of R196 names the kinds refused at step 2, and every other kind meets step 3. -/
theorem consoleRequestsAreRouted : Obligations.ConsoleRequestsAreRouted := by
  unfold Obligations.ConsoleRequestsAreRouted
  intro tag r s fits
  rw [exec_consoleRequest]
  cases r with
  | openJob | attach | detach
  | claimNext | returnTake | heldTakes
  | setCaptureMode | sealMode | captureSetup | record | readback | readbackEnd
  | play | pause | loadTake | halt | rewind | forward | jump | returnPlay | playSetup | setProfile
  | pedalMask =>
    exact congrArg _ (State.takeConsole_of_stationOnly fits rfl)
  | createJob | closeDictation | setJobAttributes | readJob | findJob | hold | unhold | release | retiringStatus
  | readSegment | sealRange | paceRange
  | placeCue | removeCue | readCue | cueAt | lastCue | findCue
  | assign | revoke | rework | readTake | queueEntry
  | setBankMap | format | setPoolThreshold | setBulkPriority | readExtent | readPool
  | readProfiles | bindChannel | setFrameTimeout | readChannel | exportJob | exportStop
  | configureStation | readLink
  | readNotice | acknowledgeNotice | bulkRead | warmReset =>
    exact congrArg _ (State.takeConsole_of_allowed fits rfl)

end Sys2Proof.Machine
end

section
/-! ## The step and every command

What one step keeps (the invariants, the queue of commands, the store's bytes), from the laws of the single meanings; the
values of power-on and of the RESET pin. -/

set_option Elab.async false

namespace Sys2Proof.Machine
open State

/-! ### Commands by what they do to the store -/

/-- The commands that may write the store's bytes: the completions of the two kinds of write, and the RESET pin, which
abandons the access in progress (R94, R104, R113). -/
def mayWriteBytes : Instr → Bool
  | .captureWriteCompletion _ | .scrubWriteCompletion _ | .reset => true
  | _ => false

/-- Every other command leaves the queue and the store's bytes, and keeps the invariants. -/
theorem exec_stands (c : Instr) (s : State) (h : mayWriteBytes c = false) : AnswersStanding s (exec c s) := by
  cases c with
  | captureWriteCompletion | scrubWriteCompletion | reset => cases h
  | openJob => exact execOpenJob_stands ..
  | createJob => exact execCreateJob_stands ..
  | attach => exact execAttach_stands ..
  | detach => exact execDetach_stands ..
  | closeDictation => exact execCloseDictation_stands ..
  | setJobAttributes => exact execSetJobAttributes_stands ..
  | readJob => exact execReadJob_stands ..
  | findJob => exact execFindJob_stands ..
  | hold => exact execHold_stands ..
  | unhold => exact execUnhold_stands ..
  | release => exact execRelease_stands ..
  | retiringStatus => exact execRetiringStatus_stands ..
  | readSegment => exact execReadSegment_stands ..
  | sealRange => exact execSealRange_stands ..
  | paceRange => exact execPaceRange_stands ..
  | placeCue => exact execPlaceCue_stands ..
  | removeCue => exact execRemoveCue_stands ..
  | readCue => exact execReadCue_stands ..
  | cueAt => exact execCueAt_stands ..
  | lastCue => exact execLastCue_stands ..
  | findCue => exact execFindCue_stands ..
  | claimNext => exact execClaimNext_stands ..
  | assign => exact execAssign_stands ..
  | returnTake => exact execReturnTake_stands ..
  | revoke => exact execRevoke_stands ..
  | rework => exact execRework_stands ..
  | readTake => exact execReadTake_stands ..
  | heldTakes => exact execHeldTakes_stands ..
  | queueEntry => exact execQueueEntry_stands ..
  | setBankMap => exact execSetBankMap_stands ..
  | format => exact execFormat_stands ..
  | setPoolThreshold => exact execSetPoolThreshold_stands ..
  | setBulkPriority => exact execSetBulkPriority_stands ..
  | readExtent => exact execReadExtent_stands ..
  | readPool => exact execReadPool_stands ..
  | setCaptureMode => exact execSetCaptureMode_stands ..
  | sealMode => exact execSealMode_stands ..
  | captureSetup => exact execCaptureSetup_stands ..
  | record => exact execRecord_stands ..
  | pause => exact execPause_stands ..
  | readback => exact execReadback_stands ..
  | readbackEnd => exact execReadbackEnd_stands ..
  | play => exact execPlay_stands ..
  | loadTake => exact execLoadTake_stands ..
  | halt => exact execHalt_stands ..
  | rewind => exact execRewind_stands ..
  | forward => exact execForward_stands ..
  | jump => exact execJump_stands ..
  | returnPlay => exact execReturnPlay_stands ..
  | playSetup => exact execPlaySetup_stands ..
  | setProfile => exact execSetProfile_stands ..
  | readProfiles => exact execReadProfiles_stands ..
  | bindChannel => exact execBindChannel_stands ..
  | setFrameTimeout => exact execSetFrameTimeout_stands ..
  | readChannel => exact execReadChannel_stands ..
  | exportJob => exact execExportJob_stands ..
  | exportStop => exact execExportStop_stands ..
  | configureStation => exact execConfigureStation_stands ..
  | readLink => exact execReadLink_stands ..
  | pedalMask => exact execPedalMask_stands ..
  | readNotice => exact execReadNotice_stands ..
  | acknowledgeNotice => exact execAcknowledgeNotice_stands ..
  | bulkRead => exact execBulkRead_stands ..
  | warmReset => exact execWarmReset_stands ..
  | malformedMessage => exact execMalformedMessage_stands ..
  | noticeAck => exact execNoticeAck_stands ..
  | frameArrival => exact execFrameArrival_stands ..
  | recordPress => exact execRecordPress_stands ..
  | recordRelease => exact execRecordRelease_stands ..
  | playPress => exact execPlayPress_stands ..
  | playRelease => exact execPlayRelease_stands ..
  | rewindPress => exact execRewindPress_stands ..
  | forwardPress => exact execForwardPress_stands ..
  | shuttleRelease => exact execShuttleRelease_stands ..
  | framePeriod => exact execFramePeriod_stands ..
  | frameTimeout => exact execFrameTimeout_stands ..
  | linkDown => exact execLinkDown_stands ..
  | linkUp => exact execLinkUp_stands ..
  | playReadCompletion => exact execPlayReadCompletion_stands ..
  | exportReadCompletion => exact execExportReadCompletion_stands ..
  | bulkClaim => exact execBulkClaim_stands ..
  | completionReport => exact execCompletionReport_stands ..
  | sweepStep => exact execSweepStep_stands ..
  | inboundRequest => exact execInboundRequest_stands ..
  | consoleRequest => exact execConsoleRequest_stands ..

/-- Every command answers a next state, with the queue of commands standing and the invariants kept. -/
theorem exec_kept (c : Instr) (s : State) : AnswersKept s (exec c s) := by
  by_cases h : mayWriteBytes c = false
  · exact (exec_stands c s h).kept
  · cases c with
    | captureWriteCompletion check => exact execCaptureWriteCompletion_kept s check
    | scrubWriteCompletion check => exact execScrubWriteCompletion_kept s check
    | reset => exact execReset_kept s
    | _ => exact absurd rfl h

/-! ### The step -/

theorem step_of_cons {s : State} {c : Instr} {rest : List Instr} (h : s.pending = c :: rest) :
    step s = exec c { s with pending := rest } := by
  rw [step, h]

theorem step_of_nil {s : State} (h : s.pending = []) : step s = .next s.sendAll := by
  rw [step, h]

/-- Settles O1: the queue's front is the command run, on the state with the queue's rest. -/
theorem stepRunsFrontCommand : Obligations.StepRunsFrontCommand := by
  unfold Obligations.StepRunsFrontCommand
  exact ⟨fun c s => step_of_cons (s := { s with pending := c :: s.pending }) rfl, fun c rest s => step_of_cons⟩

/-- Settles O10: the empty queue's sending and every command each keep the invariants, none of which reads the queue. -/
theorem stepKeepsInvariants : Obligations.StepKeepsInvariants := by
  unfold Obligations.StepKeepsInvariants
  intro s t sound ran
  cases queue : s.pending with
  | nil =>
    obtain rfl : s.sendAll = t := Host.Outcome.next.inj ((step_of_nil queue).symm.trans ran)
    exact (sendAll_stands s).sound sound
  | cons c rest =>
    obtain ⟨u, next, kept⟩ := exec_kept c { s with pending := rest }
    obtain rfl : u = t := Host.Outcome.next.inj (next.symm.trans ((step_of_cons queue).symm.trans ran))
    exact kept.sound sound

/-- Settles O3: every meaning answers a next state and leaves the queue. -/
theorem everyCommandAnswers : Obligations.EveryCommandAnswers := by
  unfold Obligations.EveryCommandAnswers
  intro c s
  obtain ⟨t, next, kept⟩ := exec_kept c s
  exact ⟨t, next, kept.pending⟩

/-- Settles O11. -/
theorem resetIsSound : Obligations.ResetIsSound := sound_reset

/-! ### The empty queue -/

/-- What one link's sending leaves of another link. -/
theorem link_sendLink_ne (s : State) {l k : Nat} (h : k ≠ l) : (s.sendLink l).link k = s.link k := by
  unfold sendLink
  split <;> exact link_setLink_ne _ _ _ _ h

/-- A link that is UP and whose channel is bound to it sends its oldest message. -/
theorem link_sendLink (s : State) {l : Nat} (up : (s.link l).up = true) (bound : (s.chan l).binding = .link) :
    (s.sendLink l).link l = (s.link l).send := by
  unfold sendLink
  rw [if_pos (by simp [up, bound])]
  exact link_setLink _ _ _

/-- The sending of a link changes the table of links alone. -/
theorem sendLink_frame (s : State) (l : Nat) : s.sendLink l = { s with links := (s.sendLink l).links } := by
  unfold sendLink
  split <;> rfl

/-- The links that send in a fold leave a link outside the fold. -/
theorem link_foldl_sendLink_of_not_mem {ls : List Nat} {l : Nat} (h : l ∉ ls) (s : State) :
    (ls.foldl sendLink s).link l = s.link l := by
  induction ls generalizing s with
  | nil => rfl
  | cons k ls ih =>
    rw [List.mem_cons, not_or] at h
    exact (ih h.2 _).trans (link_sendLink_ne s h.1)

theorem foldl_sendLink_frame (ls : List Nat) (s : State) :
    ls.foldl sendLink s = { s with links := (ls.foldl sendLink s).links } := by
  induction ls generalizing s with
  | nil => rfl
  | cons k ls ih =>
    rw [List.foldl_cons, ih, sendLink_frame]

theorem foldl_sendLink_chan (ls : List Nat) (s : State) (l : Nat) : (ls.foldl sendLink s).chan l = s.chan l := by
  rw [foldl_sendLink_frame]
  rfl

/-- In a fold over distinct links each link sends once. -/
theorem link_foldl_sendLink {ls : List Nat} (distinct : ls.Nodup) {l : Nat} (mem : l ∈ ls) {s : State}
    (up : (s.link l).up = true) (bound : (s.chan l).binding = .link) :
    (ls.foldl sendLink s).link l = (s.link l).send := by
  induction ls generalizing s with
  | nil => cases mem
  | cons k ls ih =>
    rw [List.nodup_cons] at distinct
    by_cases h : l = k
    · subst h
      exact (link_foldl_sendLink_of_not_mem distinct.1 _).trans (link_sendLink s up bound)
    · have stands : (s.sendLink k).link l = s.link l := link_sendLink_ne s h
      have chan : (s.sendLink k).chan l = s.chan l := by rw [sendLink_frame]; rfl
      rw [List.foldl_cons, ih distinct.2 (by simpa [h] using mem) (by rw [stands]; exact up) (by rw [chan]; exact bound), stands]

/-- The console port's sending changes its messages and its line alone. -/
theorem sendConsole_frame (s : State) :
    s.sendConsole = { s with conUnsent := s.sendConsole.conUnsent, conLine := s.sendConsole.conLine } := by
  unfold sendConsole
  split <;> rfl

theorem sendConsole_of_cons {s : State} {m : ConsoleMsg} {rest : List ConsoleMsg} (h : s.conUnsent = m :: rest) :
    s.sendConsole = { s with conUnsent := rest, conLine := some m } := by
  rw [sendConsole, h]

/-- The sending of every port changes links, the console's messages and its line alone. -/
theorem sendAll_frame (s : State) :
    s.sendAll = { s with links := s.sendAll.links, conUnsent := s.sendAll.conUnsent, conLine := s.sendAll.conLine } := by
  have ports := foldl_sendLink_frame (List.range 16) s
  have console := sendConsole_frame ((List.range 16).foldl sendLink s)
  unfold sendAll
  rw [console, ports]

/-- A link that sends its oldest message. -/
theorem Link.send_of_cons {k : Link} {m : LinkMsg} {rest : List LinkMsg} (h : k.unsent = m :: rest) :
    k.send = { k with
      unsent := rest, line := some (m, k.sequence), sequence := if m.isFrame then k.sequence + 1 else k.sequence } := by
  rw [Link.send, h]

/-- Settles O2: the links are visited once each, and the console port after them. -/
theorem emptyQueueSendsOldest : Obligations.EmptyQueueSendsOldest := by
  unfold Obligations.EmptyQueueSendsOldest
  intro s queue
  obtain ⟨u, ports⟩ : ∃ u, u = (List.range 16).foldl sendLink s := ⟨_, rfl⟩
  obtain ⟨t, sent⟩ : ∃ t, t = u.sendConsole := ⟨_, rfl⟩
  have all : s.sendAll = t := by rw [sendAll, ← ports, sent]
  have frame := sendAll_frame s
  rw [all] at frame
  have portsFrame := foldl_sendLink_frame (List.range 16) s
  rw [← ports] at portsFrame
  have consoleFrame := sendConsole_frame u
  rw [← sent] at consoleFrame
  refine ⟨t, by rw [step_of_nil queue, all], (congrArg State.pending frame).trans queue, ?_, ?_, ?_⟩
  · intro l m rest small up bound oldest
    have link : t.link l = u.link l := by rw [consoleFrame]; rfl
    have sends := link_foldl_sendLink List.nodup_range (List.mem_range.2 small) up bound
    rw [link, ports, sends]
    exact Link.send_of_cons oldest
  · intro m rest oldest
    have unsent : u.conUnsent = m :: rest := (congrArg conUnsent portsFrame).trans oldest
    rw [sent, sendConsole_of_cons unsent]
    exact ⟨rfl, rfl⟩
  · rw [frame]
    exact ⟨rfl, rfl, rfl, rfl, rfl, rfl, rfl, rfl, rfl⟩

/-! ### The store's bytes -/

/-- Outside the frame of the access in progress, a byte of the store after abandoning that access is as it was. -/
theorem byteAt_abandonAccess (s : State) {x : Access} (busy : s.port = some x) {a : Nat}
    (outside : a < storeAddress x.claim.extent x.claim.frame ∨ storeAddress x.claim.extent x.claim.frame + 64 ≤ a) :
    s.abandonAccess.byteAt a = s.byteAt a := by
  rw [abandonAccess, busy]
  dsimp only
  split
  · exact byteAt_spoilFrame_outside s _ _ _ outside
  · exact byteAt_spoilFrame_outside s _ _ _ outside
  · rfl
  · rfl

theorem byteAt_of_mem {s t : State} (h : t.mem = s.mem) (a : Nat) : t.byteAt a = s.byteAt a := by
  rw [byteAt, h, byteAt]

/-- A completed or failed capture write changes bytes in its own frame alone. -/
theorem byteAt_captureWritten (s : State) (x : Access) (ch : Nat) (job : Ref) (data : Frame) (check : Bool) {a : Nat}
    (outside : a < storeAddress x.claim.extent x.claim.frame ∨ storeAddress x.claim.extent x.claim.frame + 64 ≤ a) :
    (s.captureWritten x ch job data check).byteAt a = s.byteAt a := by
  have ended : (s.endAccess x).byteAt a = s.byteAt a := byteAt_of_mem (endAccess_store s x).mem a
  unfold captureWritten
  dsimp only
  split
  · have spoilt := byteAt_spoilFrame_outside (s.endAccess x) x.claim.extent x.claim.frame a outside
    have marked : ((((s.endAccess x).spoilFrame x.claim.extent x.claim.frame).markDamaged x.claim.extent).raise
        (.storeError x.claim.extent .write)).byteAt a = s.byteAt a :=
      ((byteAt_of_mem ((markDamaged_store _ _).trans (raise_store _ _)).mem a).trans spoilt).trans ended
    split
    · refine Eq.trans (byteAt_of_mem ?_ a) marked
      rw [(redestineFailed_records _ _ _ _ _).mem]
      split
      · exact (dropTailIf_records _ _ _).mem
      · rfl
    · exact (byteAt_of_mem (loseTail_records _ _).mem a).trans marked
  · have wrote := byteAt_writeFrame_outside (s.endAccess x) x.claim.extent x.claim.frame data a outside
    split
    · exact (byteAt_of_mem ((markWritten_records _ _ _ _).trans (placeHeads_records _ _ _)).mem a).trans (wrote.trans ended)
    · exact wrote.trans ended

/-- A completed or failed scrub write changes bytes in its own frame alone. -/
theorem byteAt_scrubDone (s : State) (x : Access) (check : Bool) {a : Nat}
    (outside : a < storeAddress x.claim.extent x.claim.frame ∨ storeAddress x.claim.extent x.claim.frame + 64 ≤ a) :
    (s.scrubDone x check).byteAt a = s.byteAt a := by
  have ended : (s.endAccess x).byteAt a = s.byteAt a := byteAt_of_mem (endAccess_store s x).mem a
  unfold scrubDone
  generalize silentFrame = silent
  dsimp only
  split
  · have spoilt := byteAt_spoilFrame_outside (s.endAccess x) x.claim.extent x.claim.frame a outside
    exact (byteAt_of_mem ((markDamaged_store _ _).trans (raise_store _ _)).mem a).trans (spoilt.trans ended)
  · have wrote := byteAt_writeFrame_outside (s.endAccess x) x.claim.extent x.claim.frame silent a outside
    split
    · exact (byteAt_of_mem (scrubGood_stands _ _).mem a).trans (wrote.trans ended)
    · exact wrote.trans ended

/-- The two completions of a write and the RESET pin change no byte while the port is free, and otherwise bytes of the
frame of the access in progress alone. -/
theorem byteAt_of_mayWriteBytes {c : Instr} (h : mayWriteBytes c = true) {s t : State} (ran : exec c s = .next t) :
    (s.port = none → ∀ a, t.byteAt a = s.byteAt a) ∧
    ∀ x : Access, s.port = some x → ∀ a,
      a < storeAddress x.claim.extent x.claim.frame ∨ storeAddress x.claim.extent x.claim.frame + 64 ≤ a →
      t.byteAt a = s.byteAt a := by
  cases c with
  | reset =>
    obtain rfl : s.resetPin = t := Host.Outcome.next.inj ran
    constructor
    · intro free a
      exact byteAt_of_mem (by rw [resetPin, abandonAccess, free]) a
    · intro x busy a outside
      exact byteAt_abandonAccess s busy outside
  | captureWriteCompletion check =>
    obtain rfl := Host.Outcome.next.inj ran
    constructor
    · intro free a
      rw [free]
    · intro x busy a outside
      rw [busy]
      dsimp only
      split
      · exact byteAt_captureWritten s x _ _ _ check outside
      all_goals rfl
  | scrubWriteCompletion check =>
    obtain rfl := Host.Outcome.next.inj ran
    constructor
    · intro free a
      rw [free]
    · intro x busy a outside
      rw [busy]
      dsimp only
      split
      · exact byteAt_scrubDone s x check outside
      all_goals rfl
  | _ => cases h

/-- Settles O8: a command is one of the three that may write, or leaves the store's bytes. -/
theorem writesStayInTheirFrame : Obligations.WritesStayInTheirFrame := by
  unfold Obligations.WritesStayInTheirFrame
  intro c s t ran
  have others (h : mayWriteBytes c = false) : ∀ a, t.byteAt a = s.byteAt a := by
    obtain ⟨u, next, stands⟩ := exec_stands c s h
    obtain rfl : u = t := Host.Outcome.next.inj (next.symm.trans ran)
    exact byteAt_of_mem stands.mem
  split
  · exact byteAt_of_mayWriteBytes rfl ran
  · exact byteAt_of_mayWriteBytes rfl ran
  · exact byteAt_of_mayWriteBytes rfl ran
  · refine others ?_
    cases c <;> simp_all [mayWriteBytes]

/-! ### Power-on and the RESET pin -/

/-- Settles O13: the tables are empty after power-on, and an unlisted record has the value of its chapter. -/
theorem resetValues : Obligations.ResetValues := by
  unfold Obligations.ResetValues
  refine ⟨fun _ => rfl, rfl, fun _ => rfl, rfl, fun _ => rfl, rfl, rfl, rfl, fun _ => rfl, rfl, rfl, fun _ => rfl, rfl, rfl,
    rfl, rfl, rfl, rfl, rfl, rfl, rfl, rfl, rfl, fun _ => ?_, fun _ => ?_, rfl, rfl, rfl, rfl, rfl, rfl⟩
  · exact ⟨rfl, rfl, rfl, rfl, rfl, rfl, rfl, rfl, rfl, rfl, rfl, rfl⟩
  · exact ⟨rfl, rfl, rfl, rfl, rfl, rfl, rfl, rfl, rfl⟩

/-- The access in progress is abandoned with no trace when it is a read, or when there is none. -/
theorem abandonAccess_of_read {s : State}
    (h : ∀ a, s.port = some a → ∃ ch pos, a.claim.use = .play ch ∨ a.claim.use = .bulk ch pos) : s.abandonAccess = s := by
  unfold abandonAccess
  split
  · rfl
  · rename_i a busy
    obtain ⟨ch, pos, play | bulk⟩ := h a busy
    · rw [play]
    · rw [bulk]

/-- Settles O14: the RESET pin keeps the queue, the contents of the store and the counter of free values alone. -/
theorem resetPinRestores : Obligations.ResetPinRestores := by
  unfold Obligations.ResetPinRestores
  intro s
  refine ⟨s.abandonAccess.mem, s.abandonAccess.freeCount, exec_reset s, fun read => ?_⟩
  rw [abandonAccess_of_read read]
  exact ⟨rfl, rfl⟩

end Sys2Proof.Machine
end

section
/-! ## Taking requests

What it is for a request to be routed, what a reply does and its bytes (chapters 10 to 12); what every owner makes of a
request it refuses, and of one that only reads. -/

set_option Elab.async false

namespace Sys2Proof.Machine
open State

/-! ### Routing and replies -/

theorem routed_console_iff (s : State) (r : Request) (w : Party) (tag : Byte) :
    s.routed .console r = some (w, tag) ↔ w = .console ∧ s.conOutstanding = some ⟨r, tag⟩ := by
  unfold routed
  dsimp only
  cases s.conOutstanding with
  | none => simp
  | some o =>
    obtain ⟨request, held⟩ := o
    by_cases same : request = r
    · simp [same, eq_comm]
    · simp [same]

/-- A request for the channel of a link is held back while that channel is bound to BULK, and no other request is (R116). -/
theorem routed_station_iff (s : State) (l : Fin 16) (r : Request) (w : Party) (tag : Byte) :
    s.routed (.station l) r = some (w, tag) ↔ ((s.chan l).binding = .link ∨ forChannel r = false) ∧
      ∃ role person, w = .station l role person ∧ (s.link l).outstanding = some ⟨r, tag, role, person⟩ := by
  have free : ¬ (forChannel r && decide ((s.chan l).binding = .bulk)) = true ↔
      (s.chan l).binding = .link ∨ forChannel r = false := by
    cases forChannel r <;> cases (s.chan l).binding <;> simp
  rw [← free]
  unfold routed
  dsimp only
  by_cases busy : (forChannel r && decide ((s.chan l).binding = .bulk)) = true
  · rw [if_pos busy]
    simp [busy]
  · rw [if_neg busy, and_iff_right busy]
    cases (s.link l).outstanding with
    | none => simp
    | some o =>
      obtain ⟨request, held, role, person⟩ := o
      by_cases same : request = r
      · simp only [same, if_true, Option.some.injEq, Prod.mk.injEq, Outstanding.mk.injEq]
        aesop
      · simp [same]

theorem reply_console (s : State) (r : Request) (tag : Byte) (c : ReplyCode) (res : Result) :
    s.reply .console r tag c res =
      { s with conOutstanding := none, conUnsent := s.conUnsent ++ [⟨requestKind r, tag, c, res⟩] } := rfl

/-- A message handed to a link stands behind its unsent messages, while the link is UP and its channel is bound to it. -/
theorem link_handOver (s : State) (l : Nat) (m : LinkMsg) :
    (s.handOver l m).link l = { s.link l with
      unsent := if (s.link l).up = true ∧ (s.chan l).binding = .link then (s.link l).unsent ++ [m] else (s.link l).unsent } := by
  unfold handOver
  by_cases h : (s.link l).up = true ∧ (s.chan l).binding = .link
  · rw [if_pos (by simp [h]), if_pos h, updLink, link_setLink]
  · rw [if_neg (by simpa using h), if_neg h]

theorem link_handOver_ne (s : State) {l k : Nat} (m : LinkMsg) (h : k ≠ l) : (s.handOver l m).link k = s.link k := by
  unfold handOver
  split
  · exact link_setLink_ne _ _ _ _ h
  · rfl

/-- A reply on a link: the outstanding request becomes none, and the reply is handed over. -/
theorem link_reply_station (s : State) (l : Fin 16) (r : Request) (tag : Byte) (c : ReplyCode) (res : Result) :
    (s.reply (.station l) r tag c res).link l = { s.link l with
      outstanding := none
      unsent := if (s.link l).up = true ∧ (s.chan l).binding = .link then
          (s.link l).unsent ++ [.reply (requestKind r) tag c res] else (s.link l).unsent } := by
  unfold reply
  dsimp only
  rw [link_handOver, updLink, link_setLink]
  rfl

theorem link_reply_station_ne (s : State) (l : Fin 16) (r : Request) (tag : Byte) (c : ReplyCode) (res : Result) {k : Nat}
    (h : k ≠ l.val) : (s.reply (.station l) r tag c res).link k = s.link k := by
  unfold reply
  dsimp only
  rw [link_handOver_ne _ _ h, updLink, link_setLink_ne _ _ _ _ h]

theorem reply_station_frame (s : State) (l : Fin 16) (r : Request) (tag : Byte) (c : ReplyCode) (res : Result) :
    ∃ links, s.reply (.station l) r tag c res = { s with links := links } := by
  unfold reply
  dsimp only
  rw [handOver_frame]
  exact ⟨_, rfl⟩

/-! ### The bytes of a reply -/

theorem toBytes_one (v : Nat) : toBytes 1 v = [BitVec.ofNat 8 v] := rfl

theorem replyBytes_eq (kind : Nat) (tag : Byte) (c : ReplyCode) (res : Result) :
    replyBytes kind tag c res =
      [3] ++ toBytes 2 (res.bytes.length + 3) ++ [BitVec.ofNat 8 kind, tag, BitVec.ofNat 8 c.code] ++ res.bytes := by
  unfold replyBytes envelopeBytes
  rw [toBytes_one, toBytes_one, toBytes_one]
  have length : ([BitVec.ofNat 8 kind] ++ [tag] ++ [BitVec.ofNat 8 c.code] ++ res.bytes).length = res.bytes.length + 3 := by
    simp
  rw [length]
  simp

/-- The optional results present, on the wire in ascending order. -/
theorem optional_bytes (parts : List (Option (List Item))) :
    ((parts.map fun o => o.map fun items => items.flatMap Item.bytes).map fun o => o.getD []).flatten =
      parts.flatMap fun o => (o.getD []).flatMap Item.bytes := by
  rw [List.map_map, List.flatMap_def]
  congr 2
  funext o
  cases o <;> rfl

/-- The bytes of a reply's results: the presence word says which optional results follow it. -/
theorem resultBytes_presence (res : Result) : ∃ word : Nat, word < 2 ^ res.optional.length ∧
    (∀ i o, res.optional[i]? = some o → word.testBit i = o.isSome) ∧
    res.bytes = res.fixed.flatMap Item.bytes ++
      (if res.optional = [] then [] else toBytes (if 8 < res.optional.length then 2 else 1) word) ++
      (res.optional.flatMap fun o => (o.getD []).flatMap Item.bytes) ++ res.rest.flatMap Item.bytes := by
  let wired : List (Option (List Byte)) := res.optional.map fun o => o.map fun items => items.flatMap Item.bytes
  refine ⟨presenceOf wired, ?_, fun i o at_ => ?_, ?_⟩
  · simpa [wired] using presence_lt wired
  · have bit := presence_bit wired i (o.map fun items => items.flatMap Item.bytes) (by simp [wired, at_])
    rw [bit, Option.isSome_map]
  · unfold Result.bytes
    rw [parts_eq, optional_bytes]
    by_cases empty : res.optional = []
    · simp [empty]
    · simp [empty, wired]

/-- Settles O4: the parts of a routing, of a reply and of its bytes. -/
theorem routedRequestsAndReplies : Obligations.RoutedRequestsAndReplies := by
  unfold Obligations.RoutedRequestsAndReplies
  refine ⟨routed_console_iff, fun s l r w tag => ?_, reply_console, fun s l r tag c res => ?_, replyBytes_eq,
    resultBytes_presence⟩
  · rw [routed_station_iff]
    refine and_congr (or_congr Iff.rfl ?_) Iff.rfl
    cases r <;> simp [forChannel]
  · exact ⟨link_reply_station s l r tag c res, fun k h => link_reply_station_ne s l r tag c res h,
      reply_station_frame s l r tag c res⟩

/-! ### Refused requests -/

/-- An answer that is a refusal changes no record, carries no result and places no notice. -/
def Ans.Plain (a : Ans) (s : State) : Prop := a.code ≠ .done → a = refuse a.code s

theorem refuse_plain (c : ReplyCode) (s : State) : (refuse c s).Plain s := fun _ => rfl

theorem Ans.plain_of_done {a : Ans} (s : State) (h : a.code = .done) : a.Plain s := fun k => absurd h k

theorem done_plain (t s : State) (items : List Item) : (done t items).Plain s := Ans.plain_of_done s rfl

theorem checked_plain (s : State) (checks : List (Bool × ReplyCode)) {taken : Ans} (h : taken.Plain s) :
    (checked s checks taken).Plain s := by
  unfold checked
  split
  · exact refuse_plain _ s
  · exact h

theorem foundJob_plain (s : State) (w : Party) (n : Nat) (x m : JobKey) : (foundJob s w n x m).Plain s := by
  unfold foundJob
  split
  · exact done_plain _ _ _
  · exact refuse_plain _ _

theorem releasedJob_plain (s : State) (w : Party) (r : Ref) : (releasedJob s w r).Plain s := by
  unfold releasedJob
  split <;> exact done_plain _ _ _

theorem segmentRead_plain (s : State) (r : Ref) : (segmentRead s r).Plain s := by
  unfold segmentRead
  split
  · exact Ans.plain_of_done _ rfl
  · exact refuse_plain _ _

theorem placedCue_plain (s : State) (w : Party) (k : Nat) (l : BitVec 16) (f : Place) : (placedCue s w k l f).Plain s := by
  unfold placedCue
  split
  · exact refuse_plain _ _
  · exact done_plain _ _ _

theorem cueRead_plain (s : State) (w : Party) (r : Ref) : (cueRead s w r).Plain s := by
  unfold cueRead
  split
  · exact refuse_plain _ _
  · exact Ans.plain_of_done _ rfl

theorem cueAnswer_plain (s : State) (w : Party) (b : Bound) (found : Option (Nat × CueBody × Nat)) :
    (cueAnswer s w b found).Plain s := by
  unfold cueAnswer
  split
  · exact refuse_plain _ _
  · exact Ans.plain_of_done _ rfl

theorem cueAtAnswer_plain (s : State) (w : Party) (x : Option (Ref × Nat)) : (cueAtAnswer s w x).Plain s := by
  unfold cueAtAnswer
  split
  · exact refuse_plain _ _
  · exact cueAnswer_plain _ _ _ _

theorem lastCueAnswer_plain (s : State) (w : Party) (r : Ref) : (lastCueAnswer s w r).Plain s := by
  unfold lastCueAnswer
  split
  · split
    · exact refuse_plain _ _
    · exact checked_plain _ _ (cueAnswer_plain _ _ _ _)
  · exact checked_plain _ _ (cueAnswer_plain _ _ _ _)

theorem findCueAnswer_plain (s : State) (w : Party) (x : Option (Ref × Nat)) (d : Nat) (y m : BitVec 20) (t : Option Ref) :
    (findCueAnswer s w x d y m t).Plain s := by
  unfold findCueAnswer
  extract_lets far stale
  split
  · exact refuse_plain _ _
  · split
    · exact refuse_plain _ _
    · exact checked_plain _ _ (cueAnswer_plain _ _ _ _)

theorem claimedNext_plain (s : State) (n : Nat) (e : BitVec 3) : (claimedNext s n e).Plain s := by
  unfold claimedNext
  split
  · exact refuse_plain _ _
  · exact done_plain _ _ _

theorem reworkedTake_plain (s : State) (r : Ref) (n : Option Nat) : (reworkedTake s r n).Plain s := by
  unfold reworkedTake
  dsimp only
  split <;> exact done_plain _ _ _

theorem queueEntryAt_plain (s : State) (n : Nat) : (queueEntryAt s n).Plain s := by
  unfold queueEntryAt
  split
  · exact refuse_plain _ _
  · exact done_plain _ _ _

theorem capturedMode_plain (s : State) (ch : Nat) (r : Ref) (m : ModeRequest) : (capturedMode s ch r m).Plain s := by
  unfold capturedMode
  dsimp only
  split <;> exact done_plain _ _ _

theorem setModeAnswer_plain (s : State) (ch : Nat) (m : ModeRequest) : (setModeAnswer s ch m).Plain s := by
  unfold setModeAnswer
  split
  · exact checked_plain _ _ (refuse_plain _ _)
  · exact checked_plain _ _ (capturedMode_plain _ _ _ _)

theorem recordAnswer_plain (s : State) (ch : Nat) : (recordAnswer s ch).Plain s := by
  unfold recordAnswer
  split
  · exact checked_plain _ _ (done_plain _ _ _)
  · exact checked_plain _ _ (done_plain _ _ _)
  all_goals exact refuse_plain _ _

theorem pauseAnswer_plain (s : State) (ch : Nat) : (pauseAnswer s ch).Plain s := by
  unfold pauseAnswer
  split
  · exact checked_plain _ _ (done_plain _ _ _)
  · exact checked_plain _ _ (done_plain _ _ _)
  all_goals exact refuse_plain _ _

theorem readbackAnswer_plain (s : State) (ch : Nat) (l : BitVec 16) (t : CueOrPos) : (readbackAnswer s ch l t).Plain s := by
  unfold readbackAnswer
  split
  · exact refuse_plain _ _
  · exact checked_plain _ _ (Ans.plain_of_done _ rfl)

theorem readbackEndAnswer_plain (s : State) (ch : Nat) : (readbackEndAnswer s ch).Plain s := by
  unfold readbackEndAnswer
  split
  · exact refuse_plain _ _
  · exact done_plain _ _ _

theorem playAnswer_plain (s : State) (ch : Nat) : (playAnswer s ch).Plain s := by
  unfold playAnswer
  split
  · exact refuse_plain _ _
  · exact checked_plain _ _ (done_plain _ _ _)

theorem haltAnswer_plain (s : State) (ch : Nat) : (haltAnswer s ch).Plain s := by
  unfold haltAnswer
  split
  · exact refuse_plain _ _
  · exact Ans.plain_of_done _ rfl

theorem moveAnswer_plain (s : State) (ch : Nat) (d : Shuttle) (n : Nat) : (moveAnswer s ch d n).Plain s := by
  unfold moveAnswer
  split
  · exact refuse_plain _ _
  · exact done_plain _ _ _

theorem jumpAnswer_plain (s : State) (ch : Nat) (t : CueOrPos) : (jumpAnswer s ch t).Plain s := by
  unfold jumpAnswer
  split
  · exact refuse_plain _ _
  · exact checked_plain _ _ (done_plain _ _ _)

theorem returnAnswer_plain (s : State) (ch : Nat) : (returnAnswer s ch).Plain s := by
  unfold returnAnswer
  split
  · exact refuse_plain _ _
  · split
    · exact refuse_plain _ _
    · exact done_plain _ _ _

theorem playSetupAnswer_plain (s : State) (ch : Nat) (d : PlaySetup) : (playSetupAnswer s ch d).Plain s := by
  unfold playSetupAnswer
  split
  · exact refuse_plain _ _
  · exact checked_plain _ _ (done_plain _ _ _)

theorem startedExport_plain (s : State) (r : Ref) (ch a b : Nat) : (startedExport s r ch a b).Plain s := by
  unfold startedExport
  dsimp only
  split <;> exact done_plain _ _ _

/-- A command that stands for a request is an owner's taking of it, and that owner's refusals are plain, but for READ NOTICE. -/
theorem exec_asks {c : Instr} {p : Port} {r : Request} (h : c.asks = some (p, r)) :
    ∃ owner : Party → State → Ans, (∀ s, exec c s = serve p r s owner) ∧
      (c ≠ .readNotice → ∀ w s, (owner w s).Plain s) := by
  cases c <;> cases h
  case openJob => exact ⟨_, fun _ => rfl, fun _ _ _ => checked_plain _ _ (done_plain _ _ _)⟩
  case createJob => exact ⟨_, fun _ => rfl, fun _ _ _ => checked_plain _ _ (done_plain _ _ _)⟩
  case attach => exact ⟨_, fun _ => rfl, fun _ _ _ => checked_plain _ _ (done_plain _ _ _)⟩
  case detach => exact ⟨_, fun _ => rfl, fun _ _ _ => checked_plain _ _ (done_plain _ _ _)⟩
  case closeDictation => exact ⟨_, fun _ => rfl, fun _ _ _ => checked_plain _ _ (done_plain _ _ _)⟩
  case setJobAttributes => exact ⟨_, fun _ => rfl, fun _ _ _ => checked_plain _ _ (done_plain _ _ _)⟩
  case readJob => exact ⟨_, fun _ => rfl, fun _ _ _ => checked_plain _ _ (Ans.plain_of_done _ rfl)⟩
  case findJob => exact ⟨_, fun _ => rfl, fun _ _ _ => checked_plain _ _ (foundJob_plain _ _ _ _ _)⟩
  case hold => exact ⟨_, fun _ => rfl, fun _ _ _ => checked_plain _ _ (done_plain _ _ _)⟩
  case unhold => exact ⟨_, fun _ => rfl, fun _ _ _ => checked_plain _ _ (done_plain _ _ _)⟩
  case release => exact ⟨_, fun _ => rfl, fun _ _ _ => checked_plain _ _ (releasedJob_plain _ _ _)⟩
  case retiringStatus => exact ⟨_, fun _ => rfl, fun _ _ _ => Ans.plain_of_done _ rfl⟩
  case readSegment => exact ⟨_, fun _ => rfl, fun _ _ _ => checked_plain _ _ (segmentRead_plain _ _)⟩
  case sealRange => exact ⟨_, fun _ => rfl, fun _ _ _ => checked_plain _ _ (done_plain _ _ _)⟩
  case paceRange => exact ⟨_, fun _ => rfl, fun _ _ _ => checked_plain _ _ (done_plain _ _ _)⟩
  case placeCue => exact ⟨_, fun _ => rfl, fun _ _ _ => checked_plain _ _ (placedCue_plain _ _ _ _ _)⟩
  case removeCue => exact ⟨_, fun _ => rfl, fun _ _ _ => checked_plain _ _ (done_plain _ _ _)⟩
  case readCue => exact ⟨_, fun _ => rfl, fun _ _ _ => checked_plain _ _ (cueRead_plain _ _ _)⟩
  case cueAt => exact ⟨_, fun _ => rfl, fun _ _ _ => cueAtAnswer_plain _ _ _⟩
  case lastCue => exact ⟨_, fun _ => rfl, fun _ _ _ => lastCueAnswer_plain _ _ _⟩
  case findCue => exact ⟨_, fun _ => rfl, fun _ _ _ => findCueAnswer_plain _ _ _ _ _ _ _⟩
  case claimNext => exact ⟨_, fun _ => rfl, fun _ _ _ => checked_plain _ _ (claimedNext_plain _ _ _)⟩
  case assign => exact ⟨_, fun _ => rfl, fun _ _ _ => checked_plain _ _ (done_plain _ _ _)⟩
  case returnTake => exact ⟨_, fun _ => rfl, fun _ _ _ => checked_plain _ _ (done_plain _ _ _)⟩
  case revoke => exact ⟨_, fun _ => rfl, fun _ _ _ => checked_plain _ _ (done_plain _ _ _)⟩
  case rework => exact ⟨_, fun _ => rfl, fun _ _ _ => checked_plain _ _ (reworkedTake_plain _ _ _)⟩
  case readTake => exact ⟨_, fun _ => rfl, fun _ _ _ => checked_plain _ _ (Ans.plain_of_done _ rfl)⟩
  case heldTakes => exact ⟨_, fun _ => rfl, fun _ _ _ => Ans.plain_of_done _ rfl⟩
  case queueEntry => exact ⟨_, fun _ => rfl, fun _ _ _ => checked_plain _ _ (queueEntryAt_plain _ _)⟩
  case setBankMap => exact ⟨_, fun _ => rfl, fun _ _ _ => checked_plain _ _ (done_plain _ _ _)⟩
  case format => exact ⟨_, fun _ => rfl, fun _ _ _ => checked_plain _ _ (done_plain _ _ _)⟩
  case setPoolThreshold => exact ⟨_, fun _ => rfl, fun _ _ _ => checked_plain _ _ (done_plain _ _ _)⟩
  case setBulkPriority => exact ⟨_, fun _ => rfl, fun _ _ _ => checked_plain _ _ (done_plain _ _ _)⟩
  case readExtent => exact ⟨_, fun _ => rfl, fun _ _ _ => checked_plain _ _ (Ans.plain_of_done _ rfl)⟩
  case readPool => exact ⟨_, fun _ => rfl, fun _ _ _ => Ans.plain_of_done _ rfl⟩
  case setCaptureMode => exact ⟨_, fun _ => rfl, fun _ _ _ => setModeAnswer_plain _ _ _⟩
  case sealMode => exact ⟨_, fun _ => rfl, fun _ _ _ => checked_plain _ _ (done_plain _ _ _)⟩
  case captureSetup => exact ⟨_, fun _ => rfl, fun _ _ _ => checked_plain _ _ (done_plain _ _ _)⟩
  case record => exact ⟨_, fun _ => rfl, fun _ _ _ => recordAnswer_plain _ _⟩
  case pause => exact ⟨_, fun _ => rfl, fun _ _ _ => pauseAnswer_plain _ _⟩
  case readback => exact ⟨_, fun _ => rfl, fun _ _ _ => readbackAnswer_plain _ _ _ _⟩
  case readbackEnd => exact ⟨_, fun _ => rfl, fun _ _ _ => readbackEndAnswer_plain _ _⟩
  case play => exact ⟨_, fun _ => rfl, fun _ _ _ => playAnswer_plain _ _⟩
  case loadTake => exact ⟨_, fun _ => rfl, fun _ _ _ => checked_plain _ _ (done_plain _ _ _)⟩
  case halt => exact ⟨_, fun _ => rfl, fun _ _ _ => haltAnswer_plain _ _⟩
  case rewind => exact ⟨_, fun _ => rfl, fun _ _ _ => checked_plain _ _ (moveAnswer_plain _ _ _ _)⟩
  case forward => exact ⟨_, fun _ => rfl, fun _ _ _ => checked_plain _ _ (moveAnswer_plain _ _ _ _)⟩
  case jump => exact ⟨_, fun _ => rfl, fun _ _ _ => jumpAnswer_plain _ _ _⟩
  case returnPlay => exact ⟨_, fun _ => rfl, fun _ _ _ => returnAnswer_plain _ _⟩
  case playSetup => exact ⟨_, fun _ => rfl, fun _ _ _ => playSetupAnswer_plain _ _ _⟩
  case setProfile => exact ⟨_, fun _ => rfl, fun _ _ _ => checked_plain _ _ (done_plain _ _ _)⟩
  case readProfiles => exact ⟨_, fun _ => rfl, fun _ _ _ => checked_plain _ _ (done_plain _ _ _)⟩
  case bindChannel => exact ⟨_, fun _ => rfl, fun _ _ _ => checked_plain _ _ (done_plain _ _ _)⟩
  case setFrameTimeout => exact ⟨_, fun _ => rfl, fun _ _ _ => checked_plain _ _ (done_plain _ _ _)⟩
  case readChannel => exact ⟨_, fun _ => rfl, fun _ _ _ => checked_plain _ _ (Ans.plain_of_done _ rfl)⟩
  case exportJob => exact ⟨_, fun _ => rfl, fun _ _ _ => checked_plain _ _ (startedExport_plain _ _ _ _ _)⟩
  case exportStop => exact ⟨_, fun _ => rfl, fun _ _ _ => checked_plain _ _ (done_plain _ _ _)⟩
  case configureStation => exact ⟨_, fun _ => rfl, fun _ _ _ => checked_plain _ _ (done_plain _ _ _)⟩
  case readLink => exact ⟨_, fun _ => rfl, fun _ _ _ => checked_plain _ _ (Ans.plain_of_done _ rfl)⟩
  case pedalMask => exact ⟨_, fun _ => rfl, fun _ _ _ => checked_plain _ _ (done_plain _ _ _)⟩
  case readNotice => exact ⟨_, fun _ => rfl, fun h => absurd rfl h⟩
  case acknowledgeNotice => exact ⟨_, fun _ => rfl, fun _ _ _ => checked_plain _ _ (done_plain _ _ _)⟩
  case bulkRead => exact ⟨_, fun _ => rfl, fun _ _ _ => checked_plain _ _ (Ans.plain_of_done _ rfl)⟩
  case warmReset => exact ⟨_, fun _ => rfl, fun _ _ _ => done_plain _ _ _⟩

/-- Settles O5: a command that stands for a request is its owner's taking of it, which asks the port first. -/
theorem unroutedRequestChangesNothing : Obligations.UnroutedRequestChangesNothing := by
  unfold Obligations.UnroutedRequestChangesNothing
  intro c p r s asks unrouted
  obtain ⟨owner, taking, -⟩ := exec_asks asks
  rw [taking, serve, unrouted]

/-- Settles O6: the owners' refusals are plain, and a plain refusal hands back its reply alone. -/
theorem refusedRequestChangesNothing : Obligations.RefusedRequestChangesNothing := by
  unfold Obligations.RefusedRequestChangesNothing
  intro c p r s who tag asks other routed
  obtain ⟨owner, taking, plain⟩ := exec_asks asks
  have answers : exec c s = .next (finish p r tag (owner who s)) := by rw [taking, serve_routed routed]
  refine ⟨owner who s, answers, fun refused => ?_⟩
  have refusal : owner who s = refuse (owner who s).code s := plain other who s refused
  rw [answers, refusal]
  rfl

/-! ### Requests that only read -/

/-- An answer that changes nothing and places no notice. -/
def Ans.Reads (a : Ans) (s : State) : Prop := a.state = s ∧ a.after = none

theorem refuse_reads (c : ReplyCode) (s : State) : (refuse c s).Reads s := ⟨rfl, rfl⟩

theorem checked_reads (s : State) (checks : List (Bool × ReplyCode)) {taken : Ans} (h : taken.Reads s) :
    (checked s checks taken).Reads s := by
  unfold checked
  split
  · exact refuse_reads _ s
  · exact h

theorem foundJob_reads (s : State) (w : Party) (n : Nat) (x m : JobKey) : (foundJob s w n x m).Reads s := by
  unfold foundJob
  split <;> exact ⟨rfl, rfl⟩

theorem segmentRead_reads (s : State) (r : Ref) : (segmentRead s r).Reads s := by
  unfold segmentRead
  split <;> exact ⟨rfl, rfl⟩

theorem cueRead_reads (s : State) (w : Party) (r : Ref) : (cueRead s w r).Reads s := by
  unfold cueRead
  split <;> exact ⟨rfl, rfl⟩

theorem cueAnswer_reads (s : State) (w : Party) (b : Bound) (found : Option (Nat × CueBody × Nat)) :
    (cueAnswer s w b found).Reads s := by
  unfold cueAnswer
  split <;> exact ⟨rfl, rfl⟩

theorem cueAtAnswer_reads (s : State) (w : Party) (x : Option (Ref × Nat)) : (cueAtAnswer s w x).Reads s := by
  unfold cueAtAnswer
  split
  · exact refuse_reads _ _
  · exact cueAnswer_reads _ _ _ _

theorem lastCueAnswer_reads (s : State) (w : Party) (r : Ref) : (lastCueAnswer s w r).Reads s := by
  unfold lastCueAnswer
  split
  · split
    · exact refuse_reads _ _
    · exact checked_reads _ _ (cueAnswer_reads _ _ _ _)
  · exact checked_reads _ _ (cueAnswer_reads _ _ _ _)

theorem findCueAnswer_reads (s : State) (w : Party) (x : Option (Ref × Nat)) (d : Nat) (y m : BitVec 20) (t : Option Ref) :
    (findCueAnswer s w x d y m t).Reads s := by
  unfold findCueAnswer
  extract_lets far stale
  split
  · exact refuse_reads _ _
  · split
    · exact refuse_reads _ _
    · exact checked_reads _ _ (cueAnswer_reads _ _ _ _)

theorem queueEntryAt_reads (s : State) (n : Nat) : (queueEntryAt s n).Reads s := by
  unfold queueEntryAt
  split <;> exact ⟨rfl, rfl⟩

/-- The requests that only read (SPEC, chapter 12). -/
def isReading : Instr → Prop
  | .readJob .. | .findJob .. | .retiringStatus | .readSegment .. | .readCue .. | .cueAt .. | .lastCue .. | .findCue ..
  | .readTake .. | .heldTakes .. | .queueEntry .. | .readExtent .. | .readPool | .readProfiles .. | .readChannel ..
  | .readLink .. => True
  | _ => False

/-- A reading request is an owner's taking of it, and that owner's answers read. -/
theorem exec_reading {c : Instr} {p : Port} {r : Request} (h : c.asks = some (p, r)) (reading : isReading c) :
    ∃ owner : Party → State → Ans, (∀ s, exec c s = serve p r s owner) ∧ ∀ w s, (owner w s).Reads s := by
  cases c <;> first | exact reading.elim | cases h
  case readJob => exact ⟨_, fun _ => rfl, fun _ _ => checked_reads _ _ ⟨rfl, rfl⟩⟩
  case findJob => exact ⟨_, fun _ => rfl, fun _ _ => checked_reads _ _ (foundJob_reads _ _ _ _ _)⟩
  case retiringStatus => exact ⟨_, fun _ => rfl, fun _ _ => ⟨rfl, rfl⟩⟩
  case readSegment => exact ⟨_, fun _ => rfl, fun _ _ => checked_reads _ _ (segmentRead_reads _ _)⟩
  case readCue => exact ⟨_, fun _ => rfl, fun _ _ => checked_reads _ _ (cueRead_reads _ _ _)⟩
  case cueAt => exact ⟨_, fun _ => rfl, fun _ _ => cueAtAnswer_reads _ _ _⟩
  case lastCue => exact ⟨_, fun _ => rfl, fun _ _ => lastCueAnswer_reads _ _ _⟩
  case findCue => exact ⟨_, fun _ => rfl, fun _ _ => findCueAnswer_reads _ _ _ _ _ _ _⟩
  case readTake => exact ⟨_, fun _ => rfl, fun _ _ => checked_reads _ _ ⟨rfl, rfl⟩⟩
  case heldTakes => exact ⟨_, fun _ => rfl, fun _ _ => ⟨rfl, rfl⟩⟩
  case queueEntry => exact ⟨_, fun _ => rfl, fun _ _ => checked_reads _ _ (queueEntryAt_reads _ _)⟩
  case readExtent => exact ⟨_, fun _ => rfl, fun _ _ => checked_reads _ _ ⟨rfl, rfl⟩⟩
  case readPool => exact ⟨_, fun _ => rfl, fun _ _ => ⟨rfl, rfl⟩⟩
  case readProfiles => exact ⟨_, fun _ => rfl, fun _ _ => checked_reads _ _ ⟨rfl, rfl⟩⟩
  case readChannel => exact ⟨_, fun _ => rfl, fun _ _ => checked_reads _ _ ⟨rfl, rfl⟩⟩
  case readLink => exact ⟨_, fun _ => rfl, fun _ _ => checked_reads _ _ ⟨rfl, rfl⟩⟩

/-- Settles O7: the answer of a reading request has the state it was asked in, and is replied. -/
theorem readingChangesNothing : Obligations.ReadingChangesNothing := by
  unfold Obligations.ReadingChangesNothing
  intro p r s who tag routed c asks reading
  obtain ⟨owner, taking, reads⟩ := exec_reading asks (by cases c <;> exact reading)
  obtain ⟨state, after⟩ := reads who s
  exact ⟨_, _, by rw [taking, serve_routed routed, finish_plain _ _ _ _ after, state]⟩

end Sys2Proof.Machine
end

section
/-! ## Requests that read

How a request is judged by its checks and who asks at a port; and what each request that only reads answers. -/

set_option Elab.async false

namespace Sys2Proof.Machine
open State

/-! ### Judging a request -/

@[simp] theorem firstFailing_cons (b : Bool) (c : ReplyCode) (rest : List (Bool × ReplyCode)) :
    firstFailing ((b, c) :: rest) = if b then some c else firstFailing rest := rfl

/-- A routed request that a check refuses hands back the refusal alone. -/
theorem serve_failing {p : Port} {r : Request} {s : State} {who : Party} {tag : Byte} {owner : Party → State → Ans}
    {checks : List (Bool × ReplyCode)} {taken : Ans} {c : ReplyCode} (routed : s.routed p r = some (who, tag))
    (judges : owner who s = checked s checks taken) (fails : firstFailing checks = some c) :
    serve p r s owner = .next (s.reply p r tag c {}) :=
  serve_refused routed (by rw [judges, checked, fails])

theorem checked_of_passing {s : State} {checks : List (Bool × ReplyCode)} {taken : Ans}
    (passes : firstFailing checks = none) : checked s checks taken = taken := by
  rw [checked, passes]

/-- A routed request that every check passes, and which places no notice, hands back its answer. -/
theorem serve_passing {p : Port} {r : Request} {s t : State} {who : Party} {tag : Byte} {owner : Party → State → Ans}
    {checks : List (Bool × ReplyCode)} {taken : Ans} {c : ReplyCode} {res : Result}
    (routed : s.routed p r = some (who, tag)) (judges : owner who s = checked s checks taken)
    (passes : firstFailing checks = none) (answers : taken = { code := c, result := res, state := t }) :
    serve p r s owner = .next (t.reply p r tag c res) := by
  rw [serve_routed routed, judges, checked_of_passing passes, answers]
  rfl

/-- A routed request with no check of its own. -/
theorem serve_unchecked {p : Port} {r : Request} {s t : State} {who : Party} {tag : Byte} {owner : Party → State → Ans}
    {c : ReplyCode} {res : Result} (routed : s.routed p r = some (who, tag))
    (answers : owner who s = { code := c, result := res, state := t }) :
    serve p r s owner = .next (t.reply p r tag c res) := by
  rw [serve_routed routed, answers]
  rfl

section References

variable {s : State} {r : Ref} {post : List (Bool × ReplyCode)}

theorem idx_lt_of_segCurrent (current : s.segCurrent r = true) : r.idx < Config.segRecords := by
  simp only [segCurrent, Bool.and_eq_true, decide_eq_true_eq] at current
  exact current.1.1

theorem idx_lt_of_cueCurrent (current : s.cueCurrent r = true) : r.idx < Config.cueRecords := by
  simp only [cueCurrent, Bool.and_eq_true, decide_eq_true_eq] at current
  exact current.1.1

theorem idx_lt_of_takeCurrent (current : s.takeCurrent r = true) : r.idx < Config.takeRecords := by
  simp only [takeCurrent, Bool.and_eq_true, decide_eq_true_eq] at current
  exact current.1.1

/-- Past the checks of a current reference the request's own checks decide. -/
theorem firstFailing_jobChecks (current : s.jobCurrent r = true) :
    firstFailing (jobChecks s r ++ post) = firstFailing post := by
  simp [jobChecks, current, idx_lt_of_jobCurrent current]

theorem firstFailing_cueChecks (current : s.cueCurrent r = true) :
    firstFailing (cueChecks s r ++ post) = firstFailing post := by
  simp [cueChecks, current, idx_lt_of_cueCurrent current]

theorem firstFailing_takeChecks (current : s.takeCurrent r = true) :
    firstFailing (takeChecks s r ++ post) = firstFailing post := by
  simp [takeChecks, current, idx_lt_of_takeCurrent current]

end References

/-! ### Who asks -/

theorem eq_console_of_routed {s : State} {r : Request} {who : Party} {tag : Byte}
    (routed : s.routed .console r = some (who, tag)) : who = .console :=
  ((routed_console_iff s r who tag).1 routed).1

theorem station_of_routed {s : State} {l : Fin 16} {r : Request} {who : Party} {tag : Byte}
    (routed : s.routed (.station l) r = some (who, tag)) : ∃ role person, who = .station l role person := by
  obtain ⟨-, role, person, station, -⟩ := (routed_station_iff s l r who tag).1 routed
  exact ⟨role, person, station⟩

/-! ### Jobs (R19, R20) -/

/-- READ JOB checks the reference, then the party and the state. -/
theorem exec_readJob (p : Port) (r : Ref) (s : State) :
    exec (.readJob p r) s = serve p (.readJob r) s fun p s =>
      checked s
        (jobChecks s r ++ [(!s.mayReadJob p r.idx, .notPermitted), (decide ((s.job r.idx).state = .retiring), .state)])
        { code := .done, result := (s.job r.idx).readout r, state := s } := rfl

theorem holdsTakeOf_iff (s : State) (j n : Nat) :
    s.holdsTakeOf j n = true ↔ ∃ t : Nat × TakeBody, t ∈ s.jobTakes j ∧
      (t.2.state = .claimed ∨ t.2.state = .following) ∧ t.2.typist = some n := by
  simp [holdsTakeOf, heldBy]

/-- The console may read any job, a reporter its own, a typist those in which it holds a take. -/
theorem mayReadJob_iff (s : State) (who : Party) (j : Nat) :
    s.mayReadJob who j = true ↔ (match who with
      | .console => True
      | .station _ .reporter n => (s.job j).reporter = n
      | .station _ .typist n => ∃ t : Nat × TakeBody, t ∈ s.jobTakes j ∧
          (t.2.state = .claimed ∨ t.2.state = .following) ∧ t.2.typist = some n
      | .station _ .vacant _ => False) := by
  cases who with
  | console => simp [mayReadJob, Party.owns]
  | station l role n =>
    cases role with
    | reporter => simp [mayReadJob, Party.owns, Party.isTypist]
    | typist => simp [mayReadJob, Party.owns, Party.isTypist, Party.person, holdsTakeOf_iff]
    | vacant => simp [mayReadJob, Party.owns, Party.isTypist]

/-- Settles O24: the checks in their order, and past them the readout. -/
theorem readJobAnswers : Obligations.ReadJobAnswers := by
  unfold Obligations.ReadJobAnswers
  intro p r s who tag routed may
  have permits : s.mayReadJob who r.idx = true ↔ may := mayReadJob_iff s who r.idx
  clear_value may
  rw [exec_readJob]
  refine ⟨fun above => ?_, fun inside stale => ?_, fun current forbidden => ?_, fun current allowed retiring => ?_,
    fun current allowed stays => ?_⟩
  · exact serve_refused routed (checked_jobChecks_of_range above)
  · exact serve_refused routed (checked_jobChecks_of_stale (Nat.lt_succ_of_le inside) stale)
  · refine serve_failing routed rfl ?_
    rw [firstFailing_jobChecks current, ← permits, Bool.not_eq_true] at *
    simp [forbidden]
  · refine serve_failing routed rfl ?_
    rw [firstFailing_jobChecks current]
    simp [permits.2 allowed, retiring]
  · refine serve_passing routed rfl ?_ rfl
    rw [firstFailing_jobChecks current]
    simp [permits.2 allowed, stays]

/-- FIND JOB checks the party, then the start slot. -/
theorem exec_findJob (p : Port) (start : Nat) (x m : JobKey) (s : State) :
    exec (.findJob p start x m) s = serve p (.findJob start x m) s fun p s =>
      checked s [(p.isTypist, .notPermitted), (decide (Config.jobSlots ≤ start), .range)] (foundJob s p start x m) := rfl

/-- The slot found is the first of the directory from the start slot that agrees and may be shown. -/
theorem findSlot_eq_some {s : State} {who : Party} {start i : Nat} {x m : JobKey} (from_ : start ≤ i) (inside : i ≤ 511)
    (agrees : keyAgrees (s.job i).key x m = true) (owns : who.owns (s.job i) = true)
    (first : ∀ k, start ≤ k → k < i → keyAgrees (s.job k).key x m = true → who.owns (s.job k) = false) :
    s.findSlot who start x m = some i := by
  rw [findSlot, List.find?_range_eq_some]
  refine ⟨by simp [from_, agrees, owns], by simp [Config.jobSlots]; omega, fun k before => ?_⟩
  by_cases reached : start ≤ k
  · cases same : keyAgrees (s.job k).key x m with
    | false => simp
    | true => simp [first k reached before same]
  · simp [reached]

theorem findSlot_eq_none {s : State} {who : Party} {start : Nat} {x m : JobKey}
    (never : ∀ k, start ≤ k → k ≤ 511 → keyAgrees (s.job k).key x m = true → who.owns (s.job k) = false) :
    s.findSlot who start x m = none := by
  rw [findSlot, List.find?_eq_none]
  intro k mem
  have small : k ≤ 511 := Nat.le_of_lt_succ (List.mem_range.1 mem)
  by_cases reached : start ≤ k
  · cases same : keyAgrees (s.job k).key x m with
    | false => simp
    | true => simp [never k reached small same]
  · simp [reached]

theorem foundJob_of_some {s : State} {who : Party} {start i : Nat} {x m : JobKey}
    (found : s.findSlot who start x m = some i) :
    foundJob s who start x m = done s (.ref ⟨i, (s.job i).issue⟩ :: keyItems (s.job i).key) := by
  unfold foundJob
  rw [found]
  rfl

theorem foundJob_of_none {s : State} {who : Party} {start : Nat} {x m : JobKey}
    (found : s.findSlot who start x m = none) : foundJob s who start x m = refuse .none s := by
  unfold foundJob
  rw [found]

/-- Settles O25: the checks in their order, and past them the slot found. -/
theorem findJobSearches : Obligations.FindJobSearches := by
  unfold Obligations.FindJobSearches
  intro p start x m s who tag routed
  rw [exec_findJob]
  refine ⟨fun typist => serve_failing routed rfl (by simp [typist]), fun allowed above => ?_, fun allowed inside => ?_⟩
  · have outside : Config.jobSlots ≤ start := above
    exact serve_failing routed rfl (by simp [allowed, outside])
  have within : ¬ Config.jobSlots ≤ start := Nat.not_le.2 (Nat.lt_succ_of_le inside)
  have passes : firstFailing [(who.isTypist, ReplyCode.notPermitted), (decide (Config.jobSlots ≤ start), .range)] = none := by
    simp [allowed, within]
  constructor
  · intro i from_ small agrees owns first
    have found := findSlot_eq_some from_ small agrees owns first
    exact serve_passing routed rfl passes (foundJob_of_some found)
  · intro never
    have found := findSlot_eq_none never
    exact serve_passing routed rfl passes (foundJob_of_none found)

/-! ### Segments, the retiring list and the store (R48, R112, R175) -/

theorem bit_eq (b : Bool) : bit b = if b then 1 else 0 := rfl

theorem bit_not (b : Bool) : bit (!b) = if b then 0 else 1 := by cases b <;> rfl

theorem segJob_of_body {s : State} {i : Nat} {b : SegBody} (body : (s.seg i).body = some b) : s.segJob i = b.job.idx := by
  rw [segJob, body]

theorem segmentRead_of_body {s : State} {r : Ref} {b : SegBody} (body : (s.seg r.idx).body = some b) :
    segmentRead s r = { code := .done, result := b.readout r, state := s } := by
  rw [segmentRead, body]

/-- READ SEGMENT checks the reference, then the party and the job's state. -/
theorem exec_readSegment (p : Port) (r : Ref) (s : State) :
    exec (.readSegment p r) s = serve p (.readSegment r) s fun p s =>
      checked s
        [(decide (Config.segRecords ≤ r.idx), .range), (!s.segCurrent r, .stale),
          (!s.mayReadJob p (s.segJob r.idx), .notPermitted),
          (decide ((s.job (s.segJob r.idx)).state = .retiring), .state)]
        (segmentRead s r) := rfl

/-- READ EXTENT checks the extent number. -/
theorem exec_readExtent (e : Nat) (s : State) :
    exec (.readExtent e) s = serve .console (.readExtent e) s fun _ s =>
      checked s [(decide (Config.extents ≤ e), .range)] (extentRead s e) := rfl

/-- Settles O26: each owner's answer is the record's readout. -/
theorem storeAndMapReadsAnswer : Obligations.StoreAndMapReadsAnswer := by
  unfold Obligations.StoreAndMapReadsAnswer
  refine ⟨fun p r s who tag b routed current body may stays => ?_, fun s who tag routed => ⟨fun empty => ?_, ?_⟩,
    fun e s who tag routed small => ?_, fun s who tag routed => ?_⟩
  · have job := segJob_of_body body
    rw [exec_readSegment]
    refine serve_passing routed rfl ?_ (segmentRead_of_body body)
    simp [job, current, may, stays, idx_lt_of_segCurrent current]
  · refine serve_unchecked routed ?_
    simp [retiringReport, empty]
  · intro i rest w listed sweeps
    refine serve_unchecked routed ?_
    simp [retiringReport, listed, sweeps]
  · have outside : ¬ Config.extents ≤ e := Nat.not_le.2 (Nat.lt_succ_of_le small)
    rw [exec_readExtent]
    exact serve_passing routed rfl (by simp [outside]) rfl
  · refine serve_unchecked routed ?_
    simp only [poolRead, bit_not, bit_eq s.formatted, freeExtents, Item.opt]

/-! ### Channels and links (R121, R163, R184) -/

theorem copyItems_eq (x : Profile) : x.items =
    [.num 1 x.rate, .num 1 x.backstep, .num 1 (if x.sealAct = .mute then 0 else 1), .num 1 (if x.pace then 1 else 0)] := by
  cases act : x.sealAct <;> simp [Profile.items, SealAction.code, bit, act]

/-- READ PROFILES checks the channel number. -/
theorem exec_readProfiles (p : Port) (chan : Option Nat) (s : State) :
    exec (.readProfiles p chan) s = serve p (.readProfiles chan) s fun p s =>
      checked s [(decide (15 < readChan p chan), .range)] (profilesRead s (readChan p chan)) := rfl

theorem activeCode_eq (x : ProfId) : (match x with | .a => 0 | .b => 1) = if x = .a then 0 else 1 := by
  cases x <;> rfl

/-- Settles O46: the channel named is the console's operand or the station's own, and its readout is the two copies and the
marks of each profile. -/
theorem readProfilesAnswers : Obligations.ReadProfilesAnswers := by
  unfold Obligations.ReadProfilesAnswers
  intro copy marks out
  have readout (s : State) (ch : Nat) : profilesRead s ch = { code := .done, result := out (s.chan ch), state := s } := by
    cases act : (s.chan ch).active <;>
      simp [profilesRead, done, out, copy, marks, ProfilePair.items, copyItems_eq, bit_eq, act]
  clear_value out
  refine ⟨fun n s who tag routed => ?_, fun l s who tag routed => ?_⟩
  · obtain rfl := eq_console_of_routed routed
    rw [exec_readProfiles]
    by_cases above : 15 < n
    · rw [if_pos above]
      exact serve_failing routed rfl (by simp [readChan, above])
    · rw [if_neg above]
      exact serve_passing routed rfl (by simp [readChan, above]) (readout s n)
  · obtain ⟨role, person, rfl⟩ := station_of_routed routed
    rw [exec_readProfiles]
    have own : ¬ 15 < l.val := by omega
    exact serve_passing routed rfl (by simp [readChan, own]) (readout s l)

/-- READ CHANNEL checks the channel number. -/
theorem exec_readChannel (p : Port) (chan : Option Nat) (s : State) :
    exec (.readChannel p chan) s = serve p (.readChannel chan) s fun p s =>
      checked s [(decide (15 < readChan p chan), .range)] (channelRead s (readChan p chan)) := rfl

theorem bindingCode_eq (b : Binding) : b.code = if b = .link then 0 else 1 := by
  cases b <;> rfl

theorem isReadback_eq (s : State) (ch : Nat) : s.isReadback ch = (s.readbackOf ch).isSome := by
  unfold isReadback readbackOf
  cases (s.chan ch).stream <;> rfl

/-- The channel a routed read names. -/
theorem readChan_eq {p : Port} {r : Request} {chan : Option Nat} {s : State} {who : Party} {tag : Byte} {ch : Nat}
    (routed : s.routed p r = some (who, tag)) (console : p = .console → chan = some ch)
    (station : ∀ l, p = .station l → ch = l.val) : readChan who chan = ch := by
  cases p with
  | console =>
    obtain rfl := eq_console_of_routed routed
    rw [console rfl]
    rfl
  | station l =>
    obtain ⟨role, person, rfl⟩ := station_of_routed routed
    exact (station l rfl).symm

/-- Settles O48: the channel named, and the readouts of a channel and of a link. -/
theorem channelAndLinkReadsAnswer : Obligations.ChannelAndLinkReadsAnswer := by
  unfold Obligations.ChannelAndLinkReadsAnswer
  refine ⟨fun p chan s who tag ch routed console station => ?_, fun l s who tag routed => ?_⟩
  · have named := readChan_eq routed console station
    rw [exec_readChannel]
    refine ⟨fun above => serve_failing routed rfl (by simp [named, above]), fun inside => ?_⟩
    have passes : firstFailing [(decide (15 < readChan who chan), ReplyCode.range)] = none := by
      simp [named, Nat.not_lt.2 inside]
    refine ⟨_, serve_passing routed rfl passes rfl, ?_, ?_⟩
    · simp [named, bindingCode_eq, bit_eq, isReadback_eq, Channel.stateCode, Channel.secondNotice]
    · simp [named, Item.optRef, Item.opt]
  · have judges : exec (.readLink l) s = serve .console (.readLink l) s fun _ s =>
      checked s [(decide (15 < l), .range)] (linkRead s l) := rfl
    rw [judges]
    by_cases above : 15 < l
    · rw [if_pos above]
      exact serve_failing routed rfl (by simp [above])
    · rw [if_neg above]
      refine serve_passing routed rfl (by simp [above]) ?_
      cases held : (s.link l).role <;> simp [linkRead, bit_eq, bindingCode_eq, Role.code, held]

end Sys2Proof.Machine
end

section
/-! ## Canonical tables

What a table in canonical form lists, where its lowest record of a kind stands, and what a function applied to a run of
its records makes of them; with these, the records the pools give and the reading of takes and cues. -/

set_option Elab.async false

namespace Sys2Proof.Machine
open State

/-! ### What a canonical table lists -/

section Tables

variable {α : Type} [DecidableEq α] {d : α}

theorem Table.wfFrom_cons {lo k : Nat} {v : α} {t : List (Nat × α)} :
    Table.wfFrom d lo ((k, v) :: t) = true ↔ lo ≤ k ∧ v ≠ d ∧ Table.wfFrom d (k + 1) t = true := by
  simp [Table.wfFrom, and_assoc]

omit [DecidableEq α] in
theorem Table.get_cons (k n : Nat) (v : α) (t : List (Nat × α)) :
    Table.get d ((k, v) :: t) n = if n = k then v else Table.get d t n := rfl

/-- The indexes a canonical table lists are not below its start. -/
theorem Table.le_of_mem {lo : Nat} {t : List (Nat × α)} (wf : Table.wfFrom d lo t = true) {x : Nat × α} (mem : x ∈ t) :
    lo ≤ x.1 := by
  induction t generalizing lo with
  | nil => cases mem
  | cons y t ih =>
    obtain ⟨k, v⟩ := y
    obtain ⟨low, -, rest⟩ := Table.wfFrom_cons.1 wf
    rcases List.mem_cons.1 mem with rfl | mem
    · exact low
    · exact le_trans (le_trans low (Nat.le_succ k)) (ih rest mem)

theorem Table.pairwise_lt {lo : Nat} {t : List (Nat × α)} (wf : Table.wfFrom d lo t = true) :
    t.Pairwise fun x y => x.1 < y.1 := by
  induction t generalizing lo with
  | nil => exact List.Pairwise.nil
  | cons x t ih =>
    obtain ⟨k, v⟩ := x
    obtain ⟨-, -, rest⟩ := Table.wfFrom_cons.1 wf
    exact List.Pairwise.cons (fun y mem => Table.le_of_mem rest mem) (ih rest)

/-- A canonical table lists a record exactly when it is the record of its index and not the unlisted one. -/
theorem Table.mem_iff_get {lo : Nat} {t : List (Nat × α)} (wf : Table.wfFrom d lo t = true) (k : Nat) (v : α) :
    (k, v) ∈ t ↔ Table.get d t k = v ∧ v ≠ d := by
  induction t generalizing lo with
  | nil => exact iff_of_false List.not_mem_nil fun h => h.2 h.1.symm
  | cons x t ih =>
    obtain ⟨j, w⟩ := x
    obtain ⟨low, ne, rest⟩ := Table.wfFrom_cons.1 wf
    rw [List.mem_cons, ih rest, Table.get_cons]
    by_cases same : k = j
    · subst same
      rw [if_pos rfl, Table.get_below d k t _ rest (Nat.lt_succ_self k)]
      constructor
      · rintro (eq | ⟨rfl, no⟩)
        · cases eq
          exact ⟨rfl, ne⟩
        · exact absurd rfl no
      · rintro ⟨rfl, -⟩
        exact .inl rfl
    · simp [same]

/-- The lowest record of a kind, in a table whose unlisted records are of it. -/
theorem Table.lowestFrom_spec {p : α → Bool} (hd : p d = true) {lo : Nat} {t : List (Nat × α)}
    (wf : Table.wfFrom d lo t = true) :
    lo ≤ Table.lowestFrom p lo t ∧ p (Table.get d t (Table.lowestFrom p lo t)) = true ∧
      ∀ k, lo ≤ k → k < Table.lowestFrom p lo t → p (Table.get d t k) = false := by
  induction t generalizing lo with
  | nil => exact ⟨le_refl lo, hd, fun k low below => absurd below (Nat.not_lt.2 low)⟩
  | cons x t ih =>
    obtain ⟨k, v⟩ := x
    obtain ⟨low, ne, rest⟩ := Table.wfFrom_cons.1 wf
    rw [Table.lowestFrom]
    by_cases gap : lo < k
    · rw [if_pos gap, Table.get_below d lo _ _ (Table.wfFrom_cons.2 ⟨le_refl k, ne, rest⟩) gap]
      exact ⟨le_refl lo, hd, fun j low below => absurd below (Nat.not_lt.2 low)⟩
    · obtain rfl : lo = k := le_antisymm low (Nat.le_of_not_lt gap)
      rw [if_neg gap]
      cases kind : p v with
      | true =>
        rw [if_pos rfl, Table.get_cons, if_pos rfl]
        exact ⟨le_refl lo, kind, fun j low below => absurd below (Nat.not_lt.2 low)⟩
      | false =>
        obtain ⟨above, found, lower⟩ := ih rest
        rw [if_neg Bool.false_ne_true, Table.get_cons, if_neg (by omega)]
        refine ⟨by omega, found, fun j low below => ?_⟩
        rw [Table.get_cons]
        split
        · exact kind
        · exact lower j (by omega) below

/-- A function applied to a run of records, read at an index outside the run and inside it. -/
theorem Table.get_mapFrom (f : Nat → α → α) (n k : Nat) {t : List (Nat × α)} (wf : Table.wfFrom d k t = true) (i : Nat) :
    Table.get d (Table.mapFrom d f n k t) i = if k ≤ i ∧ i < k + n then f i (Table.get d t i) else Table.get d t i := by
  induction n generalizing k t with
  | zero => rw [Table.mapFrom, if_neg (by omega)]
  | succ n ih =>
    have step {t' : List (Nat × α)} (wf' : Table.wfFrom d (k + 1) t' = true) (w : α)
        (here : Table.get d t k = w) (there : ∀ j, j ≠ k → Table.get d t j = Table.get d t' j) :
        Table.get d (if f k w = d then Table.mapFrom d f n (k + 1) t' else (k, f k w) :: Table.mapFrom d f n (k + 1) t') i =
          if k ≤ i ∧ i < k + (n + 1) then f i (Table.get d t i) else Table.get d t i := by
      by_cases same : i = k
      · subst same
        rw [if_pos (show i ≤ i ∧ i < i + (n + 1) by omega), here]
        split
        · rename_i unlisted
          rw [ih (i + 1) wf', if_neg (by omega), unlisted]
          exact Table.get_below d i t' _ wf' (Nat.lt_succ_self i)
        · rw [Table.get_cons, if_pos rfl]
      · have shift : (k ≤ i ∧ i < k + (n + 1)) ↔ (k + 1 ≤ i ∧ i < k + 1 + n) := by omega
        rw [there i same, if_congr shift rfl rfl, ← ih (k + 1) wf']
        split
        · rfl
        · rw [Table.get_cons, if_neg same]
    cases t with
    | nil => exact step rfl d rfl fun _ _ => rfl
    | cons x t =>
      obtain ⟨j, w⟩ := x
      obtain ⟨low, ne, rest⟩ := Table.wfFrom_cons.1 wf
      rw [Table.mapFrom]
      by_cases same : j = k
      · subst same
        rw [if_pos rfl]
        exact step rest w (if_pos rfl) fun i different => if_neg different
      · rw [if_neg same]
        have beyond : Table.wfFrom d (k + 1) ((j, w) :: t) = true := Table.wfFrom_cons.2 ⟨by omega, ne, rest⟩
        exact step beyond d (Table.get_below d k _ _ beyond (Nat.lt_succ_self k)) fun _ _ => rfl

end Tables

/-! ### Records the pools give (R7, R26, R52, R71) -/

theorem job_lowestVacant {s : State} (canon : Canonical s) :
    (s.job s.lowestVacant).state = .vacant ∧ ∀ k, k < s.lowestVacant → (s.job k).state ≠ .vacant := by
  obtain ⟨-, jobs, -⟩ := canon
  obtain ⟨-, found, lower⟩ := Table.lowestFrom_spec (p := fun j : Job => decide (j.state = .vacant)) rfl jobs
  exact ⟨of_decide_eq_true found, fun k below => of_decide_eq_false (lower k (Nat.zero_le k) below)⟩

theorem seg_lowestFreeSeg {s : State} (canon : Canonical s) :
    (s.seg s.lowestFreeSeg).body = none ∧ ∀ k, k < s.lowestFreeSeg → (s.seg k).body ≠ none := by
  obtain ⟨-, -, segs, -⟩ := canon
  obtain ⟨-, found, lower⟩ := Table.lowestFrom_spec (p := fun x : Seg => x.body.isNone) rfl segs
  exact ⟨Option.isNone_iff_eq_none.1 found, fun k below none_ => by
    have used := lower k (Nat.zero_le k) below
    rw [show Table.get {} s.segs k = s.seg k from rfl, none_] at used
    cases used⟩

theorem cue_lowestFreeCue {s : State} (canon : Canonical s) :
    (s.cue s.lowestFreeCue).body = none ∧ ∀ k, k < s.lowestFreeCue → (s.cue k).body ≠ none := by
  obtain ⟨-, -, -, -, cues, -⟩ := canon
  obtain ⟨-, found, lower⟩ := Table.lowestFrom_spec (p := fun x : Cue => x.body.isNone) rfl cues
  exact ⟨Option.isNone_iff_eq_none.1 found, fun k below none_ => by
    have used := lower k (Nat.zero_le k) below
    rw [show Table.get {} s.cues k = s.cue k from rfl, none_] at used
    cases used⟩

theorem take_lowestFreeTake {s : State} (canon : Canonical s) :
    (s.take s.lowestFreeTake).body = none ∧ ∀ k, k < s.lowestFreeTake → (s.take k).body ≠ none := by
  obtain ⟨-, -, -, -, -, takes, -⟩ := canon
  obtain ⟨-, found, lower⟩ := Table.lowestFrom_spec (p := fun x : Take => x.body.isNone) rfl takes
  exact ⟨Option.isNone_iff_eq_none.1 found, fun k below none_ => by
    have used := lower k (Nat.zero_le k) below
    rw [show Table.get {} s.takes k = s.take k from rfl, none_] at used
    cases used⟩

/-- Settles O15: each pool's record is the lowest of its table's free ones. -/
theorem lowestFreeRecordIsTaken : Obligations.LowestFreeRecordIsTaken := by
  unfold Obligations.LowestFreeRecordIsTaken
  intro s canon
  exact ⟨job_lowestVacant canon, seg_lowestFreeSeg canon, cue_lowestFreeCue canon, take_lowestFreeTake canon⟩

/-! ### Takes (R92) -/

theorem takeBody_of_body {s : State} {i : Nat} {b : TakeBody} (body : (s.take i).body = some b) : s.takeBody i = b := by
  rw [takeBody, body]
  rfl

theorem heldBy_iff (b : TakeBody) (n : Nat) :
    heldBy b n = true ↔ (b.state = .claimed ∨ b.state = .following) ∧ b.typist = some n := by
  simp [heldBy]

/-- READ TAKE checks the reference, then the party and the job's state. -/
theorem exec_readTake (p : Port) (r : Ref) (s : State) :
    exec (.readTake p r) s = serve p (.readTake r) s fun p s =>
      checked s
        (takeChecks s r ++ [(!s.mayReadTake p (s.takeBody r.idx), .notPermitted),
          (decide ((s.job (s.takeBody r.idx).job.idx).state = .retiring), .state)])
        (takeRead s r) := rfl

/-- The takes of a table that a typist holds, with their records. -/
def heldOf (takes : List (Nat × Take)) (person : Nat) : List (Nat × TakeBody) :=
  takes.filterMap fun x =>
    match x.2.body with
    | some b => if heldBy b person then some (x.1, b) else none
    | none => none

theorem heldTakesList_eq (s : State) (person : Nat) :
    heldTakesList s person = { code := .done, state := s, result :=
      { fixed := [.num 1 (heldOf s.takes person).length]
        rest := (heldOf s.takes person).flatMap fun x => [.ref (s.takeRef x.1), .ref x.2.job, .num 1 x.2.state.code] } } :=
  rfl

theorem exec_heldTakes (l : Fin 16) (s : State) :
    exec (.heldTakes l) s = serve (.station l) .heldTakes s fun p s => heldTakesList s p.person := rfl

/-- What a listed record adds to the takes a typist holds. -/
theorem held_of_record (x : Nat × Take) (person i : Nat) (b : TakeBody) :
    (match x.2.body with
      | some b => if heldBy b person then some (x.1, b) else none
      | none => none) = some (i, b) ↔ x.1 = i ∧ x.2.body = some b ∧ heldBy b person = true := by
  obtain ⟨k, v⟩ := x
  cases body : v.body with
  | none => simp
  | some c =>
    by_cases held : heldBy c person = true
    · simp only [held, if_true, Option.some.injEq, Prod.mk.injEq]
      constructor
      · rintro ⟨rfl, rfl⟩
        exact ⟨rfl, rfl, held⟩
      · rintro ⟨rfl, rfl, -⟩
        exact ⟨rfl, rfl⟩
    · simp only [held, if_neg Bool.false_ne_true]
      constructor
      · rintro ⟨⟩
      · rintro ⟨rfl, eq, held'⟩
        cases eq
        exact absurd held' held

theorem mem_heldOf_iff {takes : List (Nat × Take)} (wf : Table.wf ({} : Take) takes = true) (person i : Nat) (b : TakeBody) :
    (i, b) ∈ heldOf takes person ↔ (Table.get {} takes i).body = some b ∧ heldBy b person = true := by
  rw [heldOf, List.mem_filterMap]
  constructor
  · rintro ⟨⟨k, v⟩, mem, found⟩
    obtain ⟨rfl, body, held⟩ := (held_of_record _ _ _ _).1 found
    obtain ⟨rfl, -⟩ := (Table.mem_iff_get wf k v).1 mem
    exact ⟨body, held⟩
  · rintro ⟨body, held⟩
    refine ⟨(i, Table.get {} takes i), (Table.mem_iff_get wf _ _).2 ⟨rfl, fun unlisted => ?_⟩,
      (held_of_record _ _ _ _).2 ⟨rfl, body, held⟩⟩
    rw [unlisted] at body
    cases body

theorem pairwise_heldOf {takes : List (Nat × Take)} (wf : Table.wf ({} : Take) takes = true) (person : Nat) :
    (heldOf takes person).Pairwise fun x y => x.1 < y.1 := by
  rw [heldOf, List.pairwise_filterMap]
  refine (Table.pairwise_lt wf).imp fun {x y} below u found v found' => ?_
  obtain ⟨i, b⟩ := u
  obtain ⟨j, c⟩ := v
  obtain ⟨rfl, -⟩ := (held_of_record _ _ _ _).1 found
  obtain ⟨rfl, -⟩ := (held_of_record _ _ _ _).1 found'
  exact below

/-- QUEUE ENTRY checks the rank. -/
theorem exec_queueEntry (rank : Nat) (s : State) :
    exec (.queueEntry rank) s = serve .console (.queueEntry rank) s fun _ s =>
      checked s [(decide (Config.takeRecords ≤ rank), .range)] (queueEntryAt s rank) := rfl

theorem queueEntryAt_of_some {s : State} {rank i : Nat} {b : TakeBody} (stands : s.ready[rank]? = some i)
    (body : (s.take i).body = some b) :
    queueEntryAt s rank = done s [.ref ⟨i, (s.take i).issue⟩, .num 1 b.state.code, .num 1 (s.job b.job.idx).cls.code,
      .num 2 (s.job b.job.idx).due.toNat, .num 4 (b.seq.getD 0).toNat] := by
  rw [queueEntryAt, stands]
  dsimp only
  rw [takeBody_of_body body]
  rfl

theorem queueEntryAt_of_none {s : State} {rank : Nat} (beyond : s.ready.length ≤ rank) :
    queueEntryAt s rank = refuse .none s := by
  rw [queueEntryAt, List.getElem?_eq_none beyond]

/-- Settles O34: the readout of a take, the held takes listed by a canonical table, and the entry of the queue. -/
theorem takeReadsAnswer : Obligations.TakeReadsAnswer := by
  unfold Obligations.TakeReadsAnswer
  refine ⟨fun p r s who tag b routed current body may stays => ?_, fun l s who tag routed => ?_,
    fun rank s who tag routed small => ?_⟩
  · have record := takeBody_of_body body
    have allowed : s.mayReadTake who b = true := by
      rcases may with owns | ⟨typist, own⟩
      · simp [mayReadTake, owns]
      · simp [mayReadTake, typist, own]
    rw [exec_readTake]
    refine serve_passing routed rfl ?_ ?_
    · rw [firstFailing_takeChecks current, record]
      simp [allowed, stays]
    · simp only [takeRead, record, Item.opt, Item.optRef, rank, Option.map_map, takeFrames]
      split <;> rfl
  · rw [exec_heldTakes]
    refine ⟨heldOf s.takes who.person, serve_unchecked routed (heldTakesList_eq s _), fun canon => ?_⟩
    obtain ⟨-, -, -, -, -, takes, -⟩ := canon
    refine ⟨pairwise_heldOf takes _, fun i b => ?_⟩
    rw [mem_heldOf_iff takes, heldBy_iff]
    rfl
  · have inside : ¬ Config.takeRecords ≤ rank := Nat.not_le.2 (Nat.lt_succ_of_le small)
    rw [exec_queueEntry]
    exact ⟨fun i b stands body => serve_passing routed rfl (by simp [inside]) (queueEntryAt_of_some stands body),
      fun beyond => serve_passing routed rfl (by simp [inside]) (queueEntryAt_of_none beyond)⟩

end Sys2Proof.Machine
end

section
/-! ## Requests that read cues

What READ CUE, CUE AT, LAST CUE and FIND CUE answer (R64 to R67). -/

set_option Elab.async false

namespace Sys2Proof.Machine
open State

theorem cueJob_of_body {s : State} {i : Nat} {b : CueBody} (body : (s.cue i).body = some b) : s.cueJob i = b.job.idx := by
  rw [cueJob, body]

theorem cuePos_of_body {s : State} {i : Nat} {b : CueBody} (body : (s.cue i).body = some b) :
    s.cuePos i = s.anchorPos b.job.idx b.anchor := by
  rw [cuePos, body]

/-! ### READ CUE -/

/-- READ CUE checks the reference, then the party and the job's state. -/
theorem exec_readCue (p : Port) (r : Ref) (s : State) :
    exec (.readCue p r) s = serve p (.readCue r) s fun p s =>
      checked s
        (cueChecks s r ++
          [(!s.mayReadCue p r.idx, .notPermitted), (decide ((s.job (s.cueJob r.idx)).state = .retiring), .state)])
        (cueRead s p r) := rfl

/-- The readout of a cue, with its place in the typist's take when it lies in one. -/
theorem cueRead_of_body {s : State} {who : Party} {r : Ref} {b : CueBody} (body : (s.cue r.idx).body = some b) :
    cueRead s who r =
      { code := .done, state := s, result :=
        { fixed := [.ref r, .ref b.job, .num 1 b.kind.code, .num 2 b.label.toNat] ++ b.placer.items ++ b.anchor.items ++
            [.num 3 (s.anchorPos b.job.idx b.anchor)]
          optional := [b.next.map fun c => [.ref c],
            if who.isTypist then
              (s.heldTakeWith b.job.idx (s.anchorPos b.job.idx b.anchor) who.person).map fun t =>
                [Item.ref (s.takeRef t.1), .num 3 (s.anchorPos b.job.idx b.anchor - s.takeStart t.2)]
            else none] } } := by
  unfold cueRead
  rw [body, cuePos_of_body body]
  rfl

/-- READ CUE by a party that may read the cue, in a job that is not RETIRING. -/
theorem exec_readCue_done {p : Port} {r : Ref} {s : State} {who : Party} {tag : Byte} {b : CueBody}
    (routed : s.routed p (.readCue r) = some (who, tag)) (current : s.cueCurrent r = true)
    (body : (s.cue r.idx).body = some b) (may : s.mayReadCue who r.idx = true) (stays : (s.job b.job.idx).state ≠ .retiring) :
    exec (.readCue p r) s = .next (s.reply p (.readCue r) tag .done (cueRead s who r).result) := by
  rw [exec_readCue]
  refine serve_passing routed rfl ?_ (by rw [cueRead_of_body body])
  rw [firstFailing_cueChecks current, cueJob_of_body body]
  simp [may, stays]

/-- A typist that holds the take a cue lies in may read the cue. -/
theorem mayReadCue_of_heldTakeWith {s : State} {who : Party} {i k : Nat} {b : CueBody} {t : TakeBody}
    (body : (s.cue i).body = some b) (typist : who.isTypist = true)
    (held : s.heldTakeWith b.job.idx (s.anchorPos b.job.idx b.anchor) who.person = some (k, t)) :
    s.mayReadCue who i = true := by
  simp [mayReadCue, typist, cueHeldBy, cueJob_of_body body, cuePos_of_body body, held]

/-! ### Cues of a bound -/

theorem exec_cueAt (p : Port) (x : Option (Ref × Nat)) (s : State) :
    exec (.cueAt p x) s = serve p (.cueAt x) s fun p s => cueAtAnswer s p x := rfl

theorem cueAtAnswer_of_bound {s : State} {who : Party} {x : Option (Ref × Nat)} {b : Bound} {q : Nat}
    (bound : boundOf s who x = .ok (b, q)) :
    cueAtAnswer s who x = cueAnswer s who b (((s.cuesIn b).filter fun c => decide (c.2.2 ≤ q)).getLast?) := by
  rw [cueAtAnswer, bound]

theorem exec_lastCue (p : Port) (r : Ref) (s : State) :
    exec (.lastCue p r) s = serve p (.lastCue r) s fun p s => lastCueAnswer s p r := rfl

/-- LAST CUE of a job, for a party that owns it. -/
theorem lastCueAnswer_of_job {s : State} {who : Party} {r : Ref} (other : who.isTypist = false)
    (current : s.jobCurrent r = true) (owns : who.owns (s.job r.idx) = true) (stays : (s.job r.idx).state ≠ .retiring) :
    lastCueAnswer s who r = cueAnswer s who (s.wholeJob r.idx) (s.cuesIn (s.wholeJob r.idx)).getLast? := by
  rw [lastCueAnswer, if_neg (by simp [other])]
  refine checked_of_passing ?_
  rw [firstFailing_jobChecks current]
  simp [owns, stays]

/-- LAST CUE of a take, for the typist that holds it. -/
theorem lastCueAnswer_of_take {s : State} {who : Party} {r : Ref} {t : TakeBody} (typist : who.isTypist = true)
    (current : s.takeCurrent r = true) (body : (s.take r.idx).body = some t) (held : heldBy t who.person = true)
    (stays : (s.job t.job.idx).state ≠ .retiring) :
    lastCueAnswer s who r = cueAnswer s who (s.takeBound t) (s.cuesIn (s.takeBound t)).getLast? := by
  rw [lastCueAnswer, if_pos typist, body]
  exact checked_of_passing (by simp [idx_lt_of_takeCurrent current, current, held, stays])

theorem exec_findCue (p : Port) (x : Option (Ref × Nat)) (dir : Nat) (y m : BitVec 20) (st : Option Ref) (s : State) :
    exec (.findCue p x dir y m st) s = serve p (.findCue x dir y m st) s fun p s => findCueAnswer s p x dir y m st := rfl

/-- FIND CUE with a direction of the two and a start cue, when named, that is current and lies in the bound. -/
theorem findCueAnswer_of_bound {s : State} {who : Party} {x : Option (Ref × Nat)} {dir : Nat} {y m : BitVec 20}
    {st : Option Ref} {b : Bound} {q : Nat} (bound : boundOf s who x = .ok (b, q)) (direction : dir ≤ 1)
    (start : ∀ r, st = some r → s.cueCurrent r = true ∧ ∃ c ∈ s.cuesIn b, c.1 = r.idx) :
    findCueAnswer s who x dir y m st = cueAnswer s who b (searchCue s b q dir y m st) := by
  have forward : ¬ 1 < dir := Nat.not_lt.2 direction
  unfold findCueAnswer
  cases st with
  | none => simp [forward, bound, checked_of_passing, startOutside]
  | some r =>
    obtain ⟨current, c, listed, index⟩ := start r rfl
    have inBound : startOutside s b (some r) = false := by
      simp only [startOutside, Bool.not_eq_false', List.any_eq_true, beq_iff_eq]
      exact ⟨c, listed, index⟩
    simp [forward, bound, checked_of_passing, inBound, current, idx_lt_of_cueCurrent current]

/-- Settles O30: each answer, from the bound and the cues in it. -/
theorem cueReadsAnswer : Obligations.CueReadsAnswer := by
  unfold Obligations.CueReadsAnswer
  refine ⟨fun p r s who tag b routed current body may stays other => ?_,
    fun p r s who tag b i t routed current body stays typist held => ?_, fun p x s who tag b q routed bound => ⟨?_, ?_⟩,
    fun p r s who tag routed other current owns stays => ?_,
    fun p r s who tag t routed typist current body state holder stays => ?_,
    fun p x dir y m st s who tag b q found routed bound direction start searched => ?_⟩
  · rw [exec_readCue_done routed current body may stays, cueRead_of_body body]
    simp [other]
  · rw [exec_readCue_done routed current body (mayReadCue_of_heldTakeWith body typist held) stays, cueRead_of_body body]
    simp [typist, held]
  · intro i c pos last
    rw [exec_cueAt]
    exact serve_unchecked routed (by rw [cueAtAnswer_of_bound bound, last]; rfl)
  · intro none_
    rw [exec_cueAt]
    exact serve_unchecked routed (by rw [cueAtAnswer_of_bound bound, none_]; rfl)
  · have answer := lastCueAnswer_of_job other current owns stays
    rw [exec_lastCue]
    refine ⟨fun i c pos last => serve_unchecked routed ?_, fun none_ => serve_unchecked routed ?_⟩
    · rw [answer, last]
      simp [cueAnswer, other]
    · rw [answer, none_]
      rfl
  · have answer := lastCueAnswer_of_take typist current body ((heldBy_iff t _).2 ⟨state, holder⟩) stays
    rw [exec_lastCue]
    refine ⟨fun i c pos last => serve_unchecked routed ?_, fun none_ => serve_unchecked routed ?_⟩
    · rw [answer, last]
      simp [cueAnswer, typist, takeBound]
    · rw [answer, none_]
      rfl
  · have answer := findCueAnswer_of_bound (y := y) (m := m) bound direction start
    have search : searchCue s b q dir y m st = found := by
      rw [searched]
      obtain rfl | rfl : dir = 0 ∨ dir = 1 := by omega
      · cases st <;> rfl
      · cases st <;> rfl
    rw [exec_findCue]
    cases found with
    | none => exact serve_unchecked routed (by rw [answer, search]; rfl)
    | some c => exact serve_unchecked routed (by rw [answer, search]; rfl)

end Sys2Proof.Machine
end

section
/-! ## Notices

The console notice queue (R197, R198), the two notice slots of a channel with their acknowledgement (R119, R120, R192,
R199), and the links that go UP and offer their notice (R181). -/

set_option Elab.async false

namespace Sys2Proof.Machine
open State

/-! ### The console notice queue -/

theorem raise_of_room {s : State} (room : s.notices.length < 32) (n : ConsoleNotice) :
    s.raise n = { s with notices := s.notices ++ [n] } := if_pos room

theorem raise_of_full {s : State} (full : 32 ≤ s.notices.length) (n : ConsoleNotice) :
    s.raise n = { s with overflowed := true } := if_neg (Nat.not_lt.2 full)

theorem attention_iff (s : State) : s.attention = true ↔ s.notices ≠ [] := by
  unfold attention
  cases s.notices <;> simp

theorem attention_eq_false_iff (s : State) : s.attention = false ↔ s.notices = [] := by
  unfold attention
  cases s.notices <;> simp

theorem exec_linkUp (l : Fin 16) (s : State) :
    exec (.linkUp l) s = .next (if (s.link l).up then s else s.goUp l) := rfl

/-- A link DOWN that goes UP. -/
theorem exec_linkUp_of_down {l : Fin 16} {s : State} (down : (s.link l).up = false) :
    exec (.linkUp l) s = .next ((s.setLink l { s.link l with up := true, sequence := 0 }).raise
      (.linkUp l (s.link l).role (s.link l).person)) := by
  rw [exec_linkUp, down]
  rfl

theorem noticeRead_of_cons {s : State} {n : ConsoleNotice} {rest : List ConsoleNotice} (h : s.notices = n :: rest) :
    noticeRead s =
      { code := .done, state := { s with notices := rest, overflowed := false }, result :=
        { fixed := n.fixed, optional := n.optional
          rest := [.num 1 rest.length, .num 1 (if s.overflowed then 1 else 0)] } } := by
  rw [noticeRead, h]
  rfl

theorem noticeRead_of_nil {s : State} (h : s.notices = []) :
    noticeRead s =
      { code := .none, state := { s with overflowed := false }, result :=
        { fixed := [.num 1 (if s.overflowed then 1 else 0)] } } := by
  rw [noticeRead, h]
  rfl

theorem exec_readNotice (s : State) :
    exec .readNotice s = serve .console .readNotice s fun _ s => noticeRead s := rfl

/-- Settles O51: what a notice offered and a notice read make of the queue. -/
theorem readNoticeTakesOldest : Obligations.ReadNoticeTakesOldest := by
  unfold Obligations.ReadNoticeTakesOldest
  refine ⟨fun s n => ⟨fun room => raise_of_room room n, fun full => raise_of_full full n, attention_iff s⟩,
    fun l s down full => ?_, fun s who tag routed => ⟨fun n rest queue => ⟨?_, ?_⟩, fun empty => ?_⟩⟩
  · have offered := raise_of_full (s := s.setLink l { s.link l with up := true, sequence := 0 }) full
      (.linkUp l (s.link l).role (s.link l).person)
    refine ⟨_, exec_linkUp_of_down down, ?_, ?_, by simp⟩
    · rw [offered]
    · rw [offered]
      rfl
  · rw [exec_readNotice]
    exact serve_unchecked routed (noticeRead_of_cons queue)
  · exact attention_eq_false_iff _
  · rw [exec_readNotice]
    exact serve_unchecked routed (noticeRead_of_nil empty)

/-! ### The slots of a channel -/

theorem sendNotice_of_link {s : State} {n : Notice} (bound : (s.chan n.chan).binding = .link) :
    s.sendNotice n = s.handOver n.chan (.notice n) := by
  rw [sendNotice, bound]

theorem sendNotice_of_bulk {s : State} {n : Notice} (bound : (s.chan n.chan).binding = .bulk) :
    s.sendNotice n = s.raise (.channel n.chan n) := by
  rw [sendNotice, bound]

/-- A notice takes an empty current slot and is sent. -/
theorem placeNotice_of_empty {s : State} {n : Notice} (empty : (s.chan n.chan).slot = none) (suspends : Bool) :
    s.placeNotice n suspends = (s.setChan n.chan { s.chan n.chan with slot := some n }).sendNotice n := by
  rw [placeNotice, empty]

/-- A notice behind a current one takes the second slot. -/
theorem placeNotice_of_current {s : State} {n : Notice} (current : (s.chan n.chan).slot ≠ none)
    (empty : (s.chan n.chan).second = none) (suspends : Bool) :
    s.placeNotice n suspends = (if suspends then (s.setChan n.chan { s.chan n.chan with second := some n }).suspend n.chan
      else s.setChan n.chan { s.chan n.chan with second := some n }) := by
  unfold placeNotice
  dsimp only
  split
  · rename_i slot
    exact absurd slot current
  · rfl
  · rename_i second
    cases empty.symm.trans second

/-- A notice behind a waiting one supersedes it. -/
theorem placeNotice_of_second {s : State} {n : Notice} (current : (s.chan n.chan).slot ≠ none)
    (waiting : (s.chan n.chan).second ≠ none) (suspends : Bool) :
    s.placeNotice n suspends = s.setChan n.chan { s.chan n.chan with second := some { n with superseded := true } } := by
  unfold placeNotice
  dsimp only
  split
  · rename_i slot
    exact absurd slot current
  · rename_i second
    exact absurd second waiting
  · rfl

theorem Stream.suspend_eq (x : Stream) : x.suspend = (match x with
    | .play p => .play { p with read := none, shuttle := .none }
    | .readback r => .readback { r with read := none }
    | .exporting e => .exporting { e with outstanding := 0 }
    | .capture c => .capture c
    | .idle => .idle) := by
  cases x <;> rfl

/-- A channel whose context is written as it is SUSPENDED. -/
theorem channelHaltedTo_suspend (s : State) (ch : Nat) (x : Channel) :
    ChannelHaltedTo s ((s.setChan ch x).suspend ch) ch { x with suspended := true, stream := x.stream.suspend } := by
  have suspended : (s.setChan ch x).suspend ch =
      ((s.withdraw ch).setChan ch x).setChan ch { x with suspended := true, stream := x.stream.suspend } := by
    unfold suspend
    exact updChan_setChan (s.withdraw ch) x _
  rw [suspended]
  exact (channelHaltedTo_withdraw s ch x).setChan _

theorem acknowledge_of_empty {s : State} {ch : Nat} (empty : (s.chan ch).slot = none) : s.acknowledge ch = s := by
  rw [acknowledge, empty]

/-- An acknowledgement empties the current slot with none waiting. -/
theorem acknowledge_of_last {s : State} {ch : Nat} {n : Notice} (current : (s.chan ch).slot = some n)
    (last : (s.chan ch).second = none) : s.acknowledge ch = s.setChan ch { s.chan ch with slot := none } := by
  unfold acknowledge
  dsimp only
  split
  · rename_i slot
    cases current.symm.trans slot
  · rfl
  · rename_i second
    cases last.symm.trans second

/-- A second notice moves up and is sent, and the channel is SUSPENDED no more. -/
theorem acknowledge_of_second {s : State} {ch : Nat} {n m : Notice} (current : (s.chan ch).slot = some n)
    (second : (s.chan ch).second = some m) :
    s.acknowledge ch =
      (s.setChan ch { s.chan ch with slot := some m, second := none, suspended := false }).sendNotice m := by
  unfold acknowledge
  dsimp only
  split
  · rename_i slot
    cases current.symm.trans slot
  · rename_i none_
    cases second.symm.trans none_
  · rename_i waiting
    cases second.symm.trans waiting
    rfl

/-- A channel written and a message handed to its link. -/
theorem handOver_setChan_frame (s : State) (ch l : Nat) (x : Channel) (m : LinkMsg) :
    ∃ chans links, (s.setChan ch x).handOver l m = { s with chans := chans, links := links } := by
  rw [handOver_frame]
  exact ⟨_, _, rfl⟩

theorem exec_acknowledgeNotice (ch : Nat) (s : State) :
    exec (.acknowledgeNotice ch) s = serve .console (.acknowledgeNotice ch) s fun _ s =>
      checked s [(notBulk ch, .range), (decide ((s.chan ch).binding = .link), .state), ((s.chan ch).slot.isNone, .already)]
        (done (s.acknowledge ch)) := rfl

theorem exec_noticeAck (l : Fin 16) (s : State) : exec (.noticeAck l) s = .next (s.noticeAck l) := rfl

theorem notBulk_of_bulk {ch : Nat} (h : ch = 14 ∨ ch = 15) : notBulk ch = false := by
  rcases h with rfl | rfl <;> rfl

/-- ACKNOWLEDGE NOTICE on a bulk-bound channel with a current notice. -/
theorem exec_acknowledgeNotice_done {ch : Nat} {s : State} {who : Party} {tag : Byte} {n : Notice}
    (routed : s.routed .console (.acknowledgeNotice ch) = some (who, tag)) (bulk : ch = 14 ∨ ch = 15)
    (bound : (s.chan ch).binding = .bulk) (current : (s.chan ch).slot = some n) :
    exec (.acknowledgeNotice ch) s = .next ((s.acknowledge ch).reply .console (.acknowledgeNotice ch) tag .done {}) := by
  rw [exec_acknowledgeNotice]
  exact serve_passing routed rfl (by simp [notBulk_of_bulk bulk, bound, current]) rfl

/-- NOTICE-ACK on a link that is UP and bound to its channel. -/
theorem exec_noticeAck_of_up {l : Fin 16} {s : State} (up : (s.link l).up = true) (bound : (s.chan l).binding = .link) :
    exec (.noticeAck l) s = .next (s.acknowledge l) := by
  rw [exec_noticeAck, State.noticeAck, if_pos (by simp [up, bound])]

/-- Settles O52: a notice placed by the slots it finds, and an acknowledgement by the slots it empties. -/
theorem acknowledgementsMoveNotices : Obligations.AcknowledgementsMoveNotices := by
  unfold Obligations.AcknowledgementsMoveNotices
  refine ⟨fun s n suspends => ⟨fun empty bound => ?_, fun empty bound => ?_, fun current empty => ⟨?_, ?_⟩,
      fun current waiting => ?_⟩, fun c => ?_, fun ch s who tag n routed bulk bound current => ⟨fun last => ?_, ?_⟩,
    fun l s up bound => ⟨fun empty => ?_, fun n current last => ?_, fun n m current second own => ?_⟩⟩
  · rw [placeNotice_of_empty empty, sendNotice_of_link (by simpa using bound)]
    refine ⟨by simp, ?_, fun k other => ⟨?_, ?_⟩, handOver_setChan_frame ..⟩
    · rw [link_handOver]
      simp [bound]
    · rw [handOver_chan, chan_setChan_ne _ _ _ _ other]
    · rw [link_handOver_ne _ _ other, link_setChan]
  · refine ⟨_, ?_, channelSetTo_setChan s n.chan _⟩
    rw [placeNotice_of_empty empty, sendNotice_of_bulk (by simpa using bound)]
  · rintro rfl
    rw [placeNotice_of_current current empty]
    exact channelSetTo_setChan s n.chan _
  · rintro rfl
    rw [placeNotice_of_current current empty]
    have halted := channelHaltedTo_suspend s n.chan { s.chan n.chan with second := some n }
    rw [Stream.suspend_eq] at halted
    exact halted
  · rw [placeNotice_of_second current waiting]
    exact channelSetTo_setChan s n.chan _
  · rw [Channel.secondNotice, Option.isSome_iff_ne_none]
  · refine ⟨_, exec_acknowledgeNotice_done routed bulk bound current, ?_⟩
    rw [acknowledge_of_last current last]
    exact channelSetTo_setChan s ch _
  · intro m second own
    subst own
    refine ⟨_, ?_, channelSetTo_setChan s m.chan _⟩
    rw [exec_acknowledgeNotice_done routed bulk bound current, acknowledge_of_second current second,
      sendNotice_of_bulk (by simpa using bound)]
  · rw [exec_noticeAck_of_up up bound, acknowledge_of_empty empty]
  · refine ⟨_, exec_noticeAck_of_up up bound, ?_⟩
    rw [acknowledge_of_last current last]
    exact channelSetTo_setChan s l _
  · refine ⟨_, exec_noticeAck_of_up up bound, ?_⟩
    obtain ⟨chan, cause, action, job, take, pos, cue, superseded⟩ := m
    subst own
    rw [acknowledge_of_second current second, sendNotice_of_link (by simpa using bound)]
    refine ⟨by simp, ?_, fun k other => ⟨?_, ?_⟩, ?_⟩
    · rw [link_handOver]
      simp [bound, up]
    · rw [handOver_chan, chan_setChan_ne _ _ _ _ other]
    · rw [link_handOver_ne _ _ other, link_setChan]
    · obtain ⟨chans, links, frame⟩ := handOver_setChan_frame s l l
        { s.chan l with slot := some _, second := none, suspended := false } (.notice _)
      rw [frame]

end Sys2Proof.Machine
end

section
/-! ## Releases and settings

RELEASE (R168, R169), and the requests that set a channel or a link: BIND CHANNEL, SET FRAME TIMEOUT, CONFIGURE STATION and
PEDAL MASK (R116, R127, R148, R183). -/

set_option Elab.async false

namespace Sys2Proof.Machine
open State

/-! ### RELEASE -/

/-- RELEASE checks the reference, the party, the state, the hold, the export and the party recorded. -/
theorem exec_release (p : Port) (r : Ref) (s : State) :
    exec (.release p r) s = serve p (.release r) s fun p s =>
      checked s
        (jobChecks s r ++
          [(!p.owns (s.job r.idx), .notPermitted),
            (decide ((s.job r.idx).state ≠ .complete) && decide ((s.job r.idx).state ≠ .releasing), .state),
            ((s.job r.idx).held, .held), ((s.job r.idx).exportBusy, .busy),
            (decide ((s.job r.idx).state = .releasing) && decide ((s.job r.idx).release = some p.release), .already)])
        (releasedJob s p r) := rfl

theorem Party.release_eq (who : Party) : who.release = if who = .console then .console else .reporter := by
  cases who <;> rfl

theorem releasedJob_of_complete {s : State} {who : Party} {r : Ref} (complete : (s.job r.idx).state = .complete) :
    releasedJob s who r =
      done (s.setJob r.idx { s.job r.idx with state := .releasing, release := some who.release }) := if_pos complete

theorem releasedJob_of_releasing {s : State} {who : Party} {r : Ref} (complete : (s.job r.idx).state ≠ .complete) :
    releasedJob s who r =
      done { s.setJob r.idx { s.job r.idx with
          state := .retiring, release := none, sweep := some { phase := .segments, freed := 0 } }
        with retiring := s.retiring ++ [r.idx] } := if_neg complete

/-- Settles O23: the first release records its party, the second compares it. -/
theorem twoReleasesRetire : Obligations.TwoReleasesRetire := by
  unfold Obligations.TwoReleasesRetire
  refine ⟨fun p r s who tag routed current owns complete free idle => ?_,
    fun p r s who tag routed current owns releasing free idle => ?_⟩
  · rw [exec_release, ← Party.release_eq]
    refine serve_passing routed rfl ?_ (releasedJob_of_complete complete)
    rw [firstFailing_jobChecks current]
    simp [owns, complete, free, idle]
  · rw [exec_release, ← Party.release_eq]
    by_cases same : (s.job r.idx).release = some who.release
    · rw [if_pos same]
      refine serve_failing routed rfl ?_
      rw [firstFailing_jobChecks current]
      simp [owns, releasing, free, idle, same]
    · rw [if_neg same]
      refine serve_passing routed rfl ?_ (releasedJob_of_releasing (by rw [releasing]; decide))
      rw [firstFailing_jobChecks current]
      simp [owns, releasing, free, idle, same]

/-! ### Channels -/

theorem bindingOf_eq (n : Nat) : bindingOf n = if n = 0 then .link else .bulk := rfl

/-- BIND CHANNEL checks the numbers, the channel, the link's role and the present binding. -/
theorem exec_bindChannel (ch n : Nat) (s : State) :
    exec (.bindChannel ch n) s = serve .console (.bindChannel ch n) s fun _ s =>
      checked s
        [(notBulk ch || decide (1 < n), .range), (!(s.chan ch).isIdle, .busy),
          (decide (bindingOf n = .bulk) && decide ((s.link ch).role ≠ .vacant), .state),
          (decide ((s.chan ch).binding = bindingOf n), .already)]
        (boundChannel s ch (bindingOf n)) := rfl

/-- SET FRAME TIMEOUT checks the numbers and the present timeout. -/
theorem exec_setFrameTimeout (ch n : Nat) (s : State) :
    exec (.setFrameTimeout ch n) s = serve .console (.setFrameTimeout ch n) s fun _ s =>
      checked s
        [(decide (15 < ch) || decide (n < 10) || decide (250 < n), .range), (decide ((s.chan ch).timeout = n), .already)]
        (timeoutSet s ch n) := rfl

theorem boundChannel_setTo (s : State) (ch : Nat) (b : Binding) :
    ChannelSetTo s (boundChannel s ch b).state ch { s.chan ch with binding := b, slot := none, second := none } := by
  have bound : (boundChannel s ch b).state = (s.setChan ch { s.chan ch with binding := b }).setChan ch
      { s.chan ch with binding := b, slot := none, second := none } := by
    simp only [boundChannel, done, emptySlots, updChan_eq, chan_setChan]
  rw [bound]
  exact (channelSetTo_setChan s ch _).setChan _

/-! ### Links -/

theorem roleOf_eq {role : Nat} (h : role ≤ 2) :
    roleOf role = if role = 0 then .vacant else if role = 1 then .reporter else .typist := by
  interval_cases role <;> rfl

theorem personFor_eq {role : Nat} (h : role ≤ 2) (person : Nat) :
    personFor role person = if role = 0 then 0 else person := by
  interval_cases role <;> rfl

/-- The record a link takes from CONFIGURE STATION, its pedal mask apart. -/
def configured (k : Link) (role person clearance : Nat) (elig : Byte) : Link :=
  { k with
    role := roleOf role, person := personFor role person, clearance := clearanceFor role clearance, elig := eligFor role elig }

/-- The role or the person number changes. -/
def reassigned (k : Link) (role person : Nat) : Bool :=
  decide (k.role ≠ roleOf role) || decide (k.person ≠ personFor role person)

/-- CONFIGURE STATION checks the numbers, the channel's binding, that the channel is IDLE, and the present record. -/
theorem exec_configureStation (l role person clearance : Nat) (elig : Byte) (s : State) :
    exec (.configureStation l role person clearance elig) s =
      serve .console (.configureStation l role person clearance elig) s fun _ s =>
        checked s
          [(stationOut l role person clearance elig || s.boundElsewhere l role person, .range),
            (decide ((s.chan l).binding = .bulk) && decide (roleOf role ≠ .vacant), .state),
            (!(s.chan l).isIdle, .busy),
            (decide ((s.link l).role = roleOf role) && decide ((s.link l).person = personFor role person) &&
              decide ((s.link l).clearance = clearanceFor role clearance) &&
              decide ((s.link l).elig = eligFor role elig), .already)]
          (configuredStation s l role person clearance elig) := rfl

/-- The station stays who it was: the link is set. -/
theorem configuredStation_of_same {s : State} {l role person clearance : Nat} {elig : Byte}
    (same : reassigned (s.link l) role person = false) :
    (configuredStation s l role person clearance elig).state =
      s.setLink l (configured (s.link l) role person clearance elig) := by
  have kept : (decide ((s.link l).role ≠ roleOf role) || decide ((s.link l).person ≠ personFor role person)) = false := same
  simp only [configuredStation, kept, Bool.false_eq_true, if_false, done, updLink_eq]
  rfl

/-- The station is another's: the pedal mask and the channel's notice slots are cleared. -/
theorem configuredStation_of_changed {s : State} {l role person clearance : Nat} {elig : Byte}
    (changed : reassigned (s.link l) role person = true) :
    (configuredStation s l role person clearance elig).state =
      (s.setLink l { configured (s.link l) role person clearance elig with pedalMask := false }).setChan l
        { s.chan l with slot := none, second := none } := by
  have other : (decide ((s.link l).role ≠ roleOf role) || decide ((s.link l).person ≠ personFor role person)) = true :=
    changed
  simp only [configuredStation, other, if_true, done, updLink_eq]
  rfl

theorem configuredStation_done (s : State) (l role person clearance : Nat) (elig : Byte) :
    configuredStation s l role person clearance elig =
      { code := .done, state := (configuredStation s l role person clearance elig).state } := rfl

theorem stationOut_eq_false {l role person clearance : Nat} {elig : Byte} (small : l ≤ 15) (inRole : role ≤ 2)
    (number : role ≠ 0 → 1 ≤ person ∧ person ≤ 63) (typist : role = 2 → clearance ≤ 3 ∧ elig.toNat ≤ 7) :
    stationOut l role person clearance elig = false := by
  simp only [stationOut, personOut, Bool.or_eq_false_iff, Bool.and_eq_false_iff, decide_eq_false_iff_not]
  omega

theorem boundElsewhere_eq_false {s : State} {l role person : Nat} (inRole : role ≤ 2)
    (alone : ∀ x, x < 16 → x ≠ l → role = 0 ∨ (s.link x).role ≠ (if role = 1 then .reporter else .typist) ∨
      (s.link x).person ≠ person) : s.boundElsewhere l role person = false := by
  by_cases vacant : role = 0
  · simp [boundElsewhere, vacant]
  · have named : roleOf role = if role = 1 then .reporter else .typist := by rw [roleOf_eq inRole, if_neg vacant]
    simp only [boundElsewhere, named, Bool.and_eq_false_iff, List.any_eq_false, List.mem_range, Bool.and_eq_true,
      decide_eq_true_eq]
    refine .inr fun x below ⟨⟨other, sameRole⟩, samePerson⟩ => ?_
    rcases alone x below other with zero | role' | person'
    · exact vacant zero
    · exact role' sameRole
    · exact person' samePerson

/-- PEDAL MASK checks the value and the present mask. -/
theorem exec_pedalMask (l : Fin 16) (v : Nat) (s : State) :
    exec (.pedalMask l v) s = serve (.station l) (.pedalMask v) s fun _ s =>
      checked s [(decide (1 < v), .range), (decide ((s.link l).pedalMask = decide (v = 0)), .already)]
        (maskSet s l (decide (v = 0))) := rfl

theorem maskSet_clear (s : State) (l : Nat) :
    maskSet s l false = done (s.setLink l { s.link l with pedalMask := false }) := rfl

/-- Setting the mask ends a shuttle held. -/
theorem maskSet_of_play {s : State} {l : Nat} {p : Play} (play : (s.chan l).stream = .play p) :
    maskSet s l true = done ((s.setLink l { s.link l with pedalMask := true }).setChan l
      { s.chan l with stream := .play { p with shuttle := .none } }) := by
  have masked : ((s.setLink l { s.link l with pedalMask := true }).chan l).stream = .play p := by simpa using play
  simp only [maskSet, if_true, updLink_eq]
  rw [updPlay_eq masked]
  rfl

theorem maskSet_of_no_play {s : State} {l : Nat} (none_ : s.playOf l = none) :
    maskSet s l true = done (s.setLink l { s.link l with pedalMask := true }) := by
  have masked : (s.setLink l { s.link l with pedalMask := true }).playOf l = none := none_
  simp only [maskSet, if_true, updLink_eq]
  rw [updPlay, masked]

theorem exists_play_of_playOf {s : State} {ch : Nat} (h : s.playOf ch ≠ none) : ∃ p, (s.chan ch).stream = .play p := by
  unfold playOf at h
  split at h
  · rename_i p stream
    exact ⟨p, stream⟩
  all_goals exact absurd rfl h

/-- Settles O47: each request's checks pass, and its one record is set. -/
theorem channelAndLinkSettings : Obligations.ChannelAndLinkSettings := by
  unfold Obligations.ChannelAndLinkSettings
  refine ⟨fun ch n s who tag routed bulk code idle vacant other => ?_, fun ch n s who tag routed small low high other => ?_,
    fun l role person clearance elig s who tag k routed small inRole number typist alone bound idle record other => ?_,
    fun l n s who tag routed small masked => ?_⟩
  · rw [exec_bindChannel, ← bindingOf_eq]
    refine ⟨_, serve_passing routed rfl ?_ rfl, boundChannel_setTo s ch _⟩
    rw [← bindingOf_eq] at other
    have allowed : bindingOf n = .bulk → (s.link ch).role = .vacant := fun bulk' =>
      vacant.resolve_left fun zero => by rw [zero] at bulk'; cases bulk'
    simp [notBulk_of_bulk bulk, idle, other, Nat.not_lt.2 code]
    exact allowed
  · rw [exec_setFrameTimeout]
    refine ⟨_, serve_passing routed rfl ?_ rfl, channelSetTo_setChan s ch _⟩
    simp [Nat.not_lt.2 small, Nat.not_lt.2 low, Nat.not_lt.2 high, other]
  · have taken : k = configured (s.link l) role person clearance elig := by
      rw [record, configured, roleOf_eq inRole, personFor_eq inRole]
      rfl
    have changes : ¬ ((((s.link l).role = roleOf role ∧ (s.link l).person = personFor role person) ∧
        (s.link l).clearance = clearanceFor role clearance) ∧ (s.link l).elig = eligFor role elig) := by
      rintro ⟨⟨⟨sameRole, samePerson⟩, sameClearance⟩, sameElig⟩
      refine other ?_
      rw [taken, configured, ← sameRole, ← samePerson, ← sameClearance, ← sameElig]
    have open_ : (s.chan l).binding = .bulk → roleOf role = .vacant := by
      rintro bulk
      rcases bound with rfl | link
      · rfl
      · cases bulk.symm.trans link
    rw [exec_configureStation]
    refine ⟨_, serve_passing routed rfl ?_ (configuredStation_done ..), fun sameRole samePerson => ?_, fun different => ?_⟩
    · simp only [stationOut_eq_false small inRole number typist, boundElsewhere_eq_false inRole alone, idle]
      simp [changes]
      exact open_
    · have same : reassigned (s.link l) role person = false := by
        rw [taken] at sameRole samePerson
        simp [reassigned, ← sameRole, ← samePerson, configured]
      rw [configuredStation_of_same same, ← taken]
      exact linkSetTo_setLink s l k
    · have changed : reassigned (s.link l) role person = true := by
        rw [taken] at different
        simp only [reassigned, Bool.or_eq_true, decide_eq_true_eq]
        exact different.imp Ne.symm Ne.symm
      rw [configuredStation_of_changed changed, ← taken]
      refine ⟨by simp, by simp, fun x apart => ⟨?_, ?_⟩, rfl⟩
      · rw [link_setChan, link_setLink_ne _ _ _ _ apart]
      · rw [chan_setChan_ne _ _ _ _ apart, chan_setLink]
  · rw [exec_pedalMask]
    have code : n = 0 ∨ n = 1 := by omega
    have passes : firstFailing [(decide (1 < n), ReplyCode.range),
        (decide ((s.link l).pedalMask = decide (n = 0)), .already)] = none := by
      rw [masked]
      rcases code with rfl | rfl <;> rfl
    rcases code with rfl | rfl
    · by_cases none_ : s.playOf l = none
      · refine ⟨_, serve_passing routed rfl passes (maskSet_of_no_play none_), by simp, fun k other => ?_, fun p _ play => ?_,
          fun _ => rfl, fun _ _ => rfl, rfl⟩
        · exact link_setLink_ne _ _ _ _ other
        · rw [playOf_eq play] at none_
          cases none_
      · obtain ⟨p, play⟩ := exists_play_of_playOf none_
        refine ⟨_, serve_passing routed rfl passes (maskSet_of_play play), by simp, fun k other => ?_, fun q _ play' => ?_,
          fun no => ?_, fun k other => ?_, rfl⟩
        · rw [link_setChan, link_setLink_ne _ _ _ _ other]
        · cases play.symm.trans play'
          simp
        · exact absurd (no.resolve_left (by decide)) none_
        · rw [chan_setChan_ne _ _ _ _ other, chan_setLink]
    · refine ⟨_, serve_passing routed rfl passes (maskSet_clear s l), by simp, fun k other => ?_, fun p no => ?_,
        fun _ => rfl, fun _ _ => rfl, rfl⟩
      · exact link_setLink_ne _ _ _ _ other
      · cases no

end Sys2Proof.Machine
end

section
/-! ## Changes of one channel

The frames of a change to one channel composed operation by operation, and with them the requests and pedals that run,
pause and position a stream (R122, R131, R134 to R137, R143 to R145, R147, R160). -/

set_option Elab.async false

namespace Sys2Proof.Machine
open State

/-! ### Composing the frames -/

section Frames

variable {s u : State} {ch : Nat} {x : Channel}

theorem ChannelSetTo.refl (s : State) (ch : Nat) : ChannelSetTo s s ch (s.chan ch) := ⟨rfl, fun _ _ => rfl, rfl⟩

theorem channelHaltedTo_withdraw_self (s : State) (ch : Nat) : ChannelHaltedTo s (s.withdraw ch) ch (s.chan ch) := by
  refine ⟨rfl, fun _ _ => rfl, fun c => ?_, rfl, rfl⟩
  change c ∈ s.waiting.filter (fun c => c.use.chan? != some ch) ↔ _
  simp [List.mem_filter]

theorem ChannelSetTo.updChan (h : ChannelSetTo s u ch x) (f : Channel → Channel) :
    ChannelSetTo s (u.updChan ch f) ch (f x) := by
  rw [updChan_eq, h.1]
  exact h.setChan _

theorem ChannelHaltedTo.updChan (h : ChannelHaltedTo s u ch x) (f : Channel → Channel) :
    ChannelHaltedTo s (u.updChan ch f) ch (f x) := by
  rw [updChan_eq, h.1]
  exact h.setChan _

theorem ChannelSetTo.updPlay (h : ChannelSetTo s u ch x) {p : Play} (play : x.stream = .play p) (f : Play → Play) :
    ChannelSetTo s (u.updPlay ch f) ch { x with stream := .play (f p) } := by
  rw [updPlay_eq (by rw [h.1]; exact play), h.1]
  exact h.setChan _

theorem ChannelHaltedTo.updPlay (h : ChannelHaltedTo s u ch x) {p : Play} (play : x.stream = .play p) (f : Play → Play) :
    ChannelHaltedTo s (u.updPlay ch f) ch { x with stream := .play (f p) } := by
  rw [updPlay_eq (by rw [h.1]; exact play), h.1]
  exact h.setChan _

theorem ChannelSetTo.updCapture (h : ChannelSetTo s u ch x) {c : Capture} (capture : x.stream = .capture c)
    (f : Capture → Capture) : ChannelSetTo s (u.updCapture ch f) ch { x with stream := .capture (f c) } := by
  rw [updCapture_eq (by rw [h.1]; exact capture), h.1]
  exact h.setChan _

/-- The claims of a channel that has been written withdrawn. -/
theorem ChannelSetTo.withdraw (h : ChannelSetTo s u ch x) : ChannelHaltedTo s (u.withdraw ch) ch x := by
  obtain ⟨own, others, frame⟩ := h
  have waiting : u.waiting = s.waiting := by rw [frame]
  have port : u.port = s.port := by rw [frame]
  refine ⟨own, others, fun c => ?_, ?_, ?_⟩
  · change c ∈ u.waiting.filter (fun c => c.use.chan? != some ch) ↔ _
    simp [List.mem_filter, waiting]
  · change u.port.map _ = _
    rw [port]
  · unfold State.withdraw
    rw [frame]

/-- A channel that has been written is positioned (R137). -/
theorem ChannelSetTo.setPosition (h : ChannelSetTo s u ch x) {p : Play} (play : x.stream = .play p) (pos : Nat) :
    ChannelHaltedTo s (u.setPosition ch pos) ch { x with
      noContinuation := false
      stream := .play { p with pos := pos, read := none, matched := none, lastSeg := none } } :=
  (h.withdraw.updPlay play _).updChan _

/-- FOLLOW-WAIT ends and so does a shuttle, as a positioned channel goes on (R143, R147). -/
theorem ChannelHaltedTo.afterJump (h : ChannelHaltedTo s u ch x) {p : Play} (play : x.stream = .play p) :
    ChannelHaltedTo s (u.afterJump ch) ch { x with
      stream := .play { p with run := if p.run = .followWait then .running else p.run, shuttle := .none } } :=
  h.updPlay play _

/-- The reply of a positioning request carries the position the channel is left at. -/
theorem ChannelHaltedTo.positionReply (h : ChannelHaltedTo s u ch x) {p : Play} (play : x.stream = .play p) :
    positionReply u ch = done u [.num 4 p.pos] := by
  rw [Sys2Proof.Machine.positionReply, playOf_eq (by rw [h.1]; exact play)]

end Frames

/-! ### RECORD, PAUSE and the RECORD control (R122, R131, R135) -/

section Streams

variable {s : State} {ch : Nat}

theorem clearNoContinuation_setTo (s : State) (ch : Nat) :
    ChannelSetTo s (s.clearNoContinuation ch) ch { s.chan ch with noContinuation := false } :=
  (ChannelSetTo.refl s ch).updChan _

theorem runCapture_setTo {c : Capture} (capture : (s.chan ch).stream = .capture c) :
    ChannelSetTo s (s.runCapture ch) ch { s.chan ch with stream := .capture { c with running := true, counter := 0 } } :=
  (ChannelSetTo.refl s ch).updCapture capture _

theorem pauseCapture_setTo {c : Capture} (capture : (s.chan ch).stream = .capture c) :
    ChannelSetTo s (s.pauseCapture ch) ch
      { s.chan ch with stream := .capture { c with running := false, counter := 0 } } :=
  (ChannelSetTo.refl s ch).updCapture capture _

theorem pausePlay_haltedTo {p : Play} (play : (s.chan ch).stream = .play p) :
    ChannelHaltedTo s (s.pausePlay ch) ch { s.chan ch with stream := .play { p with run := .paused, read := none } } :=
  (channelHaltedTo_withdraw_self s ch).updPlay play _

theorem restoreCapture_haltedTo (s : State) (ch : Nat) (r : Readback) (running : Bool) :
    ChannelHaltedTo s (s.restoreCapture ch r running) ch { s.chan ch with
      stream := .capture { job := r.job, ctx := r.parked, running := running }, suspended := false } :=
  (channelHaltedTo_withdraw_self s ch).updChan _

theorem recordAnswer_of_capture {c : Capture} (capture : (s.chan ch).stream = .capture c) (paused : c.running = false)
    (alone : (s.chan ch).second = none) : recordAnswer s ch = done ((s.clearNoContinuation ch).runCapture ch) := by
  rw [recordAnswer, capture]
  exact checked_of_passing (by simp [paused, Channel.secondNotice, alone])

theorem recordAnswer_of_readback {r : Readback} (readback : (s.chan ch).stream = .readback r)
    (alone : (s.chan ch).second = none) :
    recordAnswer s ch = done ((s.restoreCapture ch r true).clearNoContinuation ch) := by
  rw [recordAnswer, readback]
  exact checked_of_passing (by simp [Channel.secondNotice, alone])

theorem pauseAnswer_of_capture {c : Capture} (capture : (s.chan ch).stream = .capture c) (running : c.running = true) :
    pauseAnswer s ch = done (s.pauseCapture ch) := by
  rw [pauseAnswer, capture]
  exact checked_of_passing (by simp [running])

theorem pauseAnswer_of_play {p : Play} (play : (s.chan ch).stream = .play p) (goes : p.run ≠ .paused) :
    pauseAnswer s ch = done (s.pausePlay ch) := by
  rw [pauseAnswer, play]
  exact checked_of_passing (by simp [goes])

end Streams

theorem exec_record (l : Fin 16) (s : State) :
    exec (.record l) s = serve (.station l) .record s fun _ s => recordAnswer s l := rfl

theorem exec_pause (l : Fin 16) (s : State) :
    exec (.pause l) s = serve (.station l) .pause s fun _ s => pauseAnswer s l := rfl

/-- A pedal message reaches its channel from a link that is UP and bound, of the role, its mask clear (R189, R193). -/
theorem pedalReaches_of {s : State} {l : Nat} {role : Role} (up : (s.link l).up = true)
    (bound : (s.chan l).binding = .link) (own : (s.link l).role = role) (clear : (s.link l).pedalMask = false) :
    s.pedalReaches l role = true := by
  simp [pedalReaches, up, bound, own, clear]

theorem exec_recordPress_of_reaches {l : Fin 16} {s : State} (reaches : s.pedalReaches l .reporter = true) :
    exec (.recordPress l) s = .next (s.recordPressed l) := congrArg Host.Outcome.next (if_pos reaches)

theorem exec_recordRelease_of_reaches {l : Fin 16} {s : State} (reaches : s.pedalReaches l .reporter = true) :
    exec (.recordRelease l) s = .next (s.recordReleased l) := congrArg Host.Outcome.next (if_pos reaches)

theorem recordReleased_of_running {s : State} {ch : Nat} {c : Capture} (capture : (s.chan ch).stream = .capture c)
    (running : c.running = true) : s.recordReleased ch = s.pauseCapture ch := by
  rw [recordReleased, isRecording, captureOf_eq capture]
  exact if_pos running

theorem recordPressed_of_paused {s : State} {ch : Nat} {c : Capture} (capture : (s.chan ch).stream = .capture c)
    (paused : c.running = false) (goesOn : (s.chan ch).noContinuation = false) (alone : (s.chan ch).second = none)
    (awake : (s.chan ch).suspended = false) : s.recordPressed ch = s.runCapture ch := by
  simp [recordPressed, goesOn, Channel.secondNotice, alone, awake, capture, paused]

/-- Settles O38: each answer is the change of the channel's capture, or of its play. -/
theorem recordAndPauseRun : Obligations.RecordAndPauseRun := by
  unfold Obligations.RecordAndPauseRun
  refine ⟨fun l s who tag c routed capture paused alone => ?_, fun l s who tag c routed capture running => ?_,
    fun l s who tag p routed play goes => ?_, fun l s c up bound own clear capture => ?_⟩
  · rw [exec_record]
    refine ⟨_, serve_unchecked routed (recordAnswer_of_capture capture paused alone), ?_⟩
    exact (clearNoContinuation_setTo s l).updCapture capture _
  · rw [exec_pause]
    exact ⟨_, serve_unchecked routed (pauseAnswer_of_capture capture running), pauseCapture_setTo capture⟩
  · rw [exec_pause]
    exact ⟨_, serve_unchecked routed (pauseAnswer_of_play play goes), pausePlay_haltedTo play⟩
  · have reaches := pedalReaches_of up bound own clear
    rw [exec_recordRelease_of_reaches reaches, exec_recordPress_of_reaches reaches]
    refine ⟨fun running => ⟨_, rfl, ?_⟩, fun paused goesOn alone awake => ⟨_, rfl, ?_⟩⟩
    · rw [recordReleased_of_running capture running]
      exact pauseCapture_setTo capture
    · rw [recordPressed_of_paused capture paused goesOn alone awake]
      exact runCapture_setTo capture

/-! ### LOAD TAKE and HALT (R134, R145) -/

/-- LOAD TAKE checks the reference, the typist, the state of the take and of its job, and the channel. -/
theorem exec_loadTake (l : Fin 16) (r : Ref) (s : State) :
    exec (.loadTake l r) s = serve (.station l) (.loadTake r) s fun p s =>
      checked s
        (takeChecks s r ++
          [(decide ((s.takeBody r.idx).typist ≠ some p.person), .notPermitted),
            ((decide ((s.takeBody r.idx).state ≠ .claimed) && decide ((s.takeBody r.idx).state ≠ .following)) ||
              decide ((s.job (s.takeBody r.idx).job.idx).state = .retiring), .state),
            (!(s.chan l).isIdle, .busy)])
        (loadedTake s l r) := rfl

theorem loadedTake_of_body {s : State} {r : Ref} {b : TakeBody} (body : (s.take r.idx).body = some b) (ch : Nat) :
    loadedTake s ch r = done (s.setChan ch { s.chan ch with
        stream := .play { job := b.job, take := r, pos := b.resume.getD 0 }, chainAbort := false, noContinuation := false })
      [.num 3 (s.takeEnd b - s.takeStart b), .num 4 (b.resume.getD 0)] := by
  rw [loadedTake, takeBody_of_body body]
  rfl

theorem exec_halt (l : Fin 16) (s : State) :
    exec (.halt l) s = serve (.station l) .halt s fun _ s => haltAnswer s l := rfl

/-- HALT of a play: its answer places the notice HALT after the reply when HALT NOTIFY is set. -/
theorem haltAnswer_of_play {s : State} {ch : Nat} {p : Play} (play : (s.chan ch).stream = .play p) :
    haltAnswer s ch =
      { code := .done, state := s.dropPlay ch
        after := if (s.chan ch).matrix.haltNotify then some (playNotice ch p .halt .stopped) else none } := by
  rw [haltAnswer, playOf_eq play]

theorem dropPlay_of_play {s : State} {ch : Nat} {p : Play} (play : (s.chan ch).stream = .play p) :
    s.dropPlay ch = (s.writeResume p.take p.pos).stopStream ch := by
  rw [dropPlay, playOf_eq play]

theorem stopped_eq (c : Channel) : c.stopped = { c with
    stream := .idle, chainAbort := false, noContinuation := false, active := .a
    profA := { active := c.profA.active, stored := c.profA.active }
    profB := { active := c.profB.active, stored := c.profB.active } } := rfl

theorem chan_stopStream (s : State) (ch : Nat) : (s.stopStream ch).chan ch = (s.chan ch).stopped := by
  rw [stopStream, updChan_eq, chan_setChan]
  rfl

theorem chan_stopStream_ne (s : State) {ch k : Nat} (h : k ≠ ch) : (s.stopStream ch).chan k = s.chan k := by
  rw [stopStream, updChan_eq, chan_setChan_ne _ _ _ _ h]
  rfl

/-- A take's record with its resume position written. -/
theorem take_writeResume (s : State) (r : Ref) (pos : Nat) :
    (s.writeResume r pos).take r.idx =
      { s.take r.idx with body := (s.take r.idx).body.map fun b => { b with resume := some pos } } :=
  take_setTake s r.idx _

theorem take_writeResume_ne (s : State) (r : Ref) (pos : Nat) {k : Nat} (h : k ≠ r.idx) :
    (s.writeResume r pos).take k = s.take k := take_setTake_ne s r.idx _ k h

/-- Settles O41: the play loaded, and the play stopped with its position written. -/
theorem loadAndHalt : Obligations.LoadAndHalt := by
  unfold Obligations.LoadAndHalt
  refine ⟨fun l r s who tag b routed current body typist held stays idle => ?_, fun l s who tag p routed play => ?_⟩
  · rw [exec_loadTake]
    refine ⟨_, serve_passing routed rfl ?_ (loadedTake_of_body body l), channelSetTo_setChan s l _⟩
    rw [firstFailing_takeChecks current, takeBody_of_body body]
    have holds : ¬ (b.state ≠ .claimed ∧ b.state ≠ .following) := fun ⟨notClaimed, notFollowing⟩ =>
      held.elim notClaimed notFollowing
    simp [typist, stays, idle, holds]
  · have taken : exec (.halt l) s = .next (finish (.station l) .halt tag (haltAnswer s l)) := by
      rw [exec_halt, serve_routed routed]
    rw [taken, haltAnswer_of_play play, dropPlay_of_play play]
    refine ⟨(s.writeResume p.take p.pos).stopStream l, ?_, take_writeResume s p.take p.pos, ?_,
      fun k other => take_writeResume_ne s p.take p.pos other, fun k other => chan_stopStream_ne _ other, rfl⟩
    · unfold finish
      cases (s.chan l).matrix.haltNotify <;> rfl
    · exact chan_stopStream _ _

/-! ### PLAY and the PLAY control (R135, R153) -/

theorem profileAt_mode_two {s : State} {ch : Nat} {p : Play} {n : Nat} (mode : (s.chan ch).mode = 2) :
    s.profileAt ch p n = .b ↔ n < s.playFrames p ∧ ∃ i b off,
      s.locate p.job.idx (s.playStart p + n) = some (i, b, off) ∧ (s.link ch).clearance < b.sealPart.getD 0 := by
  simp only [profileAt, mode]
  by_cases inside : n < s.playFrames p
  · cases found : s.locate p.job.idx (s.playStart p + n) with
    | none => simp [inside]
    | some x =>
      obtain ⟨i, b, off⟩ := x
      by_cases above : (s.link ch).clearance < b.sealPart.getD 0 <;>
        simp [inside, overClearance, SegBody.sealClass, above]
  · simp [inside]

theorem profileAt_mode_three {s : State} {ch : Nat} {p : Play} {n : Nat} (mode : (s.chan ch).mode = 3) :
    s.profileAt ch p n = .b ↔ (s.chan ch).winStart ≤ n ∧ n < (s.chan ch).winEnd := by
  simp only [profileAt, mode]
  by_cases inside : (s.chan ch).winStart ≤ n ∧ n < (s.chan ch).winEnd <;> simp [inside]

theorem startPlay_setTo {s : State} {ch : Nat} {p : Play} (play : (s.chan ch).stream = .play p) :
    ChannelSetTo s (s.startPlay ch p) ch { s.chan ch with
      active := s.profileAt ch p (p.pos / 64)
      stream := .play { p with
        pos := p.pos - ((s.chan ch).activeCopy (s.profileAt ch p (p.pos / 64))).backstep * 64
        lastSeg := none, run := .running, shuttle := .none } } :=
  (((ChannelSetTo.refl s ch).updChan _).updPlay play _).updPlay rfl _

theorem playAnswer_of_play {s : State} {ch : Nat} {p : Play} (play : (s.chan ch).stream = .play p)
    (paused : p.run = .paused) (goesOn : (s.chan ch).noContinuation = false) :
    playAnswer s ch = done (s.startPlay ch p) := by
  rw [playAnswer, playOf_eq play]
  exact checked_of_passing (by simp [paused, goesOn])

theorem exec_play (l : Fin 16) (s : State) :
    exec (.play l) s = serve (.station l) .play s fun _ s => playAnswer s l := rfl

/-- The play a pedal message reaches. -/
theorem pedalPlay_eq {s : State} {l : Nat} {p : Play} (play : (s.chan l).stream = .play p) (up : (s.link l).up = true)
    (bound : (s.chan l).binding = .link) (own : (s.link l).role = .typist) (clear : (s.link l).pedalMask = false)
    (awake : (s.chan l).suspended = false) : s.pedalPlay l = some p := by
  rw [pedalPlay, if_pos (by simp [pedalReaches_of up bound own clear, awake]), playOf_eq play]

theorem exec_playPress_of_paused {l : Fin 16} {s : State} {p : Play} (reaches : s.pedalPlay l = some p)
    (paused : p.run = .paused) (goesOn : (s.chan l).noContinuation = false) :
    exec (.playPress l) s = .next (s.startPlay l p) := by
  have pressed : exec (.playPress l) s = execPlayPress l s := rfl
  rw [pressed, execPlayPress, reaches]
  exact congrArg Host.Outcome.next (if_pos ⟨paused, goesOn⟩)

theorem exec_playRelease_of_going {l : Fin 16} {s : State} {p : Play} (reaches : s.pedalPlay l = some p)
    (goes : p.run ≠ .paused) : exec (.playRelease l) s = .next (s.pausePlay l) := by
  have released : exec (.playRelease l) s = execPlayRelease l s := rfl
  rw [released, execPlayRelease, reaches]
  exact congrArg Host.Outcome.next (if_neg goes)

/-- Settles O42: the start with its backstep, the pause, and the profile of each mode. -/
theorem playStartsAndStops : Obligations.PlayStartsAndStops := by
  unfold Obligations.PlayStartsAndStops
  refine ⟨fun l s p play => ⟨fun who tag routed paused goesOn => ?_, fun up bound own clear awake => ?_⟩,
    fun s ch p n => ⟨fun mode => ?_, fun mode => ?_, profileAt_mode_two, profileAt_mode_three⟩⟩
  · rw [exec_play]
    exact ⟨_, serve_unchecked routed (playAnswer_of_play play paused goesOn), startPlay_setTo play⟩
  · have reaches := pedalPlay_eq play up bound own clear awake
    exact ⟨fun paused goesOn => ⟨_, exec_playPress_of_paused reaches paused goesOn, startPlay_setTo play⟩,
      fun goes => ⟨_, exec_playRelease_of_going reaches goes, pausePlay_haltedTo play⟩⟩
  · simp [profileAt, mode]
  · simp [profileAt, mode]

/-! ### Positioning (R136, R137, R143, R144) -/

theorem moved_haltedTo {s : State} {ch : Nat} {p : Play} (play : (s.chan ch).stream = .play p) (pos : Nat) (dir : Shuttle) :
    ChannelHaltedTo s ((s.setPosition ch pos).updPlay ch fun p => { p with run := .paused, shuttle := dir }) ch
      { s.chan ch with
        noContinuation := false
        stream := .play { p with pos := pos, read := none, matched := none, lastSeg := none, run := .paused
                                 shuttle := dir } } :=
  ((ChannelSetTo.refl s ch).setPosition play pos).updPlay rfl _

theorem moveAnswer_of_play {s : State} {ch : Nat} {p : Play} (play : (s.chan ch).stream = .play p) (dir : Shuttle) (n : Nat) :
    moveAnswer s ch dir n =
      done ((s.setPosition ch (s.movedPos p dir n)).updPlay ch fun p => { p with run := .paused, shuttle := .none })
        [.num 4 (s.movedPos p dir n)] := by
  rw [moveAnswer, playOf_eq play]
  exact (moved_haltedTo play _ _).positionReply rfl

theorem moveOut_eq_false {n : Nat} (low : 1 ≤ n) (high : n ≤ 1048575) : moveOut n = false := by
  simp only [moveOut, Config.maxCount, Bool.or_eq_false_iff, decide_eq_false_iff_not]
  omega

theorem exec_rewind (l : Fin 16) (n : Nat) (s : State) :
    exec (.rewind l n) s = serve (.station l) (.rewind n) s fun _ s =>
      checked s [(moveOut n, .range)] (moveAnswer s l .rewind n) := rfl

theorem exec_forward (l : Fin 16) (n : Nat) (s : State) :
    exec (.forward l n) s = serve (.station l) (.forward n) s fun _ s =>
      checked s [(moveOut n, .range)] (moveAnswer s l .forward n) := rfl

/-- A play that pushes a new return stack is positioned and goes on. -/
theorem jumped_haltedTo {s : State} {ch : Nat} {p : Play} (play : (s.chan ch).stream = .play p)
    (stack : Play → List Nat) (pos : Nat) :
    ChannelHaltedTo s
      (((s.updPlay ch fun q => { q with stack := stack q }).setPosition ch pos).afterJump ch) ch { s.chan ch with
        noContinuation := false
        stream := .play { p with pos := pos, read := none, matched := none, lastSeg := none, stack := stack p
                                 shuttle := .none, run := if p.run = .followWait then .running else p.run } } :=
  (((ChannelSetTo.refl s ch).updPlay play _).setPosition rfl pos).afterJump rfl

theorem exec_jump (l : Fin 16) (t : CueOrPos) (s : State) :
    exec (.jump l t) s = serve (.station l) (.jump t) s fun _ s => jumpAnswer s l t := rfl

/-- A target of JUMP within the loaded take passes its checks, and gives its take position. -/
theorem jump_target {s : State} {p : Play} {t : CueOrPos} {pos : Nat} (target : match t with
      | .pos n => pos = n ∧ n ≤ s.playFrames p
      | .cue r => s.cueCurrent r = true ∧ s.cueJob r.idx = p.job.idx ∧ s.cuePos r.idx = s.playStart p + pos ∧
          pos < s.playFrames p) (post : List (Bool × ReplyCode)) :
    jumpPos s p t = pos ∧ firstFailing (jumpChecks s p t ++ post) = firstFailing post := by
  cases t with
  | pos n =>
    obtain ⟨rfl, inside⟩ := target
    exact ⟨rfl, by simp [jumpChecks, Nat.not_lt.2 inside]⟩
  | cue r =>
    obtain ⟨current, own, place, inside⟩ := target
    refine ⟨by rw [jumpPos, place, Nat.add_sub_cancel_left], ?_⟩
    have within : cueOutside s p r = false := by
      simp only [cueOutside, own, place, Bool.or_eq_false_iff, decide_eq_false_iff_not]
      omega
    rw [jumpChecks, List.append_assoc, firstFailing_cueChecks current]
    simp [within]

theorem jumpAnswer_of_play {s : State} {ch : Nat} {p : Play} {t : CueOrPos} {pos : Nat}
    (play : (s.chan ch).stream = .play p) (place : jumpPos s p t = pos)
    (passes : firstFailing (jumpChecks s p t ++ [(decide (Config.stackLimit ≤ p.stack.length), .stackFull)]) = none) :
    jumpAnswer s ch t =
      done (((s.updPlay ch fun q => { q with stack := p.pos :: q.stack }).setPosition ch (pos * 64)).afterJump ch)
        [.num 4 (pos * 64)] := by
  rw [jumpAnswer, playOf_eq play]
  dsimp only
  rw [checked_of_passing passes, jumped, place]
  exact (jumped_haltedTo play (fun q => p.pos :: q.stack) _).positionReply rfl

theorem exec_returnPlay (l : Fin 16) (s : State) :
    exec (.returnPlay l) s = serve (.station l) .returnPlay s fun _ s => returnAnswer s l := rfl

theorem returnAnswer_of_play {s : State} {ch top : Nat} {p : Play} {rest : List Nat}
    (play : (s.chan ch).stream = .play p) (stack : p.stack = top :: rest) :
    returnAnswer s ch =
      done (((s.updPlay ch fun q => { q with stack := rest }).setPosition ch top).afterJump ch) [.num 4 top] := by
  rw [returnAnswer, playOf_eq play]
  dsimp only
  rw [stack]
  exact (jumped_haltedTo play (fun _ => rest) _).positionReply rfl

/-- Settles O43: each positioning request leaves the channel at its new position and replies it. -/
theorem positioningMoves : Obligations.PositioningMoves := by
  unfold Obligations.PositioningMoves
  refine fun l s p play => ⟨fun n who tag routed low high => ?_, fun n who tag routed low high => ?_,
    fun t pos who tag routed target room => ?_, fun top rest who tag routed stack => ?_⟩
  · rw [exec_rewind]
    exact ⟨_, serve_passing routed rfl (by simp [moveOut_eq_false low high]) (moveAnswer_of_play play .rewind n),
      moved_haltedTo play _ _⟩
  · rw [exec_forward]
    exact ⟨_, serve_passing routed rfl (by simp [moveOut_eq_false low high]) (moveAnswer_of_play play .forward n),
      moved_haltedTo play _ _⟩
  · obtain ⟨place, passes⟩ := jump_target target [(decide (Config.stackLimit ≤ p.stack.length), .stackFull)]
    have shallow : ¬ Config.stackLimit ≤ p.stack.length := Nat.not_le.2 room
    rw [exec_jump]
    refine ⟨_, serve_unchecked routed (jumpAnswer_of_play play place (passes.trans (by simp [shallow]))),
      jumped_haltedTo play (fun q => p.pos :: q.stack) _⟩
  · rw [exec_returnPlay]
    exact ⟨_, serve_unchecked routed (returnAnswer_of_play play stack), jumped_haltedTo play (fun _ => rest) _⟩

/-! ### The REWIND and FORWARD controls (R136) -/

theorem exec_rewindPress_of_reaches {l : Fin 16} {s : State} {p : Play} (reaches : s.pedalPlay l = some p) :
    exec (.rewindPress l) s = .next (s.shuttlePressed l p .rewind) := by
  have pressed : exec (.rewindPress l) s = execRewindPress l s := rfl
  rw [pressed, execRewindPress, reaches]

theorem exec_forwardPress_of_reaches {l : Fin 16} {s : State} {p : Play} (reaches : s.pedalPlay l = some p) :
    exec (.forwardPress l) s = .next (s.shuttlePressed l p .forward) := by
  have pressed : exec (.forwardPress l) s = execForwardPress l s := rfl
  rw [pressed, execForwardPress, reaches]

theorem exec_shuttleRelease_of_reaches {l : Fin 16} {s : State} {p : Play} (reaches : s.pedalPlay l = some p)
    (c : ShuttleControl) :
    exec (.shuttleRelease l c) s =
      .next (if p.shuttle = shuttleOf c then s.updPlay l fun p => { p with shuttle := .none } else s) := by
  have released : exec (.shuttleRelease l c) s = execShuttleRelease l c s := rfl
  rw [released, execShuttleRelease, reaches]

/-- Settles O44: a press positions the play with the shuttle held, the release of the control held ends it. -/
theorem shuttlePedals : Obligations.ShuttlePedals := by
  unfold Obligations.ShuttlePedals
  intro l s p play up bound own clear awake
  have reaches := pedalPlay_eq play up bound own clear awake
  refine ⟨⟨_, exec_rewindPress_of_reaches reaches, moved_haltedTo play _ _⟩,
    ⟨_, exec_forwardPress_of_reaches reaches, moved_haltedTo play _ _⟩, fun c held => ?_, fun c other => ?_⟩
  · rw [exec_shuttleRelease_of_reaches reaches, if_pos (by cases c <;> exact held)]
    exact ⟨_, rfl, (ChannelSetTo.refl s l).updPlay play _⟩
  · rw [exec_shuttleRelease_of_reaches reaches, if_neg (by cases c <;> exact other)]

/-! ### PLAY SETUP and SET PROFILE (R147, R160, R161) -/

theorem setupEmpty_eq_false {d : PlaySetup} (selects : d ≠ {}) : setupEmpty d = false := by
  rw [Bool.eq_false_iff]
  intro empty
  refine selects ?_
  obtain ⟨pos, base, remaining, baseCount, pattern, mask, matrix, mode, window⟩ := d
  simp_all [setupEmpty]

theorem setupOut_eq_false {n : Nat} {d : PlaySetup} (pos : ∀ t, d.pos = some t → t ≤ n)
    (base : ∀ b, d.base = some b → b = 0 ∨ b < n) (remaining : ∀ c, d.remaining = some c → c ≤ 1048575)
    (baseCount : ∀ c, d.baseCount = some c → c ≤ 1048575) (mode : ∀ m, d.mode = some m → m ≤ 3)
    (window : ∀ a b, d.window = some (a, b) → a ≤ b) : setupOut n d = false := by
  obtain ⟨p, b, r, c, x, y, m, q, w⟩ := d
  simp only [setupOut, Bool.or_eq_false_iff]
  refine ⟨⟨⟨⟨⟨?_, ?_⟩, ?_⟩, ?_⟩, ?_⟩, ?_⟩
  · cases p with
    | none => rfl
    | some t => simpa using pos t rfl
  · cases b with
    | none => rfl
    | some b =>
      have inside := base b rfl
      simp only [Bool.and_eq_false_iff, decide_eq_false_iff_not]
      omega
  · cases r with
    | none => rfl
    | some n => simpa [Config.maxCount] using remaining n rfl
  · cases c with
    | none => rfl
    | some n => simpa [Config.maxCount] using baseCount n rfl
  · cases q with
    | none => rfl
    | some n => simpa using mode n rfl
  · cases w with
    | none => rfl
    | some w => simpa using window w.1 w.2 rfl

theorem exec_playSetup (l : Fin 16) (d : PlaySetup) (s : State) :
    exec (.playSetup l d) s = serve (.station l) (.playSetup d) s fun _ s => playSetupAnswer s l d := rfl

theorem playSetupAnswer_of_play {s : State} {ch : Nat} {p : Play} {d : PlaySetup} (play : (s.chan ch).stream = .play p)
    (selects : setupEmpty d = false) (inside : setupOut (s.playFrames p) d = false) :
    playSetupAnswer s ch d = playSetUp s ch d := by
  rw [playSetupAnswer, playOf_eq play]
  exact checked_of_passing (by simp [selects, inside])

theorem playSetUp_of_no_pos {d : PlaySetup} (none_ : d.pos = none) {s : State} {ch : Nat} {p : Play}
    (play : (s.chan ch).stream = .play p) :
    ChannelSetTo s (playSetUp s ch d).state ch { s.chan ch with
      pattern := d.pattern.getD (s.chan ch).pattern, mask := d.mask.getD (s.chan ch).mask
      matrix := d.matrix.getD (s.chan ch).matrix, mode := d.mode.getD (s.chan ch).mode, chainAbort := false
      winStart := (d.window.map Prod.fst).getD (s.chan ch).winStart
      winEnd := (d.window.map Prod.snd).getD (s.chan ch).winEnd
      stream := .play { p with
        base := d.base.getD p.base, remaining := d.remaining.getD p.remaining
        baseCount := d.baseCount.getD p.baseCount } } := by
  unfold playSetUp
  rw [none_]
  exact ((ChannelSetTo.refl s ch).updPlay play _).updChan _

theorem playSetUp_of_pos {d : PlaySetup} {t : Nat} (pos : d.pos = some t) {s : State} {ch : Nat} {p : Play}
    (play : (s.chan ch).stream = .play p) :
    ChannelHaltedTo s (playSetUp s ch d).state ch { s.chan ch with
      pattern := d.pattern.getD (s.chan ch).pattern, mask := d.mask.getD (s.chan ch).mask
      matrix := d.matrix.getD (s.chan ch).matrix, mode := d.mode.getD (s.chan ch).mode, chainAbort := false
      winStart := (d.window.map Prod.fst).getD (s.chan ch).winStart
      winEnd := (d.window.map Prod.snd).getD (s.chan ch).winEnd
      noContinuation := false
      stream := .play { p with
        base := d.base.getD p.base, remaining := d.remaining.getD p.remaining
        baseCount := d.baseCount.getD p.baseCount
        pos := t * 64, read := none, matched := none, lastSeg := none, shuttle := .none
        run := if p.run = .followWait then .running else p.run } } := by
  unfold playSetUp
  rw [pos]
  have set := playSetUp_of_no_pos (d := { d with pos := none }) rfl play
  exact (set.setPosition rfl (t * 64)).afterJump rfl

/-- SET PROFILE checks the values, the timing on an IDLE channel, and that something changes. -/
theorem exec_setProfile (l : Fin 16) (profile timing : Nat) (f : ProfileFields) (s : State) :
    exec (.setProfile l profile timing f) s = serve (.station l) (.setProfile profile timing f) s fun _ s =>
      checked s
        [(decide (1 < profile) || decide (1 < timing) || profileOut f, .range),
          (decide (timing = 1) && (s.chan l).stream.isIdle, .state),
          (profileEmpty f || profileHeld f (pairOf (s.chan l) profile), .already)]
        (profileSet s l profile timing f) := rfl

theorem profileEmpty_eq_false {f : ProfileFields} (selects : f ≠ {}) : profileEmpty f = false := by
  rw [Bool.eq_false_iff]
  intro empty
  refine selects ?_
  obtain ⟨rate, backstep, sealAct, pace⟩ := f
  simp_all [profileEmpty]

/-- The pair a SET PROFILE leaves. -/
def profileWritten (timing : Nat) (f : ProfileFields) (old : ProfilePair) : ProfilePair :=
  if timing = 0 then writeNow f old else writeLater f old

theorem profileSet_setTo (s : State) (ch profile timing : Nat) (f : ProfileFields) :
    ChannelSetTo s (profileSet s ch profile timing f).state ch
      (if profile = 0 then
        { s.chan ch with profA := profileWritten timing f (pairOf (s.chan ch) profile) }
      else { s.chan ch with profB := profileWritten timing f (pairOf (s.chan ch) profile) }) :=
  (ChannelSetTo.refl s ch).updChan _

theorem profileWritten_stored (timing : Nat) (f : ProfileFields) (old : ProfilePair) :
    (profileWritten timing f old).stored = writeProfile f old.stored := by
  unfold profileWritten
  split <;> rfl

theorem profileWritten_active (timing : Nat) (f : ProfileFields) (old : ProfilePair) :
    (profileWritten timing f old).active = if timing = 0 then writeProfile f old.active else old.active := by
  unfold profileWritten
  split <;> rfl

theorem and_isNone_eq {α : Type} (mark : Bool) (x : Option α) : (mark && x.isNone) = if x = none then mark else false := by
  cases x <;> simp

theorem ite_isSome_eq {α : Type} (x : Option α) (a b : Bool) :
    (if x.isSome = true then a else b) = if x = none then b else a := by
  cases x <;> simp

/-- The marks a SET PROFILE leaves: a field not selected keeps its mark, one selected takes it AT-BOUNDARY when the copies
differ. -/
theorem profileWritten_marks {timing : Nat} (code : timing ≤ 1) (f : ProfileFields) (old : ProfilePair) :
    let w := profileWritten timing f old
    (w.rateMark, w.backstepMark, w.sealMark, w.paceMark) =
      (if f.rate = none then old.rateMark else decide (timing = 1 ∧ w.stored.rate ≠ old.active.rate),
        if f.backstep = none then old.backstepMark else decide (timing = 1 ∧ w.stored.backstep ≠ old.active.backstep),
        if f.sealAct = none then old.sealMark else decide (timing = 1 ∧ w.stored.sealAct ≠ old.active.sealAct),
        if f.pace = none then old.paceMark else decide (timing = 1 ∧ w.stored.pace ≠ old.active.pace)) := by
  interval_cases timing
  · simp [profileWritten, writeNow, and_isNone_eq]
  · simp [profileWritten, writeLater, ite_isSome_eq]

/-- Settles O45: the fields selected, written together. -/
theorem playSetupAndProfilesWrite : Obligations.PlaySetupAndProfilesWrite := by
  unfold Obligations.PlaySetupAndProfilesWrite
  refine ⟨fun l d s who tag p routed play selects pos base remaining baseCount mode window => ?_,
    fun l profile timing f s who tag old routed small code inside going selects held record => ?_⟩
  · have answer := playSetupAnswer_of_play play (setupEmpty_eq_false selects)
      (setupOut_eq_false pos base remaining baseCount mode window)
    rw [exec_playSetup]
    exact ⟨_, serve_unchecked routed answer, fun none_ => playSetUp_of_no_pos none_ play,
      fun t at_ => playSetUp_of_pos at_ play⟩
  · have pair : pairOf (s.chan l) profile = old := record.symm
    rw [exec_setProfile]
    refine ⟨_, profileWritten timing f old, serve_passing routed rfl ?_ rfl, ?_, profileWritten_stored timing f old,
      profileWritten_active timing f old, profileWritten_marks code f old⟩
    · have goes : timing = 1 → (s.chan l).stream.isIdle = false := fun boundary => by
        have notIdle := going boundary
        cases stream : (s.chan l).stream with
        | idle => exact absurd stream notIdle
        | _ => rfl
      simp [Nat.not_lt.2 small, Nat.not_lt.2 code, inside, profileEmpty_eq_false selects, pair, held]
      exact goes
    · rw [← pair]
      exact profileSet_setTo s l profile timing f

end Sys2Proof.Machine
end

section
/-! ## Takes given, returned, revoked and reworked

What the ready queue holds after a take enters it, and what the Hand-off Unit's requests do to a take, its typist's hold
count and its job (R74, R75, R83, R85, R87 to R89). -/

set_option Elab.async false

namespace Sys2Proof.Machine
open State

/-! ### A take record in use changed -/

theorem updTakeBody_eq {s : State} {i : Nat} {b : TakeBody} (body : (s.take i).body = some b) (f : TakeBody → TakeBody) :
    s.updTakeBody i f = s.setTake i { s.take i with body := some (f b) } := by
  rw [updTakeBody, body, Option.map_some]

theorem body_updTakeBody {s : State} {i : Nat} {b : TakeBody} (body : (s.take i).body = some b) (f : TakeBody → TakeBody) :
    ((s.updTakeBody i f).take i).body = some (f b) := by
  rw [updTakeBody_eq body, take_setTake]

theorem take_updTakeBody_ne (s : State) {i k : Nat} (other : k ≠ i) (f : TakeBody → TakeBody) :
    (s.updTakeBody i f).take k = s.take k :=
  take_setTake_ne _ _ _ _ other

/-! ### The ready queue (R74, R75) -/

theorem keyBefore_iff (a b : Nat × Nat × Nat × Nat) :
    keyBefore a b = true ↔ a.1 < b.1 ∨ (a.1 = b.1 ∧ (a.2.1 < b.2.1 ∨ (a.2.1 = b.2.1 ∧
      (a.2.2.1 < b.2.2.1 ∨ (a.2.2.1 = b.2.2.1 ∧ a.2.2.2 < b.2.2.2))))) := by
  simp [keyBefore]

theorem keyBefore_trans {a b c : Nat × Nat × Nat × Nat} (ab : keyBefore a b = true) (bc : keyBefore b c = true) :
    keyBefore a c = true := by
  rw [keyBefore_iff] at *
  omega

/-- Two keys of different records are ordered one way or the other. -/
theorem keyBefore_of_not {a b : Nat × Nat × Nat × Nat} (apart : a.2.2.2 ≠ b.2.2.2) (h : ¬ keyBefore a b = true) :
    keyBefore b a = true := by
  rw [keyBefore_iff] at *
  omega

theorem queueKey_of_body {s : State} {i : Nat} {b : TakeBody} (body : (s.take i).body = some b) :
    s.queueKey i = ((s.job b.job.idx).cls.code, (s.job b.job.idx).due.toNat, (b.seq.getD 0).toNat, i) := by
  unfold queueKey
  rw [body]

theorem queueKey_index (s : State) (i : Nat) : (s.queueKey i).2.2.2 = i := by
  unfold queueKey
  cases (s.take i).body <;> rfl

/-- A key is a function of the take record and the job table. -/
theorem queueKey_congr {s u : State} {k : Nat} (take : u.take k = s.take k) (jobs : u.jobs = s.jobs) :
    u.queueKey k = s.queueKey k := by
  have job (j : Nat) : u.job j = s.job j := by rw [State.job, jobs]; rfl
  unfold queueKey
  rw [take]
  cases (s.take k).body with
  | none => rfl
  | some b => simp only [job]

theorem insertByKey_congr {s u : State} (same : ∀ k, u.queueKey k = s.queueKey k) (i : Nat) (l : List Nat) :
    u.insertByKey i l = s.insertByKey i l := by
  induction l with
  | nil => rfl
  | cons q rest ih => rw [insertByKey, insertByKey, same, same, ih]

theorem insertByKey_setReady (s : State) (queue l : List Nat) (i : Nat) :
    ({ s with ready := queue } : State).insertByKey i l = s.insertByKey i l := by
  apply insertByKey_congr
  intro k
  rfl

theorem insertByKey_perm (s : State) (i : Nat) (l : List Nat) : (s.insertByKey i l).Perm (i :: l) := by
  induction l with
  | nil => exact .refl _
  | cons q rest ih =>
    rw [insertByKey]
    split
    · exact .refl _
    · exact (ih.cons q).trans (.swap i q rest)

theorem filter_insertByKey {s : State} {i : Nat} {l : List Nat} (absent : i ∉ l) :
    (s.insertByKey i l).filter (fun k => k != i) = l := by
  have kept {m : List Nat} (h : i ∉ m) : m.filter (fun k => k != i) = m :=
    List.filter_eq_self.2 fun k mem => by simpa using fun e : k = i => h (e ▸ mem)
  induction l with
  | nil => simp [insertByKey]
  | cons q rest ih =>
    have apart : q ≠ i := fun e => absent (e ▸ List.mem_cons_self)
    have absent' : i ∉ rest := fun mem => absent (List.mem_cons_of_mem _ mem)
    rw [insertByKey]
    split
    · simp [kept absent', apart]
    · simp [ih absent', apart]

/-- A queue in the order of its keys stays in it when a take enters (R75). -/
theorem pairwise_insertByKey {s : State} {i : Nat} {l : List Nat} (absent : i ∉ l)
    (ordered : l.Pairwise fun x y => keyBefore (s.queueKey x) (s.queueKey y) = true) :
    (s.insertByKey i l).Pairwise fun x y => keyBefore (s.queueKey x) (s.queueKey y) = true := by
  induction l with
  | nil => simp [insertByKey]
  | cons q rest ih =>
    obtain ⟨first, rest_ordered⟩ := List.pairwise_cons.1 ordered
    have apart : i ≠ q := fun e => absent (e ▸ List.mem_cons_self)
    rw [insertByKey]
    split
    next before =>
      refine List.pairwise_cons.2 ⟨fun y mem => ?_, ordered⟩
      rcases List.mem_cons.1 mem with rfl | mem
      · exact before
      · exact keyBefore_trans before (first y mem)
    next not_before =>
      refine List.pairwise_cons.2 ⟨fun y mem => ?_, ih (fun m => absent (List.mem_cons_of_mem _ m)) rest_ordered⟩
      rcases List.mem_cons.1 ((insertByKey_perm s i rest).mem_iff.1 mem) with rfl | mem
      · exact keyBefore_of_not (by rw [queueKey_index, queueKey_index]; exact apart) not_before
      · exact first y mem

theorem enterQueue_of_mem {s : State} {i : Nat} (queued : i ∈ s.ready) : s.enterQueue i = s := by
  unfold enterQueue
  rw [if_pos (by simpa using queued)]

theorem enterQueue_of_seq {s : State} {i : Nat} {b : TakeBody} (body : (s.take i).body = some b) {q : BitVec 32}
    (seq : b.seq = some q) (absent : i ∉ s.ready) : s.enterQueue i = { s with ready := s.insertByKey i s.ready } := by
  unfold enterQueue
  rw [if_neg (by simpa using absent), body]
  simp only [seq, Option.isNone_some, Bool.false_eq_true, if_false]

/-- The state in which a take without a sequence is given the readiness counter's value (R74). -/
def sequenced (s : State) (i : Nat) (b : TakeBody) : State :=
  { s.setTake i { s.take i with body := some { b with seq := some s.readiness } } with readiness := s.readiness + 1 }

theorem enterQueue_of_fresh {s : State} {i : Nat} {b : TakeBody} (body : (s.take i).body = some b) (seq : b.seq = none)
    (absent : i ∉ s.ready) :
    s.enterQueue i = { sequenced s i b with ready := (sequenced s i b).insertByKey i s.ready } := by
  unfold enterQueue
  rw [if_neg (by simpa using absent), body, updTakeBody_eq body]
  simp only [seq, Option.isNone_none, if_true]
  rfl

theorem mem_ready_enterQueue (s : State) (i : Nat) : i ∈ (s.enterQueue i).ready := by
  unfold enterQueue
  split
  next queued => simpa using queued
  · exact (insertByKey_perm _ _ _).mem_iff.2 List.mem_cons_self

theorem take_enterQueue_ne (s : State) {i k : Nat} (other : k ≠ i) : (s.enterQueue i).take k = s.take k := by
  unfold enterQueue
  split
  · rfl
  · change State.take (ite _ _ s) k = _
    split
    · split
      · exact take_updTakeBody_ne s other _
      · rfl
    · rfl

/-- A take in the queue has a sequence and is otherwise as it was. -/
theorem body_enterQueue {s : State} {i : Nat} {b : TakeBody} (body : (s.take i).body = some b) :
    ∃ q, ((s.enterQueue i).take i).body = some { b with seq := q } := by
  by_cases queued : i ∈ s.ready
  · exact ⟨b.seq, by rw [enterQueue_of_mem queued]; exact body⟩
  · cases seq : b.seq with
    | some q => exact ⟨b.seq, by rw [enterQueue_of_seq body seq queued]; exact body⟩
    | none =>
      refine ⟨some s.readiness, ?_⟩
      rw [enterQueue_of_fresh body seq queued]
      exact congrArg Take.body (take_setTake s i _)

theorem body_enterQueue_of_absent {s : State} {i : Nat} {b : TakeBody} (body : (s.take i).body = some b)
    (absent : i ∉ s.ready) : ((s.enterQueue i).take i).body = some { b with seq := some (b.seq.getD s.readiness) } := by
  cases seq : b.seq with
  | some q =>
    rw [enterQueue_of_seq body seq absent, Option.getD_some, ← seq]
    exact body
  | none =>
    rw [enterQueue_of_fresh body seq absent]
    exact congrArg Take.body (take_setTake s i _)

theorem readiness_enterQueue {s : State} {i : Nat} {b : TakeBody} (body : (s.take i).body = some b) (absent : i ∉ s.ready) :
    (s.enterQueue i).readiness = if b.seq = none then s.readiness + 1 else s.readiness := by
  cases seq : b.seq with
  | some q => rw [enterQueue_of_seq body seq absent, if_neg (by simp)]
  | none => rw [enterQueue_of_fresh body seq absent, if_pos rfl]; rfl

/-- The queue after a take enters is its insertion under the keys of the state reached. -/
theorem ready_enterQueue {s : State} {i : Nat} {b : TakeBody} (body : (s.take i).body = some b) (absent : i ∉ s.ready) :
    (s.enterQueue i).ready = (s.enterQueue i).insertByKey i s.ready := by
  cases seq : b.seq with
  | some q =>
    rw [enterQueue_of_seq body seq absent]
    exact (insertByKey_setReady _ _ _ _).symm
  | none =>
    rw [enterQueue_of_fresh body seq absent]
    exact (insertByKey_setReady _ _ _ _).symm

theorem queueKey_enterQueue_ne (s : State) {i k : Nat} (other : k ≠ i) : (s.enterQueue i).queueKey k = s.queueKey k :=
  queueKey_congr (take_enterQueue_ne s other) (enterQueue_jobs s i)

theorem pairwise_enterQueue {s : State} {i : Nat} {b : TakeBody} (body : (s.take i).body = some b) (absent : i ∉ s.ready)
    (ordered : s.ready.Pairwise fun x y => keyBefore (s.queueKey x) (s.queueKey y) = true) :
    (s.enterQueue i).ready.Pairwise fun x y =>
      keyBefore ((s.enterQueue i).queueKey x) ((s.enterQueue i).queueKey y) = true := by
  rw [ready_enterQueue body absent]
  refine pairwise_insertByKey absent (ordered.imp_of_mem fun {x y} hx hy h => ?_)
  have apart {k : Nat} (mem : k ∈ s.ready) : k ≠ i := fun e => absent (e ▸ mem)
  rwa [queueKey_enterQueue_ne s (apart hx), queueKey_enterQueue_ne s (apart hy)]

/-! ### Taking a take (R83, R85) -/

/-- The fields of a take given to a typist (R83, R85). -/
def givenTo (b : TakeBody) (n : Nat) : TakeBody :=
  { b with typist := some n, state := if b.state = .opened then .following else .claimed }

theorem giveTake_eq {s : State} {i n : Nat} {b : TakeBody} (body : (s.take i).body = some b) :
    s.giveTake i n =
      ((s.leaveQueue i).setTake i { s.take i with body := some (givenTo b n) }).setHold n (s.hold n + 1) := by
  unfold giveTake
  rw [updTakeBody_eq (s := s.leaveQueue i) body]
  rfl

section Given

variable {s : State} {i n : Nat} {b : TakeBody}

theorem body_giveTake (body : (s.take i).body = some b) : ((s.giveTake i n).take i).body = some (givenTo b n) := by
  rw [giveTake_eq body, take_setHold, take_setTake]

theorem take_giveTake_ne (s : State) (n : Nat) {i k : Nat} (other : k ≠ i) : (s.giveTake i n).take k = s.take k :=
  take_updTakeBody_ne (s.leaveQueue i) other _

theorem hold_giveTake (s : State) (i n : Nat) : (s.giveTake i n).hold n = s.hold n + 1 :=
  hold_setHold _ _ _

theorem hold_giveTake_ne (s : State) (i : Nat) {n m : Nat} (other : m ≠ n) : (s.giveTake i n).hold m = s.hold m :=
  hold_setHold_ne _ _ _ _ other

/-- The first take of the queue that the set admits is the one found (R83). -/
theorem firstEligible_of_split {pre post : List Nat} {elig : BitVec 3} (queue : s.ready = pre ++ i :: post)
    (earlier : ∀ k ∈ pre, ∀ c, (s.take k).body = some c → elig.getLsbD (s.job c.job.idx).cls.code = false)
    (body : (s.take i).body = some b) (admits : elig.getLsbD (s.job b.job.idx).cls.code = true) :
    s.firstEligible elig = some i := by
  unfold firstEligible
  rw [queue, List.find?_eq_some_iff_append]
  refine ⟨by simp [body, eligible, admits], pre, post, rfl, fun k mem => ?_⟩
  cases held : (s.take k).body with
  | none => simp
  | some c => simp [eligible, earlier k mem c held]

theorem firstEligible_of_none {elig : BitVec 3}
    (barred : ∀ k ∈ s.ready, ∀ c, (s.take k).body = some c → elig.getLsbD (s.job c.job.idx).cls.code = false) :
    s.firstEligible elig = none := by
  unfold firstEligible
  rw [List.find?_eq_none]
  intro k mem
  cases held : (s.take k).body with
  | none => simp
  | some c => simp [eligible, barred k mem c held]

theorem claimedNext_of_some {elig : BitVec 3} (found : s.firstEligible elig = some i) (body : (s.take i).body = some b) :
    claimedNext s n elig = { code := .done, state := s.giveTake i n, result :=
      { fixed := [.ref ⟨i, (s.take i).issue⟩, .ref b.job, .num 1 (if b.state = .opened then 1 else 3)] } } := by
  unfold claimedNext
  rw [found]
  simp only [done, takeBody_of_body body, takeBody_of_body (body_giveTake body), takeRef, givenTo,
    apply_ite TakeState.code]
  rfl

theorem claimedNext_of_none {elig : BitVec 3} (found : s.firstEligible elig = none) :
    claimedNext s n elig = refuse .empty s := by
  unfold claimedNext
  rw [found]

theorem exec_claimNext (l : Fin 16) (s : State) :
    exec (.claimNext l) s = serve (.station l) .claimNext s fun p s =>
      checked s [(decide (Config.holdLimit ≤ s.hold p.person), .limit)] (claimedNext s p.person (s.link l).elig) :=
  rfl

theorem exec_assign (r : Ref) (n : Nat) (s : State) :
    exec (.assign r n) s = serve .console (.assign r n) s fun _ s =>
      checked s
        ((personOut n, .range) :: takeChecks s r ++
          [(decide ((s.job (s.takeBody r.idx).job.idx).state = .retiring) ||
              (decide ((s.takeBody r.idx).state ≠ .ready) && decide ((s.takeBody r.idx).state ≠ .opened)), .state),
            (decide (Config.holdLimit ≤ s.hold n), .limit)])
        (assignedTake s r n) :=
  rfl

theorem personOut_of_range (low : 1 ≤ n) (high : n ≤ 63) : personOut n = false := by
  simp only [personOut, Bool.or_eq_false_iff, decide_eq_false_iff_not]
  omega

end Given

/-- Settles O31: the frames of the gift, and the insertion into the queue by induction on it. -/
theorem claimAndAssignGiveTakes : Obligations.ClaimAndAssignGiveTakes := by
  unfold Obligations.ClaimAndAssignGiveTakes
  refine ⟨?_, ?_, ?_, keyBefore_iff, fun s i b => queueKey_of_body, ?_⟩
  · intro l s who tag pre post i b routed room queue earlier body admits
    refine ⟨s.giveTake i who.person, ?_, body_giveTake body, rfl, hold_giveTake s i _,
      fun k other => take_giveTake_ne s _ other, fun m other => hold_giveTake_ne s i other, rfl, rfl, rfl, rfl, rfl, rfl⟩
    rw [exec_claimNext]
    exact serve_passing routed rfl (by simpa [firstFailing, Config.holdLimit] using room)
      (claimedNext_of_some (firstEligible_of_split queue earlier body admits) body)
  · intro l s who tag routed
    refine ⟨fun full => ?_, fun room barred => ?_⟩
    · rw [exec_claimNext]
      exact serve_failing routed rfl (by simpa [firstFailing, Config.holdLimit] using full)
    · rw [exec_claimNext]
      exact serve_passing routed rfl (by simpa [firstFailing, Config.holdLimit] using room)
        (claimedNext_of_none (firstEligible_of_none barred))
  · intro r n s who tag b routed low high current body working state room
    refine ⟨s.giveTake r.idx n, ?_, body_giveTake body, rfl, hold_giveTake s r.idx n,
      fun k other => take_giveTake_ne s _ other, fun m other => hold_giveTake_ne s _ other, rfl, rfl, rfl, rfl, rfl, rfl⟩
    rw [exec_assign]
    refine serve_passing routed rfl ?_ rfl
    rw [List.cons_append, firstFailing_cons, personOut_of_range low high, takeBody_of_body body]
    simp only [Bool.false_eq_true, if_false, firstFailing_takeChecks current]
    rcases state with state | state <;> simp [working, state, Config.holdLimit, room]
  · intro s i b body absent
    have queue := ready_enterQueue body absent
    exact ⟨body_enterQueue_of_absent body absent, readiness_enterQueue body absent,
      fun k other => take_enterQueue_ne s other, queue ▸ insertByKey_perm _ _ _, queue ▸ filter_insertByKey absent,
      pairwise_enterQueue body absent⟩

end Sys2Proof.Machine
end

section
/-! ## Takes returned, revoked and reworked (R87 to R89) -/

set_option Elab.async false

namespace Sys2Proof.Machine
open State

/-! ### RETURN TAKE (R87) -/

/-- The state in which RETURN TAKE has marked the take and lowered the hold count (R87). -/
def markedReturned (s : State) (r : Ref) (n : Nat) : State :=
  (s.updTakeBody r.idx fun b => { b with state := .returned, resume := none }).setHold n (s.hold n - 1)

/-- The takes of a list are a function of the take records. -/
theorem takesFrom_congr {s u : State} (take : ∀ k, u.take k = s.take k) (n : Nat) (r : Option Ref) :
    u.takesFrom n r = s.takesFrom n r := by
  induction n generalizing r with
  | zero => rfl
  | succ n ih =>
    cases r with
    | none => rfl
    | some r => simp only [takesFrom, take, ih]

theorem jobTakes_congr {s u : State} (take : ∀ k, u.take k = s.take k) {j : Nat}
    (head : (u.job j).takeHead = (s.job j).takeHead) : u.jobTakes j = s.jobTakes j := by
  rw [jobTakes, jobTakes, head, takesFrom_congr take]

theorem allReturned_congr {s u : State} (take : ∀ k, u.take k = s.take k) {j : Nat}
    (head : (u.job j).takeHead = (s.job j).takeHead) : u.allReturned j = s.allReturned j := by
  rw [allReturned, allReturned, jobTakes_congr take head]

theorem exec_returnTake (l : Fin 16) (r : Ref) (s : State) :
    exec (.returnTake l r) s = serve (.station l) (.returnTake r) s fun p s =>
      checked s
        (takeChecks s r ++
          [((s.takeBody r.idx).typist.isNone, .state), (decide ((s.takeBody r.idx).typist ≠ some p.person), .notPermitted),
            (decide ((s.takeBody r.idx).state = .following) || decide ((s.takeBody r.idx).state = .returned), .state),
            (s.anyLoaded r, .busy)])
        (returnedTake s r p.person) :=
  rfl

theorem returnedTake_of_body {s : State} {r : Ref} {n : Nat} {b : TakeBody} (body : (s.take r.idx).body = some b) :
    returnedTake s r n = done (if (s.job b.job.idx).state = .closed ∧ (markedReturned s r n).allReturned b.job.idx = true then
      { markedReturned s r n with reports := s.reports ++ [b.job] } else markedReturned s r n) := by
  rw [returnedTake, takeBody_of_body body]
  rfl

/-- Settles O32. -/
theorem returnTakeReturns : Obligations.ReturnTakeReturns := by
  unfold Obligations.ReturnTakeReturns
  intro l r s who tag b routed current body holder claimed unloaded
  have answer := returnedTake_of_body (n := who.person) body
  have served : ∀ u, returnedTake s r who.person = done u →
      exec (.returnTake l r) s = .next (u.reply (.station l) (.returnTake r) tag .done {}) := by
    intro u answers
    rw [exec_returnTake]
    refine serve_passing routed rfl ?_ answers
    rw [firstFailing_takeChecks current, takeBody_of_body body]
    simp [holder, claimed, unloaded]
  have fields : ((markedReturned s r who.person).take r.idx).body = some { b with state := .returned, resume := none } ∧
      (markedReturned s r who.person).hold who.person = s.hold who.person - 1 ∧
      (∀ k, k ≠ r.idx → (markedReturned s r who.person).take k = s.take k) ∧
      (∀ m, m ≠ who.person → (markedReturned s r who.person).hold m = s.hold m) :=
    ⟨body_updTakeBody body _, hold_setHold _ _ _, fun k other => take_updTakeBody_ne s other _,
      fun m other => hold_setHold_ne _ _ _ _ other⟩
  obtain ⟨marked, counted, takes, holds⟩ := fields
  by_cases complete : (s.job b.job.idx).state = .closed ∧ (markedReturned s r who.person).allReturned b.job.idx = true
  · rw [if_pos complete] at answer
    refine ⟨_, served _ answer, marked, counted, takes, holds, .symm (if_pos ?_), rfl, rfl, rfl, rfl, rfl⟩
    refine ⟨complete.1, Eq.trans (allReturned_congr (fun k => ?_) ?_) complete.2⟩ <;> rfl
  · rw [if_neg complete] at answer
    exact ⟨_, served _ answer, marked, counted, takes, holds, (if_neg complete).symm, rfl, rfl, rfl, rfl, rfl⟩

/-! ### A notice placed -/

theorem chan_placeNotice_ne (s : State) (n : Notice) (b : Bool) {k : Nat} (other : k ≠ n.chan) :
    (s.placeNotice n b).chan k = s.chan k := by
  unfold placeNotice
  dsimp only
  split
  · rw [sendNotice_chan, chan_setChan_ne _ _ _ _ other]
  · split
    · rw [suspend, updChan_eq, chan_setChan_ne _ _ _ _ other, withdraw_chan, chan_setChan_ne _ _ _ _ other]
    · exact chan_setChan_ne _ _ _ _ other
  · exact chan_setChan_ne _ _ _ _ other

/-- A notice placed on an idle channel leaves it idle. -/
theorem idle_placeNotice {s : State} {n : Notice} (idle : (s.chan n.chan).stream = .idle) (b : Bool) :
    ((s.placeNotice n b).chan n.chan).stream = .idle := by
  unfold placeNotice
  dsimp only
  split
  · rw [sendNotice_chan, chan_setChan]
    exact idle
  · split
    · rw [suspend, updChan_eq, chan_setChan, withdraw_chan, chan_setChan]
      simp only [idle, Stream.suspend]
    · rw [chan_setChan]
      exact idle
  · rw [chan_setChan]
    exact idle

/-! ### The channels that have a take loaded stopped (R88, R146) -/

theorem loaded_eq_some_iff (c : Channel) (r : Ref) : c.loaded = some r ↔ ∃ p, c.stream = .play p ∧ p.take = r := by
  unfold Channel.loaded
  cases c.stream <;> simp

/-- What stopping the channels that have a take loaded leaves as it was. -/
structure KeepsRecords (s u : State) (r : Ref) : Prop where
  jobs : u.jobs = s.jobs
  segs : u.segs = s.segs
  cues : u.cues = s.cues
  ready : u.ready = s.ready
  holds : u.holds = s.holds
  takes : ∀ k, k ≠ r.idx → u.take k = s.take k
  body : ∀ b, (s.take r.idx).body = some b → ∃ p, (u.take r.idx).body = some { b with resume := p }

theorem KeepsRecords.refl (s : State) (r : Ref) : KeepsRecords s s r :=
  ⟨rfl, rfl, rfl, rfl, rfl, fun _ _ => rfl, fun b body => ⟨b.resume, body⟩⟩

theorem KeepsRecords.trans {s t u : State} {r : Ref} (h : KeepsRecords s t r) (k : KeepsRecords t u r) :
    KeepsRecords s u r where
  jobs := k.jobs.trans h.jobs
  segs := k.segs.trans h.segs
  cues := k.cues.trans h.cues
  ready := k.ready.trans h.ready
  holds := k.holds.trans h.holds
  takes i other := (k.takes i other).trans (h.takes i other)
  body b body := by
    obtain ⟨p, held⟩ := h.body b body
    obtain ⟨q, kept⟩ := k.body _ held
    exact ⟨q, kept⟩

theorem keepsRecords_writeResume (s : State) (r : Ref) (pos : Nat) : KeepsRecords s (s.writeResume r pos) r :=
  ⟨rfl, rfl, rfl, rfl, rfl, fun _ other => take_updTakeBody_ne s other _, fun _ body => ⟨_, body_updTakeBody body _⟩⟩

theorem keepsRecords_of_takes {s u : State} (r : Ref) (jobs : u.jobs = s.jobs) (segs : u.segs = s.segs)
    (cues : u.cues = s.cues) (ready : u.ready = s.ready) (holds : u.holds = s.holds) (takes : u.takes = s.takes) :
    KeepsRecords s u r := by
  have take (k : Nat) : u.take k = s.take k := by rw [State.take, takes]; rfl
  exact ⟨jobs, segs, cues, ready, holds, fun k _ => take k, fun b body => ⟨b.resume, by rw [take]; exact body⟩⟩

theorem keepsRecords_stopStream (s : State) (ch : Nat) (r : Ref) : KeepsRecords s (s.stopStream ch) r :=
  keepsRecords_of_takes r rfl rfl rfl rfl rfl rfl

theorem keepsRecords_placeNotice (s : State) (n : Notice) (b : Bool) (r : Ref) : KeepsRecords s (s.placeNotice n b) r :=
  keepsRecords_of_takes r (placeNotice_jobs s n b) (placeNotice_segs s n b) (placeNotice_cues s n b)
    (placeNotice_ready s n b) (congrArg State.holds (placeNotice_frame s n b) :) (placeNotice_takes s n b)

theorem revokeOn_of_loaded {s : State} {r : Ref} {ch : Nat} {p : Play} (play : (s.chan ch).stream = .play p)
    (loads : p.take = r) (resume : Bool) :
    revokeOn r resume s ch = (State.stopStream (if resume then s.writeResume r p.pos else s) ch).placeNotice
      { chan := ch, cause := .revoked, action := .stopped, job := p.job, take := some r, pos := p.pos } true := by
  rw [revokeOn, playOf_eq play]
  exact if_pos loads

theorem revokeOn_of_not_loaded {s : State} {r : Ref} {ch : Nat} (other : (s.chan ch).loaded ≠ some r) (resume : Bool) :
    revokeOn r resume s ch = s := by
  unfold revokeOn
  split
  · rfl
  next p found =>
    refine if_neg fun loads => other ((loaded_eq_some_iff _ _).2 ⟨p, ?_, loads⟩)
    unfold playOf at found
    split at found
    · next play => rw [play, Option.some.inj found]
    all_goals cases found

theorem keepsRecords_revokeOn (r : Ref) (resume : Bool) (s : State) (ch : Nat) :
    KeepsRecords s (revokeOn r resume s ch) r := by
  by_cases loads : (s.chan ch).loaded = some r
  · obtain ⟨p, play, take⟩ := (loaded_eq_some_iff _ _).1 loads
    rw [revokeOn_of_loaded play take]
    refine KeepsRecords.trans ?_ ((keepsRecords_stopStream _ _ _).trans (keepsRecords_placeNotice _ _ _ _))
    cases resume
    · exact .refl _ _
    · exact keepsRecords_writeResume _ _ _
  · rw [revokeOn_of_not_loaded loads]
    exact .refl _ _

theorem chan_revokeOn_ne (r : Ref) (resume : Bool) (s : State) {ch k : Nat} (other : k ≠ ch) :
    (revokeOn r resume s ch).chan k = s.chan k := by
  by_cases loads : (s.chan ch).loaded = some r
  · obtain ⟨p, play, take⟩ := (loaded_eq_some_iff _ _).1 loads
    rw [revokeOn_of_loaded play take, chan_placeNotice_ne _ _ _ (by exact other), chan_stopStream_ne _ other]
    cases resume <;> rfl
  · rw [revokeOn_of_not_loaded loads]

theorem idle_revokeOn {r : Ref} {s : State} {ch : Nat} (loads : (s.chan ch).loaded = some r) (resume : Bool) :
    ((revokeOn r resume s ch).chan ch).stream = .idle := by
  obtain ⟨p, play, take⟩ := (loaded_eq_some_iff _ _).1 loads
  rw [revokeOn_of_loaded play take]
  refine idle_placeNotice ?_ true
  rw [chan_stopStream]
  rfl

theorem keepsRecords_foldl_revokeOn (r : Ref) (resume : Bool) (l : List Nat) (s : State) :
    KeepsRecords s (l.foldl (revokeOn r resume) s) r := by
  induction l generalizing s with
  | nil => exact .refl s r
  | cons c rest ih => exact (keepsRecords_revokeOn r resume s c).trans (ih _)

theorem chan_foldl_revokeOn_of_not_loaded {r : Ref} (resume : Bool) (l : List Nat) {s : State} {k : Nat}
    (other : (s.chan k).loaded ≠ some r) : (l.foldl (revokeOn r resume) s).chan k = s.chan k := by
  induction l generalizing s with
  | nil => rfl
  | cons c rest ih =>
    have kept : (revokeOn r resume s c).chan k = s.chan k := by
      by_cases same : k = c
      · rw [revokeOn_of_not_loaded (same ▸ other)]
      · exact chan_revokeOn_ne r resume s same
    exact (ih (by rw [kept]; exact other)).trans kept

theorem idle_foldl_revokeOn {r : Ref} (resume : Bool) {l : List Nat} {s : State} {k : Nat} (mem : k ∈ l)
    (loads : (s.chan k).loaded = some r) : ((l.foldl (revokeOn r resume) s).chan k).stream = .idle := by
  induction l generalizing s with
  | nil => cases mem
  | cons c rest ih =>
    rw [List.foldl_cons]
    by_cases same : k = c
    · subst same
      have idle := idle_revokeOn loads resume
      rw [chan_foldl_revokeOn_of_not_loaded resume rest (by rw [Channel.loaded, idle]; simp)]
      exact idle
    · refine ih ((List.mem_cons.1 mem).resolve_left same) ?_
      rw [chan_revokeOn_ne r resume s same]
      exact loads

/-! ### REVOKE and REWORK (R88, R89) -/

theorem exec_revoke (r : Ref) (s : State) :
    exec (.revoke r) s = serve .console (.revoke r) s fun _ s =>
      checked s
        (takeChecks s r ++
          [(decide ((s.takeBody r.idx).state ≠ .claimed) && decide ((s.takeBody r.idx).state ≠ .following), .state)])
        (revokedTake s r) :=
  rfl

theorem exec_rework (r : Ref) (person : Option Nat) (s : State) :
    exec (.rework r person) s = serve .console (.rework r person) s fun _ s =>
      checked s
        (((match person with | some n => personOut n | none => false), .range) :: takeChecks s r ++
          [(decide ((s.job (s.takeBody r.idx).job.idx).state = .retiring) ||
              decide ((s.takeBody r.idx).state ≠ .returned), .state),
            ((s.job (s.takeBody r.idx).job.idx).exportBusy, .busy),
            ((match person with | some n => decide (Config.holdLimit ≤ s.hold n) | none => false), .limit)])
        (reworkedTake s r person) :=
  rfl

/-- The state in which REVOKE has taken the take from its typist, before the queue and the channels (R88). -/
def takenBack (s : State) (r : Ref) (n : Nat) : State :=
  (s.setHold n (s.hold n - 1)).updTakeBody r.idx fun b =>
    { b with typist := none, state := if b.state = .following then .opened else .ready }

/-- The state in which REVOKE has placed the take in the queue, before the channels stop (R88). -/
def requeued (s : State) (r : Ref) (n : Nat) (b : TakeBody) : State :=
  if b.state = .claimed ∨ (s.job b.job.idx).follow = true then (takenBack s r n).enterQueue r.idx else takenBack s r n

theorem revokedTake_of_body {s : State} {r : Ref} {n : Nat} {b : TakeBody} (body : (s.take r.idx).body = some b)
    (holder : b.typist = some n) : revokedTake s r = done ((requeued s r n b).revokeLoaded r true) := by
  rw [revokedTake, takeBody_of_body body]
  simp only [holder, Option.getD_some]
  rfl

/-- The records of a take placed in the queue by REVOKE. -/
theorem requeued_facts {s : State} {r : Ref} {n : Nat} {b : TakeBody} (body : (s.take r.idx).body = some b) :
    (∃ q, ((requeued s r n b).take r.idx).body = some
      { b with typist := none, state := (if b.state = .following then .opened else .ready), seq := q }) ∧
    (b.state = .claimed ∨ (s.job b.job.idx).follow = true → r.idx ∈ (requeued s r n b).ready) ∧
    (∀ k, k ≠ r.idx → (requeued s r n b).take k = s.take k) ∧ (requeued s r n b).hold n = s.hold n - 1 ∧
    (∀ ch, (requeued s r n b).chan ch = s.chan ch) ∧ (requeued s r n b).jobs = s.jobs ∧
    (requeued s r n b).segs = s.segs ∧ (requeued s r n b).cues = s.cues := by
  have taken : ((takenBack s r n).take r.idx).body = some
      { b with typist := none, state := if b.state = .following then .opened else .ready } :=
    body_updTakeBody (s := s.setHold n (s.hold n - 1)) body _
  have takes (k : Nat) (other : k ≠ r.idx) : (takenBack s r n).take k = s.take k :=
    take_updTakeBody_ne (s.setHold n (s.hold n - 1)) other _
  have hold : (takenBack s r n).hold n = s.hold n - 1 := hold_setHold _ _ _
  unfold requeued
  split
  next queues =>
    refine ⟨body_enterQueue taken, fun _ => mem_ready_enterQueue _ _,
      fun k other => (take_enterQueue_ne _ other).trans (takes k other), ?_, fun ch => ?_, ?_, ?_, ?_⟩
    · rw [enterQueue_hold, hold]
    · rw [enterQueue_chan]; rfl
    · rw [enterQueue_jobs]; rfl
    · rw [enterQueue_segs]; rfl
    · rw [enterQueue_cues]; rfl
  next stays => exact ⟨⟨b.seq, taken⟩, fun queues => absurd queues stays, takes, hold, fun _ => rfl, rfl, rfl, rfl⟩

/-- The job a rework reopens (R89). -/
def reopened (x : Job) : Job :=
  if x.state = .complete ∨ x.state = .releasing then { x with state := .closed, release := none } else x

theorem reopenJob_eq (s : State) (j : Nat) : s.reopenJob j = s.setJob j (reopened (s.job j)) := by
  rw [reopenJob, updJob_eq]
  rfl

/-- Settles O33. -/
theorem revokeAndReworkMoveTakes : Obligations.RevokeAndReworkMoveTakes := by
  unfold Obligations.RevokeAndReworkMoveTakes
  refine ⟨?_, ?_, ?_⟩
  · intro r s who tag b n routed current body held holder
    obtain ⟨⟨q, taken⟩, queued, takes, hold, chan, jobs, segs, cues⟩ := requeued_facts (n := n) body
    have kept := keepsRecords_foldl_revokeOn r true (List.range 16) (requeued s r n b)
    obtain ⟨p, left⟩ := kept.body _ taken
    refine ⟨(requeued s r n b).revokeLoaded r true, _, ?_, left, rfl, rfl, rfl, rfl, rfl, ?_, fun queues => ?_,
      fun ch low loads => ?_, fun ch other => ?_, fun k other => (kept.takes k other).trans (takes k other),
      kept.jobs.trans jobs, kept.segs.trans segs, kept.cues.trans cues⟩
    · rw [exec_revoke]
      refine serve_passing routed rfl ?_ (revokedTake_of_body body holder)
      rw [firstFailing_takeChecks current, takeBody_of_body body]
      rcases held with state | state <;> simp [state]
    · rw [← hold, revokeLoaded, State.hold, kept.holds]
      rfl
    · rw [revokeLoaded, kept.ready]
      exact queued queues
    · exact idle_foldl_revokeOn true (List.mem_range.2 low) (by rw [chan]; exact loads)
    · rw [revokeLoaded, chan_foldl_revokeOn_of_not_loaded true _ (by rw [chan]; exact other), chan]
  · intro r s who tag b routed current body working returned idle
    have taken := body_updTakeBody body fun b => { b with state := .ready, typist := none }
    obtain ⟨q, queued⟩ := body_enterQueue taken
    refine ⟨((s.updTakeBody r.idx fun b => { b with state := .ready, typist := none }).enterQueue r.idx).reopenJob b.job.idx,
      _, ?_, queued, rfl, rfl, mem_ready_enterQueue _ _, (congrArg State.holds (enterQueue_frame _ _) :), ?_, ?_,
      fun k other => (take_enterQueue_ne _ other).trans (take_updTakeBody_ne s other _), enterQueue_chans _ _⟩
    · rw [exec_rework]
      refine serve_passing routed rfl ?_ (by rw [reworkedTake, takeBody_of_body body]; rfl)
      rw [List.cons_append, firstFailing_cons, takeBody_of_body body]
      simp [firstFailing_takeChecks current, working, returned, idle]
    · rw [reopenJob_eq, job_setJob, enterQueue_job]
      rfl
    · intro k other
      rw [reopenJob_eq, job_setJob_ne _ _ _ _ other, enterQueue_job]
      rfl
  · intro r n s who tag b routed low high current body working returned idle room
    refine ⟨((s.updTakeBody r.idx fun b => { b with state := .claimed, typist := some n }).setHold n
      (s.hold n + 1)).reopenJob b.job.idx, ?_, body_updTakeBody body _, ?_, rfl, ?_, ?_,
      fun k other => take_updTakeBody_ne s other _, rfl⟩
    · rw [exec_rework]
      refine serve_passing routed rfl ?_ (by rw [reworkedTake, takeBody_of_body body]; rfl)
      rw [List.cons_append, firstFailing_cons, takeBody_of_body body]
      simp [firstFailing_takeChecks current, personOut_of_range low high, working, returned, idle, Config.holdLimit, room]
    · rw [reopenJob_eq, hold_setJob, hold_setHold]
    · rw [reopenJob_eq, job_setJob]
      rfl
    · intro k other
      rw [reopenJob_eq, job_setJob_ne _ _ _ _ other]
      rfl

end Sys2Proof.Machine
end

section
/-! ## The settings

Which commands change the bank map, the formatted flag, the pool threshold, the bulk priorities, the retiring list, the bulk
buffer and the completion reports. Each is a field outside the blocks' records, so what leaves those fields (`RecordsFrame`)
leaves the settings; the owner of a setting is followed with its own field forgotten. -/

set_option Elab.async false

namespace Sys2Proof.Machine
open State

/-- The fields the commands of the Store Controller, the Maintenance Engine and the Console Port own. -/
structure Settings where
  bank : BankMap
  formatted : Bool
  threshold : Nat
  bulkAbove : Bool
  bulk14 : BulkSetting
  bulk15 : BulkSetting
  retiring : List Nat
  buffer : List BufEntry
  reports : List Ref

/-- The settings of a state. -/
def settings (s : State) : Settings :=
  ⟨s.bank, s.formatted, s.threshold, s.bulkAbove, s.bulk14, s.bulk15, s.retiring, s.buffer, s.reports⟩

/-- The settings stand, as far as `φ` tells them apart. -/
def Calm (φ : Settings → Settings) (s t : State) : Prop := φ (settings t) = φ (settings s)

/-- What a command forgets of the settings: those it owns. -/
def forgets : Instr → Settings → Settings
  | .setBankMap .., x => { x with bank := {} }
  | .format, x => { x with formatted := false }
  | .setPoolThreshold _, x => { x with threshold := 0 }
  | .setBulkPriority .., x => { x with bulkAbove := false, bulk14 := {}, bulk15 := {} }
  | .release .., x => { x with retiring := [] }
  | .sweepStep, x => { x with retiring := [] }
  | .bulkRead .., x => { x with buffer := [] }
  | .exportReadCompletion _, x => { x with buffer := [] }
  | .warmReset, x => { x with buffer := [] }
  | .returnTake .., x => { x with reports := [] }
  | .completionReport, x => { x with reports := [] }
  | _, x => x

/-- A command answers a next state in which the settings stand as far as `φ` tells. -/
def AnswersCalm (φ : Settings → Settings) (s : State) (o : Host.Outcome State Fault Refusal) : Prop :=
  ∃ t, o = .next t ∧ Calm φ s t

variable {φ : Settings → Settings}

theorem Calm.refl (s : State) : Calm φ s s := rfl

theorem Calm.trans {s t u : State} (h : Calm φ s t) (k : Calm φ t u) : Calm φ s u := Eq.trans k h

theorem RecordsFrame.calm {s t : State} (h : RecordsFrame s t) : Calm φ s t :=
  congrArg φ (by
    rw [settings, h.bank, h.formatted, h.threshold, h.bulkAbove, h.bulk14, h.bulk15, h.retiring, h.buffer, h.reports]
    rfl)

theorem RecordsOnly.calm {s t : State} (h : RecordsOnly s t) : Calm φ s t := h.1.calm
theorem ChannelOnly.calm {s t : State} (h : ChannelOnly s t) : Calm φ s t := h.1.calm
theorem StoreOnly.calm {s t : State} (h : StoreOnly s t) : Calm φ s t := h.1.calm

theorem Calm.foldl {β : Type} {f : State → β → State} (hf : ∀ t x, Calm φ t (f t x)) (l : List β) (s : State) :
    Calm φ s (l.foldl f s) := by
  induction l generalizing s with
  | nil => exact .refl s
  | cons x l ih => exact (hf s x).trans (ih _)

/-- A next state that either stands as it was or is changed by a calm step. -/
theorem calm_ite (c : Prop) [Decidable c] {s t u : State} (h : Calm φ s t) (k : Calm φ s u) :
    Calm φ s (if c then t else u) := by
  split
  · exact h
  · exact k

/-! ### Taking a request -/

theorem calm_reply (s : State) (p : Port) (r : Request) (tag : Byte) (c : ReplyCode) (res : Result) :
    Calm φ s (s.reply p r tag c res) := by
  cases p with
  | console => rfl
  | station l => exact ((s.updLink_channel _ _).trans (handOver_channel _ _ _)).calm

theorem serve_calm {p : Port} {r : Request} {s : State} {owner : Party → State → Ans}
    (h : ∀ party, Calm φ s (owner party s).state) : AnswersCalm φ s (serve p r s owner) := by
  rcases serve_eq p r s owner with ⟨_, e⟩ | ⟨party, tag, _, e⟩
  · exact ⟨s, e, .refl s⟩
  · refine ⟨_, e, (h party).trans ?_⟩
    unfold finish
    dsimp only
    split
    · exact calm_reply _ _ _ _ _ _
    · exact (calm_reply _ _ _ _ _ _).trans (placeNotice_channel _ _ _).calm

theorem serve_calm_of_eq {p : Port} {r : Request} {s : State} {owner : Party → State → Ans}
    (h : ∀ party, (owner party s).state = s) : AnswersCalm φ s (serve p r s owner) :=
  serve_calm fun party => by rw [h party]; exact .refl s

theorem checked_calm {s : State} {checks : List (Bool × ReplyCode)} {taken : Ans} (h : Calm φ s taken.state) :
    Calm φ s (checked s checks taken).state := by
  unfold checked
  split
  · exact .refl s
  · exact h

/-! ### Jobs -/

theorem setJob_calm (s : State) (i : Nat) (x : Job) : Calm φ s (s.setJob i x) := (s.setJob_records i x).calm
theorem updJob_calm (s : State) (i : Nat) (f : Job → Job) : Calm φ s (s.updJob i f) := setJob_calm s i _

theorem openedJob_calm (s : State) (l p : Nat) (d : BitVec 32) (c : Nat) (due : BitVec 16) :
    Calm φ s (openedJob s l p d c due).state :=
  (setJob_calm s _ _).trans (((firstTake_records _ _).trans (startCapture_records _ _ _)).calm)

theorem createdJob_calm (s : State) (p : Nat) (d : BitVec 32) (c : Nat) (due : BitVec 16) (f : Nat) :
    Calm φ s (createdJob s p d c due f).state := (setJob_calm s _ _).trans (firstTake_records _ _).calm

theorem attachedJob_calm (s : State) (l : Nat) (r : Ref) : Calm φ s (attachedJob s l r).state :=
  (updJob_calm s _ _).trans (startCapture_records _ _ _).calm

theorem releaseChannel_calm (s : State) (j : Nat) : Calm φ s (s.releaseChannel j) := by
  unfold releaseChannel
  split
  · exact .refl s
  · exact (s.endCapture_records _).calm

theorem detachedJob_calm (s : State) (r : Ref) : Calm φ s (detachedJob s r).state := by
  unfold detachedJob
  dsimp only [done]
  exact (releaseChannel_calm s _).trans (updJob_calm _ _ _)

theorem releaseForClose_calm (s : State) (p : Party) (r : Ref) : Calm φ s (s.releaseForClose p r) := by
  unfold releaseForClose
  split
  · split
    · exact (s.endCapture_records _).calm.trans (placeNotice_channel _ _ _).calm
    · exact (s.endCapture_records _).calm
  · exact .refl s

theorem closeState_calm (s : State) (r : Ref) : Calm φ s (s.closeState r) := by
  unfold closeState
  split
  · exact (updJob_calm s _ _).trans (raise_store _ _).calm
  · exact updJob_calm s _ _

theorem closedDictation_calm (s : State) (p : Party) (r : Ref) : Calm φ s (closedDictation s p r).state :=
  (releaseForClose_calm s p r).trans ((closeLastTake_records _ _).calm.trans ((dropTail_records _ _).calm.trans
    (closeState_calm _ _)))

theorem applyFollow_calm (s : State) (j : Nat) : Calm φ s (s.applyFollow j) := by
  unfold applyFollow
  split
  · exact .refl s
  · split
    · exact (s.enterQueue_records _).calm
    · exact (s.leaveQueue_records _).calm

theorem setAttributes_calm (s : State) (r : Ref) (a : JobAttrs) : Calm φ s (setAttributes s r a).state := by
  have first : Calm φ s (s.setJob r.idx (writeAttrs a (s.job r.idx))) := setJob_calm s _ _
  have mid : ∀ (p : Prop) [Decidable p] (t : State), Calm φ t (if p then t.replaceQueued r.idx else t) := by
    intro p _ t
    split
    · exact (t.replaceQueued_records _).calm
    · exact .refl t
  have last : ∀ (p : Prop) [Decidable p] (t : State), Calm φ t (if p then t.applyFollow r.idx else t) := by
    intro p _ t
    split
    · exact applyFollow_calm t _
    · exact .refl t
  exact first.trans ((mid _ _).trans (last _ _))

theorem foundJob_calm (s : State) (p : Party) (n : Nat) (a b : JobKey) : Calm φ s (foundJob s p n a b).state := by
  unfold foundJob
  split <;> exact .refl s

theorem heldJob_calm (s : State) (r : Ref) : Calm φ s (heldJob s r).state := by
  unfold heldJob
  dsimp only [done]
  split
  · split
    · exact (updJob_calm s _ _).trans (endExport_records _ _ _ _).calm
    · exact (updJob_calm s _ _).trans (updJob_calm _ _ _)
  · exact updJob_calm s _ _

theorem releasedJob_calm (blind : ∀ x l, φ { x with retiring := l } = φ x) (s : State) (p : Party) (r : Ref) :
    Calm φ s (releasedJob s p r).state := by
  unfold releasedJob
  split
  · dsimp only [done]
    exact updJob_calm s r.idx _
  · exact blind (settings s) _

/-! ### Maps -/

theorem sealedRange_calm (s : State) (r : Ref) (a b c : Nat) : Calm φ s (sealedRange s r a b c).state := by
  have mid : ∀ t : State, RecordsOnly t
      (if c = 0 then t else (t.segsWithin r.idx a b).foldl (fun t x => t.taintExt x.2.extent) t) := by
    intro t
    split
    · exact .refl t
    · exact RecordsOnly.foldl (β := Nat × SegBody) _ (fun t x => (t.taintExt_store x.2.extent).1.1) _ _
  unfold sealedRange
  dsimp only [done]
  exact ((writeRange_records s _ _ _ _).trans ((mid _).trans
    (ChannelOnly.foldl _ (withdrawWaitingRead_channel r) _ _).1)).calm

theorem pacedRange_calm (s : State) (r : Ref) (a b : Nat) (p : Option Nat) : Calm φ s (pacedRange s r a b p).state :=
  (writeRange_records s _ _ _ _).calm

/-! ### Cues -/

theorem placedCue_calm (s : State) (p : Party) (k : Nat) (l : BitVec 16) (f : Place) :
    Calm φ s (placedCue s p k l f).state := by
  unfold placedCue
  split
  · exact .refl s
  · dsimp only [done]
    split
    · exact ((s.addCue_records _ _ _ _ _).trans (takeChange_records _ _ _ _)).calm
    · exact (s.addCue_records _ _ _ _ _).calm

theorem removedCue_calm (s : State) (r : Ref) : Calm φ s (removedCue s r).state := by
  have mid : ∀ (o : Option ((Nat × TakeBody) × (Nat × TakeBody))) (t : State),
      RecordsOnly t (match o with
        | some ((e, _), (f, _)) => t.mergeTakes (s.cueJob r.idx) e f
        | none => t) := by
    intro o t
    split
    · exact t.mergeTakes_records _ _ _
    · exact .refl t
  exact ((s.unlinkCue_records _).trans ((mid _ _).trans (freeCue_records _ _))).calm

/-! ### Takes -/

theorem claimedNext_calm (s : State) (p : Nat) (e : BitVec 3) : Calm φ s (claimedNext s p e).state := by
  unfold claimedNext
  split
  · exact .refl s
  · exact (s.giveTake_records _ _).calm

theorem returnedTake_calm (blind : ∀ x l, φ { x with reports := l } = φ x) (s : State) (r : Ref) (p : Nat) :
    Calm φ s (returnedTake s r p).state := by
  have k : RecordsOnly s ((s.updTakeBody r.idx fun b => { b with state := .returned, resume := none }).setHold p
      (s.hold p - 1)) := (s.updTakeBody_records _ _).trans (setHold_records _ _ _)
  unfold returnedTake
  dsimp only [done]
  generalize (s.updTakeBody r.idx fun b => { b with state := .returned, resume := none }).setHold p
      (s.hold p - 1) = u at k ⊢
  split
  · exact k.calm.trans (blind (settings u) _)
  · exact k.calm

theorem revokedTake_calm (s : State) (r : Ref) : Calm φ s (revokedTake s r).state := by
  have mid : ∀ (p : Prop) [Decidable p] (t : State), RecordsOnly t (if p then t.enterQueue r.idx else t) := by
    intro p _ t
    split
    · exact t.enterQueue_records _
    · exact .refl t
  unfold revokedTake
  dsimp only [done]
  exact ((s.setHold_records _ _).trans ((updTakeBody_records _ _ _).trans ((mid _ _).trans
    (revokeLoaded_records _ _ _)))).calm

theorem reworkedTake_calm (s : State) (r : Ref) (p : Option Nat) : Calm φ s (reworkedTake s r p).state := by
  unfold reworkedTake
  dsimp only
  split
  · exact ((s.updTakeBody_records _ _).trans ((enterQueue_records _ _).trans (updJob_records _ _ _))).calm
  · exact ((s.updTakeBody_records _ _).trans ((setHold_records _ _ _).trans (updJob_records _ _ _))).calm

/-! ### Store -/

theorem mappedBanks_calm (blind : ∀ x l, φ { x with bank := l } = φ x) (s : State) (b : BankMap) :
    Calm φ s (mappedBanks s b).state := blind (settings s) _

theorem formattedStore_calm (blind : ∀ x l, φ { x with formatted := l } = φ x) (s : State) :
    Calm φ s (formattedStore s).state := by
  have emptied : Calm φ s { s.abandonScrub with freeList := [], scrubList := [] } :=
    s.abandonScrub_store.calm.trans rfl
  have placed : ∀ (t : State) (l : List Nat),
      Calm φ t { t with
        exts := Table.mapFrom {} (formattedExt s.bank) Config.extents 0 t.exts
        scrubList := l, formatLeft := l.length, formatted := true } := fun t l => blind (settings t) _
  unfold formattedStore
  dsimp only [done]
  exact emptied.trans ((testLow_store _).calm.trans ((placed _ _).trans (claimScrub_store _).calm))

theorem thresholdSet_calm (blind : ∀ x l, φ { x with threshold := l } = φ x) (s : State) (n : Nat) :
    Calm φ s (thresholdSet s n).state :=
  Calm.trans (t := { s with threshold := n }) (blind (settings s) _) (testLow_store _).calm

/-! ### Capture -/

theorem capturedMode_calm (s : State) (ch : Nat) (j : Ref) (m : ModeRequest) : Calm φ s (capturedMode s ch j m).state := by
  have clear : ∀ t : State,
      RecordsOnly t ((t.updPlacement ch fun p => { p with runStart := none }).clearNoContinuation ch) := fun t =>
    (t.updPlacement_records _ _).trans (clearNoContinuation_channel _ _).1
  unfold capturedMode
  dsimp only
  split
  · exact ((s.updCapture_channel _ _).1.trans (clear _)).calm
  · exact ((s.splitAt_records _ _).trans ((updCapture_channel _ _ _).1.trans (clear _))).calm

theorem setModeAnswer_calm (s : State) (ch : Nat) (m : ModeRequest) : Calm φ s (setModeAnswer s ch m).state := by
  unfold setModeAnswer
  split
  · exact checked_calm <| .refl s
  · exact checked_calm <| capturedMode_calm _ _ _ _

theorem sealModeSet_calm (s : State) (ch c : Nat) : Calm φ s (sealModeSet s ch c).state := by
  unfold sealModeSet
  dsimp only [done]
  exact ((s.updCapture_channel _ _).trans (clearNoContinuation_channel _ _)).calm

theorem setupCapture_calm (s : State) (ch a b : Nat) (r c n : Bool) : Calm φ s (setupCapture s ch a b r c n).state := by
  unfold setupCapture
  dsimp only [done]
  exact ((s.updCapture_channel _ _).trans (updChan_channel _ _ _)).calm

theorem recordAnswer_calm (s : State) (ch : Nat) : Calm φ s (recordAnswer s ch).state := by
  unfold recordAnswer
  split
  · exact checked_calm <| ((clearNoContinuation_channel s ch).trans (updCapture_channel _ _ _)).calm
  · exact checked_calm <| ((s.restoreCapture_channel _ _ _).trans (clearNoContinuation_channel _ _)).calm
  · exact .refl s
  · exact .refl s
  · exact .refl s

theorem pauseAnswer_calm (s : State) (ch : Nat) : Calm φ s (pauseAnswer s ch).state := by
  unfold pauseAnswer
  split
  · exact checked_calm <| (s.updCapture_channel _ _).calm
  · exact checked_calm <| (s.pausePlay_channel _).calm
  all_goals exact .refl s

theorem startedReadback_calm (s : State) (ch : Nat) (c : Capture) (l : BitVec 16) (st : CueOrPos) :
    Calm φ s (startedReadback s ch c l st).state := by
  unfold startedReadback
  dsimp only [done]
  exact ((s.addCue_records _ _ _ _ _).trans ((updPlacement_records _ _ _).trans (updChan_channel _ _ _).1)).calm

theorem readbackAnswer_calm (s : State) (ch : Nat) (l : BitVec 16) (st : CueOrPos) :
    Calm φ s (readbackAnswer s ch l st).state := by
  unfold readbackAnswer
  split
  · exact .refl s
  · exact checked_calm <| startedReadback_calm _ _ _ _ _

theorem readbackEndAnswer_calm (s : State) (ch : Nat) : Calm φ s (readbackEndAnswer s ch).state := by
  unfold readbackEndAnswer
  split
  · exact .refl s
  · exact (s.restoreCapture_channel _ _ _).calm

/-! ### Play -/

theorem loadedTake_calm (s : State) (ch : Nat) (r : Ref) : Calm φ s (loadedTake s ch r).state := by
  unfold loadedTake
  dsimp only [done]
  exact (s.updChan_channel ch _).calm

theorem playAnswer_calm (s : State) (ch : Nat) : Calm φ s (playAnswer s ch).state := by
  unfold playAnswer
  split
  · exact .refl s
  · exact checked_calm <| (s.startPlay_channel _ _).calm

theorem haltAnswer_calm (s : State) (ch : Nat) : Calm φ s (haltAnswer s ch).state := by
  unfold haltAnswer
  split
  · exact .refl s
  · exact (s.dropPlay_records _).calm

theorem moveAnswer_calm (s : State) (ch : Nat) (d : Shuttle) (n : Nat) : Calm φ s (moveAnswer s ch d n).state := by
  unfold moveAnswer
  split
  · exact .refl s
  · exact ((s.setPosition_channel _ _).trans (updPlay_channel _ _ _)).calm

theorem jumpAnswer_calm (s : State) (ch : Nat) (t : CueOrPos) : Calm φ s (jumpAnswer s ch t).state := by
  unfold jumpAnswer
  split
  · exact .refl s
  · exact checked_calm <|
      ((s.updPlay_channel _ _).trans ((setPosition_channel _ _ _).trans (afterJump_channel _ _))).calm

theorem returnAnswer_calm (s : State) (ch : Nat) : Calm φ s (returnAnswer s ch).state := by
  unfold returnAnswer
  split
  · exact .refl s
  · split
    · exact .refl s
    · exact ((s.updPlay_channel _ _).trans ((setPosition_channel _ _ _).trans (afterJump_channel _ _))).calm

theorem playSetUp_calm (s : State) (ch : Nat) (d : PlaySetup) : Calm φ s (playSetUp s ch d).state := by
  unfold playSetUp
  dsimp only [done]
  split
  · exact ((s.updPlay_channel _ _).trans ((updChan_channel _ _ _).trans ((setPosition_channel _ _ _).trans
      (afterJump_channel _ _)))).calm
  · exact ((s.updPlay_channel _ _).trans (updChan_channel _ _ _)).calm

theorem playSetupAnswer_calm (s : State) (ch : Nat) (d : PlaySetup) : Calm φ s (playSetupAnswer s ch d).state := by
  unfold playSetupAnswer
  split
  · exact .refl s
  · exact checked_calm <| playSetUp_calm _ _ _

theorem profileSet_calm (s : State) (ch a b : Nat) (f : ProfileFields) : Calm φ s (profileSet s ch a b f).state := by
  unfold profileSet
  dsimp only [done]
  refine (s.updChan_channel ch _ ?_).calm
  split <;> exact ⟨rfl, rfl, rfl, .inl⟩

/-! ### Channels and links -/

theorem timeoutSet_calm (s : State) (ch n : Nat) : Calm φ s (timeoutSet s ch n).state := by
  unfold timeoutSet
  dsimp only [done]
  exact (s.updChan_channel ch fun c => { c with timeout := n }).calm

theorem startedExport_calm (s : State) (r : Ref) (ch a b : Nat) : Calm φ s (startedExport s r ch a b).state := by
  unfold startedExport
  dsimp only
  split
  · dsimp only [done]
    exact ((s.updJob_records _ _).trans ((updChan_channel _ _ _).1.trans ((updChan_channel _ _ _).1.trans
      (testExportEnd_records _ _)))).calm
  · dsimp only [done]
    exact ((s.updJob_records _ _).trans (updChan_channel _ _ _).1).calm

theorem maskSet_calm (s : State) (l : Nat) (b : Bool) : Calm φ s (maskSet s l b).state := by
  unfold maskSet
  dsimp only [done]
  split
  · exact ((s.updLink_channel l _).trans (updPlay_channel _ _ _)).calm
  · exact (s.updLink_channel l _).calm

theorem configuredStation_calm (s : State) (l r p c : Nat) (e : Byte) : Calm φ s (configuredStation s l r p c e).state := by
  unfold configuredStation
  dsimp only [done]
  split <;> rfl

/-! ### Console port -/

theorem noticeRead_calm (s : State) : Calm φ s (noticeRead s).state := by
  unfold noticeRead
  split <;> rfl

theorem bulkTaken_calm (blind : ∀ x l, φ { x with buffer := l } = φ x) (s : State) (ch n : Nat) :
    Calm φ s (bulkTaken s ch n).state := blind (settings s) _

theorem warmChannel_calm (s : State) (ch : Nat) : Calm φ s (s.warmChannel ch) :=
  (s.quiet_records ch).calm.trans rfl

theorem warmLink_calm (s : State) (l : Fin 16) : Calm φ s (s.warmLink l) := by
  unfold warmLink
  split
  · exact .refl s
  · exact calm_reply s _ _ _ _ _

theorem warmStore_calm (s : State) : Calm φ s s.warmStore := by
  have k : ∀ q, Calm φ s { s with port := q } := fun q => rfl
  exact (k _).trans ((abandonScrub_store _).calm.trans (claimScrub_store _).calm)

theorem warm_calm (blind : ∀ x l, φ { x with buffer := l } = φ x) (s : State) : Calm φ s s.warm := by
  have last : ∀ t : State, Calm φ t { t with notices := [], overflowed := false, buffer := [], reserved := 0 } := fun t =>
    blind (settings t) _
  exact (Calm.foldl warmChannel_calm _ _).trans ((warmStore_calm _).trans
    ((Calm.foldl warmLink_calm _ _).trans (last _)))

/-! ### Messages and pedals -/

section Events

variable (s : State)

theorem takeInbound_calm (l : Nat) (tag : Byte) (r : Request) : Calm φ s (s.takeInbound l tag r) := by
  unfold takeInbound
  dsimp only
  split
  · exact (s.handOver_channel _ _).calm
  · exact (s.updLink_channel _ _).calm

theorem takeConsole_calm (tag : Byte) (r : Request) : Calm φ s (s.takeConsole tag r) := by
  unfold takeConsole
  split <;> exact rfl

theorem answerMalformed_calm (p : Port) (v : Verdict) : Calm φ s (s.answerMalformed p v) := by
  unfold answerMalformed
  split
  · exact .refl s
  · exact .refl s
  · split
    · rfl
    · exact (s.handOver_channel _ _).calm

theorem execInboundRequest_calm (l : Fin 16) (tag : Byte) (r : Request) :
    AnswersCalm φ s (execInboundRequest l tag r s) := ⟨_, rfl, calm_ite _ (takeInbound_calm s _ _ _) (.refl s)⟩

theorem execConsoleRequest_calm (tag : Byte) (r : Request) : AnswersCalm φ s (execConsoleRequest tag r s) :=
  ⟨_, rfl, takeConsole_calm s _ _⟩

theorem execMalformedMessage_calm (p : Port) (e : Envelope) : AnswersCalm φ s (execMalformedMessage p e s) := by
  refine ⟨_, rfl, ?_⟩
  split
  · exact answerMalformed_calm s _ _
  · exact calm_ite _ (answerMalformed_calm s _ _) (.refl s)

theorem execNoticeAck_calm (l : Fin 16) : AnswersCalm φ s (execNoticeAck l s) :=
  ⟨_, rfl, calm_ite _ (s.acknowledge_channel _).calm (.refl s)⟩

theorem recordPressed_calm (ch : Nat) : Calm φ s (s.recordPressed ch) := by
  unfold recordPressed
  dsimp only
  split
  · exact .refl s
  · split
    · split
      · exact .refl s
      · exact (s.updCapture_channel _ _).calm
    · exact (s.restoreCapture_channel _ _ _).calm
    all_goals exact .refl s

theorem frameArrived_calm (ch : Nat) (d : Frame) : Calm φ s (s.frameArrived ch d) := by
  unfold frameArrived
  split
  · exact .refl s
  · split
    · exact ((s.updCapture_channel _ _).1.trans (presentFrame_records _ _ _ _)).calm
    · exact .refl s

theorem execFrameArrival_calm (l : Fin 16) (d : Frame) : AnswersCalm φ s (execFrameArrival l d s) :=
  ⟨_, rfl, calm_ite _ (frameArrived_calm s _ _) (.refl s)⟩

theorem execRecordPress_calm (l : Fin 16) : AnswersCalm φ s (execRecordPress l s) :=
  ⟨_, rfl, calm_ite _ (recordPressed_calm s _) (.refl s)⟩

theorem execRecordRelease_calm (l : Fin 16) : AnswersCalm φ s (execRecordRelease l s) :=
  ⟨_, rfl, calm_ite _ (calm_ite _ (s.updCapture_channel _ _).calm (.refl s)) (.refl s)⟩

theorem execPlayPress_calm (l : Fin 16) : AnswersCalm φ s (execPlayPress l s) := by
  refine ⟨_, rfl, ?_⟩
  split
  · exact .refl s
  · exact calm_ite _ (s.startPlay_channel _ _).calm (.refl s)

theorem execPlayRelease_calm (l : Fin 16) : AnswersCalm φ s (execPlayRelease l s) := by
  refine ⟨_, rfl, ?_⟩
  split
  · exact .refl s
  · split
    · exact .refl s
    · exact (s.pausePlay_channel _).calm

theorem shuttlePressed_calm (ch : Nat) (p : Play) (d : Shuttle) : Calm φ s (s.shuttlePressed ch p d) :=
  ((s.setPosition_channel _ _).trans (updPlay_channel _ _ _)).calm

theorem execRewindPress_calm (l : Fin 16) : AnswersCalm φ s (execRewindPress l s) := by
  refine ⟨_, rfl, ?_⟩
  split
  · exact .refl s
  · exact shuttlePressed_calm s _ _ _

theorem execForwardPress_calm (l : Fin 16) : AnswersCalm φ s (execForwardPress l s) := by
  refine ⟨_, rfl, ?_⟩
  split
  · exact .refl s
  · exact shuttlePressed_calm s _ _ _

theorem execShuttleRelease_calm (l : Fin 16) (c : ShuttleControl) : AnswersCalm φ s (execShuttleRelease l c s) := by
  refine ⟨_, rfl, ?_⟩
  split
  · exact .refl s
  · exact calm_ite _ (s.updPlay_channel _ _).calm (.refl s)

/-! ### Events of the part -/

theorem timeoutExpires_calm (ch : Nat) : Calm φ s (s.timeoutExpires ch) := (s.abnormalEnd_records _ _).calm

theorem framePeriodOf_calm (ch : Nat) : Calm φ s (s.framePeriodOf ch) := by
  unfold framePeriodOf
  split
  · exact .refl s
  · split
    · exact .refl s
    · unfold capturePeriod
      split
      · exact .refl s
      · split
        · exact timeoutExpires_calm s _
        · exact (s.updCapture_channel _ _).calm
    · exact (s.playPeriod_records _ _).calm
    · exact (s.readbackPeriod_channel _ _).calm
    · exact .refl s

theorem execFramePeriod_calm (ch : Fin 16) : AnswersCalm φ s (execFramePeriod ch s) :=
  ⟨_, rfl, framePeriodOf_calm s _⟩

theorem execFrameTimeout_calm (ch : Fin 16) : AnswersCalm φ s (execFrameTimeout ch s) := by
  refine ⟨_, rfl, ?_⟩
  unfold frameTimeoutOf
  split
  · exact .refl s
  · exact calm_ite _ (timeoutExpires_calm s _) (.refl s)

theorem goDown_calm (l : Nat) : Calm φ s (s.goDown l) := by
  have k : Calm φ s (s.updLink l fun k => { k with up := false, outstanding := none, unsent := [] }) :=
    (s.updLink_channel l _).calm
  unfold goDown
  dsimp only
  split
  · exact k.trans ((quiet_records _ _).calm.trans (raise_store (State.emptySlots _ _) _).calm)
  · exact k.trans (raise_store _ _).calm

theorem execLinkDown_calm (l : Fin 16) : AnswersCalm φ s (execLinkDown l s) :=
  ⟨_, rfl, calm_ite _ (goDown_calm s _) (.refl s)⟩

theorem execLinkUp_calm (l : Fin 16) : AnswersCalm φ s (execLinkUp l s) := by
  refine ⟨_, rfl, ?_⟩
  split
  · exact .refl s
  · exact (s.updLink_channel l.val fun k => { k with up := true, sequence := 0 }).calm.trans (raise_store _ _).calm

theorem captureWritten_calm (a : Access) (ch : Nat) (j : Ref) (d : Frame) (c : Bool) :
    Calm φ s (s.captureWritten a ch j d c) := by
  have first : Calm φ s (s.endAccess a) := (s.endAccess_store a).calm
  have spoil : ∀ t : State, Calm φ t (t.spoilFrame a.claim.extent a.claim.frame) := fun t =>
    rfl
  have wrote : ∀ t : State, Calm φ t (t.writeFrame a.claim.extent a.claim.frame d) := fun t =>
    rfl
  have drop : ∀ t : State, Calm φ t (if t.jobCurrent j then t.dropTailIf j.idx a.claim.extent else t) := fun t => by
    split
    · exact (t.dropTailIf_records _ _).calm
    · exact .refl t
  have mark : Calm φ s (((s.endAccess a).spoilFrame a.claim.extent a.claim.frame).markDamaged a.claim.extent) :=
    first.trans ((spoil _).trans (markDamaged_store _ _).calm)
  unfold captureWritten
  dsimp only
  split
  · have k := mark.trans (raise_store _ (.storeError a.claim.extent .write)).calm
    split
    · exact k.trans ((drop _).trans (redestineFailed_records _ _ _ _ _).calm)
    · exact k.trans (loseTail_records _ _).calm
  · split
    · exact first.trans ((wrote _).trans ((markWritten_records _ _ _ _).calm.trans (placeHeads_records _ _ _).calm))
    · exact first.trans (wrote _)

theorem execCaptureWriteCompletion_calm (c : Bool) : AnswersCalm φ s (execCaptureWriteCompletion c s) := by
  refine ⟨_, rfl, ?_⟩
  split
  · exact .refl s
  · split
    · exact captureWritten_calm s _ _ _ _ _
    all_goals exact .refl s

theorem damage_calm (c : Bool) (t : State) (e : Nat) : Calm φ t (if c then t.damageByRead e else t) := by
  split
  · exact (t.damageByRead_records e).calm
  · exact .refl t

theorem execPlayReadCompletion_calm (c : Bool) : AnswersCalm φ s (execPlayReadCompletion c s) := by
  refine ⟨_, rfl, ?_⟩
  split
  · exact .refl s
  · rename_i a _
    have k := (s.endAccess_store a).calm.trans (damage_calm (φ := φ) c _ a.claim.extent)
    split
    · unfold playReadDone
      dsimp only
      split
      · split
        · split
          · exact k.trans (frameSent_records _ _ _ _ _ _ _).calm
          · exact k
        · split
          · exact k.trans (readbackSent_channel _ _ _ _ _ _).calm
          · exact k
        all_goals exact k
      · exact k
    all_goals exact .refl s

theorem exportReadDone_calm (blind : ∀ x l, φ { x with buffer := l } = φ x) (a : Access) (ch pos : Nat) (c : Bool) : Calm φ s (s.exportReadDone a ch pos c) := by
  have k := (s.endAccess_store a).calm.trans (damage_calm (φ := φ) c _ a.claim.extent)
  have place : ∀ (b : Bool) (t : State), Calm φ t (if b then { t with reserved := t.reserved - 1 } else t) := by
    intro b t
    split
    · exact rfl
    · exact .refl t
  have buf : ∀ (t : State) (l : List BufEntry), Calm φ t { t with buffer := l } := fun t l => blind (settings t) _
  have k2 := k.trans (place a.place _)
  unfold exportReadDone
  dsimp only
  split
  · exact k2.trans ((buf _ _).trans ((updChan_channel _ _ _).calm.trans (testExportEnd_records _ _).calm))
  · exact k2

theorem execExportReadCompletion_calm (blind : ∀ x l, φ { x with buffer := l } = φ x) (c : Bool) :
    AnswersCalm φ s (execExportReadCompletion c s) := by
  refine ⟨_, rfl, ?_⟩
  split
  · exact .refl s
  · split
    · exact exportReadDone_calm s blind _ _ _ _
    all_goals exact .refl s

theorem scrubGood_calm (e : Nat) : Calm φ s (s.scrubGood e) := by
  have freed : ∀ (t : State) (x : Ext) (l : List Nat), Calm φ t { t.setExt e x with freeList := l } := fun t x l =>
    rfl
  have left : Calm φ s { s with scrubList := s.scrubList.tail, scrubNext := 0, formatLeft := s.formatLeft - 1 } :=
    rfl
  unfold scrubGood
  dsimp only
  split
  · exact Calm.trans (t := { s with scrubNext := s.scrubNext + 1 }) rfl (claimScrub_store _).calm
  · exact left.trans ((freed _ _ _).trans ((testLow_store _).calm.trans (claimScrub_store _).calm))

theorem scrubDone_calm (a : Access) (c : Bool) : Calm φ s (s.scrubDone a c) := by
  have first : Calm φ s (s.endAccess a) := (s.endAccess_store a).calm
  have spoil : ∀ t : State, Calm φ t (t.spoilFrame a.claim.extent a.claim.frame) := fun t =>
    rfl
  have wrote : ∀ (t : State) (d : Frame), Calm φ t (t.writeFrame a.claim.extent a.claim.frame d) := fun t d =>
    rfl
  unfold scrubDone
  generalize silentFrame = d
  dsimp only
  split
  · exact first.trans ((spoil _).trans ((markDamaged_store _ _).calm.trans (raise_store _ _).calm))
  · split
    · exact first.trans ((wrote _ _).trans (scrubGood_calm _ _))
    · exact first.trans (wrote _ _)

theorem execScrubWriteCompletion_calm (c : Bool) : AnswersCalm φ s (execScrubWriteCompletion c s) := by
  refine ⟨_, rfl, ?_⟩
  split
  · exact .refl s
  · split
    · exact scrubDone_calm s _ _
    all_goals exact .refl s

theorem execBulkClaim_calm (ch : Fin 16) : AnswersCalm φ s (execBulkClaim ch s) := by
  refine ⟨_, rfl, ?_⟩
  unfold bulkClaimOf
  split
  · exact .refl s
  · dsimp only
    split
    · exact .refl s
    · split
      · exact (s.updChan_channel _ _).calm.trans (testExportEnd_records _ _).calm
      · exact Calm.trans (t := { s with reserved := s.reserved + 1 }) rfl
          ((updChan_channel _ _ _).calm.trans (makeClaim_store _ _).calm)

theorem execCompletionReport_calm (blind : ∀ x l, φ { x with reports := l } = φ x) :
    AnswersCalm φ s (execCompletionReport s) := by
  refine ⟨_, rfl, ?_⟩
  unfold completionReport
  split
  · exact .refl s
  · have k : ∀ l, Calm φ s { s with reports := l } := fun l => blind (settings s) _
    dsimp only
    split
    · exact (k _).trans ((updJob_calm _ _ _).trans (raise_store _ _).calm)
    · exact k _

theorem sweepCount_calm (j : Nat) : Calm φ s (s.sweepCount j) := updJob_calm s _ _

theorem sweepStep_calm (blind : ∀ x l, φ { x with retiring := l } = φ x) : Calm φ s s.sweepStep := by
  unfold sweepStep
  split
  · exact .refl s
  · rename_i j _ _
    split
    · split
      · exact (updJob_calm s _ _).trans ((mapCueAnchors_records _ _).calm.trans ((refreshParts_records _ _).calm.trans
          ((freeSeg_records _ _).calm.trans (sweepCount_calm _ _))))
      · exact updJob_calm s _ _
    · split
      · rename_i i b _ _
        have mid : ∀ (p : Prop) [Decidable p] (t : State) (f : Take → Take),
            Calm φ t (if p then { t with takes := Table.mapListed {} f t.takes } else t) := by
          intro p _ t f
          split
          · exact rfl
          · exact .refl t
        exact (updJob_calm s _ _).trans ((mid _ _ _).trans ((freeCue_records _ _).calm.trans (sweepCount_calm _ _)))
      · exact updJob_calm s _ _
    · split
      · exact (updJob_calm s _ _).trans ((freeTake_records _ _).calm.trans (sweepCount_calm _ _))
      · exact (s.raise_store _).calm.trans (blind (settings (s.raise _)) _)

theorem execSweepStep_calm (blind : ∀ x l, φ { x with retiring := l } = φ x) : AnswersCalm φ s (execSweepStep s) :=
  ⟨_, rfl, sweepStep_calm s blind⟩

end Events

theorem exec_calm (c : Instr) (s : State) (notReset : c ≠ .reset) : AnswersCalm (forgets c) s (exec c s) := by
  cases c with
  | reset => exact absurd rfl notReset
  | openJob l d c due =>
    exact show AnswersCalm _ s (execOpenJob l d c due s) from
      serve_calm fun _ => checked_calm <| openedJob_calm _ _ _ _ _ _
  | createJob n d c due f =>
    exact show AnswersCalm _ s (execCreateJob n d c due f s) from
      serve_calm fun _ => checked_calm <| createdJob_calm _ _ _ _ _ _
  | attach l r =>
    exact show AnswersCalm _ s (execAttach l r s) from serve_calm fun _ => checked_calm <| attachedJob_calm _ _ _
  | detach l r =>
    exact show AnswersCalm _ s (execDetach l r s) from serve_calm fun _ => checked_calm <| detachedJob_calm _ _
  | closeDictation p r =>
    exact show AnswersCalm _ s (execCloseDictation p r s) from
      serve_calm fun _ => checked_calm <| closedDictation_calm _ _ _
  | setJobAttributes r a =>
    exact show AnswersCalm _ s (execSetJobAttributes r a s) from
      serve_calm fun _ => checked_calm <| setAttributes_calm _ _ _
  | readJob p r => exact show AnswersCalm _ s (execReadJob p r s) from serve_calm_of_eq fun _ => checked_state _ _ _ rfl
  | findJob p n a b =>
    exact show AnswersCalm _ s (execFindJob p n a b s) from serve_calm fun _ => checked_calm <| foundJob_calm _ _ _ _ _
  | hold r => exact show AnswersCalm _ s (execHold r s) from serve_calm fun _ => checked_calm <| heldJob_calm _ _
  | unhold r =>
    exact show AnswersCalm _ s (execUnhold r s) from
      serve_calm fun _ => checked_calm <| updJob_calm s r.idx fun j => { j with held := false }
  | release p r =>
    exact show AnswersCalm (forgets (.release p r)) s (execRelease p r s) from
      serve_calm fun _ => checked_calm <| releasedJob_calm (fun _ _ => rfl) _ _ _
  | retiringStatus => exact show AnswersCalm _ s (execRetiringStatus s) from serve_calm_of_eq fun _ => rfl
  | readSegment p r =>
    exact show AnswersCalm _ s (execReadSegment p r s) from
      serve_calm_of_eq fun _ => checked_state _ _ _ (segmentRead_state _ _)
  | sealRange r a b c =>
    exact show AnswersCalm _ s (execSealRange r a b c s) from
      serve_calm fun _ => checked_calm <| sealedRange_calm _ _ _ _ _
  | paceRange r a b x =>
    exact show AnswersCalm _ s (execPaceRange r a b x s) from
      serve_calm fun _ => checked_calm <| pacedRange_calm _ _ _ _ _
  | placeCue p k l f =>
    exact show AnswersCalm _ s (execPlaceCue p k l f s) from serve_calm fun _ => checked_calm <| placedCue_calm _ _ _ _ _
  | removeCue p r =>
    exact show AnswersCalm _ s (execRemoveCue p r s) from serve_calm fun _ => checked_calm <| removedCue_calm _ _
  | readCue p r =>
    exact show AnswersCalm _ s (execReadCue p r s) from
      serve_calm_of_eq fun _ => checked_state _ _ _ (cueRead_state _ _ _)
  | cueAt p a => exact show AnswersCalm _ s (execCueAt p a s) from serve_calm_of_eq fun _ => cueAtAnswer_state _ _ _
  | lastCue p r => exact show AnswersCalm _ s (execLastCue p r s) from serve_calm_of_eq fun _ => lastCueAnswer_state _ _ _
  | findCue p a d x m st =>
    exact show AnswersCalm _ s (execFindCue p a d x m st s) from
      serve_calm_of_eq fun _ => findCueAnswer_state _ _ _ _ _ _ _
  | claimNext l =>
    exact show AnswersCalm _ s (execClaimNext l s) from serve_calm fun _ => checked_calm <| claimedNext_calm _ _ _
  | assign r n =>
    exact show AnswersCalm _ s (execAssign r n s) from serve_calm fun _ => checked_calm <| (giveTake_records _ _ _).calm
  | returnTake l r =>
    exact show AnswersCalm (forgets (.returnTake l r)) s (execReturnTake l r s) from
      serve_calm fun _ => checked_calm <| returnedTake_calm (fun _ _ => rfl) _ _ _
  | revoke r => exact show AnswersCalm _ s (execRevoke r s) from serve_calm fun _ => checked_calm <| revokedTake_calm _ _
  | rework r n =>
    exact show AnswersCalm _ s (execRework r n s) from serve_calm fun _ => checked_calm <| reworkedTake_calm _ _ _
  | readTake p r => exact show AnswersCalm _ s (execReadTake p r s) from serve_calm_of_eq fun _ => checked_state _ _ _ rfl
  | heldTakes l => exact show AnswersCalm _ s (execHeldTakes l s) from serve_calm_of_eq fun _ => rfl
  | queueEntry n =>
    exact show AnswersCalm _ s (execQueueEntry n s) from
      serve_calm_of_eq fun _ => checked_state _ _ _ (queueEntryAt_state _ _)
  | setBankMap a b c d =>
    exact show AnswersCalm (forgets (.setBankMap a b c d)) s (execSetBankMap a b c d s) from
      serve_calm fun _ => checked_calm <| mappedBanks_calm (fun _ _ => rfl) _ _
  | format =>
    exact show AnswersCalm (forgets (.format)) s (execFormat s) from
      serve_calm fun _ => checked_calm <| formattedStore_calm (fun _ _ => rfl) _
  | setPoolThreshold n =>
    exact show AnswersCalm (forgets (.setPoolThreshold n)) s (execSetPoolThreshold n s) from
      serve_calm fun _ => checked_calm <| thresholdSet_calm (fun _ _ => rfl) _ _
  | setBulkPriority a b c d e =>
    exact show AnswersCalm (forgets (.setBulkPriority a b c d e)) s (execSetBulkPriority a b c d e s) from
      serve_calm fun _ => checked_calm rfl
  | readExtent e => exact show AnswersCalm _ s (execReadExtent e s) from serve_calm_of_eq fun _ => checked_state _ _ _ rfl
  | readPool => exact show AnswersCalm _ s (execReadPool s) from serve_calm_of_eq fun _ => rfl
  | setCaptureMode l m =>
    exact show AnswersCalm _ s (execSetCaptureMode l m s) from serve_calm fun _ => setModeAnswer_calm _ _ _
  | sealMode l c =>
    exact show AnswersCalm _ s (execSealMode l c s) from serve_calm fun _ => checked_calm <| sealModeSet_calm _ _ _
  | captureSetup l a b r c n =>
    exact show AnswersCalm _ s (execCaptureSetup l a b r c n s) from
      serve_calm fun _ => checked_calm <| setupCapture_calm _ _ _ _ _ _ _
  | record l => exact show AnswersCalm _ s (execRecord l s) from serve_calm fun _ => recordAnswer_calm _ _
  | pause l => exact show AnswersCalm _ s (execPause l s) from serve_calm fun _ => pauseAnswer_calm _ _
  | readback l x st =>
    exact show AnswersCalm _ s (execReadback l x st s) from serve_calm fun _ => readbackAnswer_calm _ _ _ _
  | readbackEnd l => exact show AnswersCalm _ s (execReadbackEnd l s) from serve_calm fun _ => readbackEndAnswer_calm _ _
  | play l => exact show AnswersCalm _ s (execPlay l s) from serve_calm fun _ => playAnswer_calm _ _
  | loadTake l r =>
    exact show AnswersCalm _ s (execLoadTake l r s) from serve_calm fun _ => checked_calm <| loadedTake_calm _ _ _
  | halt l => exact show AnswersCalm _ s (execHalt l s) from serve_calm fun _ => haltAnswer_calm _ _
  | rewind l n =>
    exact show AnswersCalm _ s (execRewind l n s) from serve_calm fun _ => checked_calm <| moveAnswer_calm _ _ _ _
  | forward l n =>
    exact show AnswersCalm _ s (execForward l n s) from serve_calm fun _ => checked_calm <| moveAnswer_calm _ _ _ _
  | jump l t => exact show AnswersCalm _ s (execJump l t s) from serve_calm fun _ => jumpAnswer_calm _ _ _
  | returnPlay l => exact show AnswersCalm _ s (execReturnPlay l s) from serve_calm fun _ => returnAnswer_calm _ _
  | playSetup l d => exact show AnswersCalm _ s (execPlaySetup l d s) from serve_calm fun _ => playSetupAnswer_calm _ _ _
  | setProfile l a b f =>
    exact show AnswersCalm _ s (execSetProfile l a b f s) from
      serve_calm fun _ => checked_calm <| profileSet_calm _ _ _ _ _
  | readProfiles p c =>
    exact show AnswersCalm _ s (execReadProfiles p c s) from serve_calm_of_eq fun _ => checked_state _ _ _ rfl
  | bindChannel ch b => exact show AnswersCalm _ s (execBindChannel ch b s) from serve_calm fun _ => checked_calm rfl
  | setFrameTimeout ch n =>
    exact show AnswersCalm _ s (execSetFrameTimeout ch n s) from serve_calm fun _ => checked_calm <| timeoutSet_calm _ _ _
  | readChannel p c =>
    exact show AnswersCalm _ s (execReadChannel p c s) from serve_calm_of_eq fun _ => checked_state _ _ _ rfl
  | exportJob r ch a b =>
    exact show AnswersCalm _ s (execExportJob r ch a b s) from
      serve_calm fun _ => checked_calm <| startedExport_calm _ _ _ _ _
  | exportStop ch =>
    exact show AnswersCalm _ s (execExportStop ch s) from
      serve_calm fun _ => checked_calm <| (endExport_records _ _ _ _).calm
  | configureStation l r p c e =>
    exact show AnswersCalm _ s (execConfigureStation l r p c e s) from
      serve_calm fun _ => checked_calm <| configuredStation_calm _ _ _ _ _ _
  | readLink l => exact show AnswersCalm _ s (execReadLink l s) from serve_calm_of_eq fun _ => checked_state _ _ _ rfl
  | pedalMask l v =>
    exact show AnswersCalm _ s (execPedalMask l v s) from serve_calm fun _ => checked_calm <| maskSet_calm _ _ _
  | readNotice => exact show AnswersCalm _ s (execReadNotice s) from serve_calm fun _ => noticeRead_calm _
  | acknowledgeNotice ch =>
    exact show AnswersCalm _ s (execAcknowledgeNotice ch s) from
      serve_calm fun _ => checked_calm <| (acknowledge_channel _ _).calm
  | bulkRead ch n =>
    exact show AnswersCalm (forgets (.bulkRead ch n)) s (execBulkRead ch n s) from
      serve_calm fun _ => checked_calm <| bulkTaken_calm (fun _ _ => rfl) _ _ _
  | warmReset =>
    exact show AnswersCalm (forgets (.warmReset)) s (execWarmReset s) from
      serve_calm fun _ => warm_calm (fun _ _ => rfl) _
  | malformedMessage => exact execMalformedMessage_calm ..
  | noticeAck => exact execNoticeAck_calm ..
  | frameArrival => exact execFrameArrival_calm ..
  | recordPress => exact execRecordPress_calm ..
  | recordRelease => exact execRecordRelease_calm ..
  | playPress => exact execPlayPress_calm ..
  | playRelease => exact execPlayRelease_calm ..
  | rewindPress => exact execRewindPress_calm ..
  | forwardPress => exact execForwardPress_calm ..
  | shuttleRelease => exact execShuttleRelease_calm ..
  | framePeriod => exact execFramePeriod_calm ..
  | frameTimeout => exact execFrameTimeout_calm ..
  | linkDown => exact execLinkDown_calm ..
  | linkUp => exact execLinkUp_calm ..
  | captureWriteCompletion => exact execCaptureWriteCompletion_calm ..
  | playReadCompletion => exact execPlayReadCompletion_calm ..
  | exportReadCompletion => exact execExportReadCompletion_calm s (fun _ _ => rfl) _
  | scrubWriteCompletion => exact execScrubWriteCompletion_calm ..
  | bulkClaim => exact execBulkClaim_calm ..
  | completionReport => exact execCompletionReport_calm s fun _ _ => rfl
  | sweepStep => exact execSweepStep_calm s fun _ _ => rfl
  | inboundRequest => exact execInboundRequest_calm ..
  | consoleRequest => exact execConsoleRequest_calm ..

/-! ### Each setting and its command -/

section Owners

variable {c : Instr} {x : Settings}

theorem bank_forgets (h : ∀ w x y z, c ≠ .setBankMap w x y z) : (forgets c x).bank = x.bank := by
  unfold forgets
  split
  · exact absurd rfl (h _ _ _ _)
  all_goals rfl

theorem formatted_forgets (h : c ≠ .format) : (forgets c x).formatted = x.formatted := by
  unfold forgets
  split
  case h_2 => exact absurd rfl h
  all_goals rfl

theorem threshold_forgets (h : ∀ n, c ≠ .setPoolThreshold n) : (forgets c x).threshold = x.threshold := by
  unfold forgets
  split
  case h_3 => exact absurd rfl (h _)
  all_goals rfl

theorem bulk_forgets (h : ∀ v w x y z, c ≠ .setBulkPriority v w x y z) :
    (forgets c x).bulkAbove = x.bulkAbove ∧ (forgets c x).bulk14 = x.bulk14 ∧ (forgets c x).bulk15 = x.bulk15 := by
  unfold forgets
  split
  case h_4 => exact absurd rfl (h _ _ _ _ _)
  all_goals exact ⟨rfl, rfl, rfl⟩

theorem retiring_forgets (h : ∀ p r, c ≠ .release p r) (k : c ≠ .sweepStep) : (forgets c x).retiring = x.retiring := by
  unfold forgets
  split
  case h_5 => exact absurd rfl (h _ _)
  case h_6 => exact absurd rfl k
  all_goals rfl

theorem buffer_forgets (h : ∀ n k, c ≠ .bulkRead n k) (g : ∀ k, c ≠ .exportReadCompletion k) (k : c ≠ .warmReset) :
    (forgets c x).buffer = x.buffer := by
  unfold forgets
  split
  case h_7 => exact absurd rfl (h _ _)
  case h_8 => exact absurd rfl (g _)
  case h_9 => exact absurd rfl k
  all_goals rfl

theorem reports_forgets (h : ∀ l r, c ≠ .returnTake l r) (k : c ≠ .completionReport) :
    (forgets c x).reports = x.reports := by
  unfold forgets
  split
  case h_10 => exact absurd rfl (h _ _)
  case h_11 => exact absurd rfl k
  all_goals rfl

end Owners

/-- Settles O9. -/
theorem settingsChangeOnlyByTheirCommands : Obligations.SettingsChangeOnlyByTheirCommands := by
  unfold Obligations.SettingsChangeOnlyByTheirCommands
  intro c s t ran notReset
  obtain ⟨u, answers, calm⟩ := exec_calm c s notReset
  obtain rfl := Host.Outcome.next.inj (ran.symm.trans answers)
  have field {α : Type} {g : Settings → α} (kept : ∀ x, g (forgets c x) = g x) : g (settings t) = g (settings s) := by
    rw [← kept, calm, kept]
  refine ⟨fun h => field fun _ => bank_forgets h, fun h => field fun _ => formatted_forgets h,
    fun h => field fun _ => threshold_forgets h, fun h => ?_, fun h k => field fun _ => retiring_forgets h k,
    fun h g k => field fun _ => buffer_forgets h g k, fun h k => field fun _ => reports_forgets h k⟩
  exact ⟨field (g := Settings.bulkAbove) fun _ => (bulk_forgets h).1, field (g := Settings.bulk14) fun _ => (bulk_forgets h).2.1,
    field (g := Settings.bulk15) fun _ => (bulk_forgets h).2.2⟩

end Sys2Proof.Machine
end

section
/-! ## Streams that end

What a channel's stream leaves as it ends outright: the channel IDLE, the job of its capture or export without it, the
resume position of its play (R128, R146, R151); with it a link going DOWN or UP and WARM RESET (R179 to R181, R202). -/

set_option Elab.async false

namespace Sys2Proof.Machine
open State

/-! ### What the ends of streams may change -/

/-- `u` differs from `s` at most in jobs, placements, takes, channels and the arbiter's claims. -/
def EndsOnly (s u : State) : Prop :=
  ∃ jobs places takes chans waiting reserved port, u = { s with
    jobs := jobs, places := places, takes := takes, chans := chans, waiting := waiting, reserved := reserved, port := port }

theorem EndsOnly.refl (s : State) : EndsOnly s s := ⟨_, _, _, _, _, _, _, rfl⟩

theorem EndsOnly.trans {s t u : State} (h : EndsOnly s t) (k : EndsOnly t u) : EndsOnly s u := by
  obtain ⟨_, _, _, _, _, _, _, rfl⟩ := h
  obtain ⟨_, _, _, _, _, _, _, rfl⟩ := k
  exact ⟨_, _, _, _, _, _, _, rfl⟩

/-- A job as the end of its capture leaves it (R128). -/
def captureLeft (x : Job) : Job := { x with chan := none, state := if x.state = .live then .setAside else x.state }

/-- What the ends of captures and exports may change in a job. -/
def JobLeft (x y : Job) : Prop :=
  ∃ ch st busy, y = { x with chan := ch, state := st, exportBusy := busy } ∧ (ch = x.chan ∨ ch = none) ∧
    (st = x.state ∨ (st = .setAside ∧ x.state = .live)) ∧ (busy = x.exportBusy ∨ busy = false)

theorem JobLeft.refl (x : Job) : JobLeft x x := ⟨_, _, _, rfl, .inl rfl, .inl rfl, .inl rfl⟩

theorem JobLeft.trans {x y z : Job} (h : JobLeft x y) (k : JobLeft y z) : JobLeft x z := by
  obtain ⟨ch, st, busy, rfl, hch, hst, hbusy⟩ := h
  obtain ⟨ch', st', busy', rfl, kch, kst, kbusy⟩ := k
  refine ⟨ch', st', busy', rfl, ?_, ?_, ?_⟩
  · rcases kch with rfl | rfl
    · exact hch
    · exact .inr rfl
  · rcases kst with rfl | ⟨rfl, live⟩
    · exact hst
    · rcases hst with rfl | ⟨rfl, was⟩
      · exact .inr ⟨rfl, live⟩
      · exact .inr ⟨rfl, was⟩
  · rcases kbusy with rfl | rfl
    · exact hbusy
    · exact .inr rfl

theorem jobLeft_captureLeft (x : Job) : JobLeft x (captureLeft x) := by
  refine ⟨none, _, x.exportBusy, rfl, .inr rfl, ?_, .inl rfl⟩
  split
  next live => exact .inr ⟨rfl, live⟩
  · exact .inl rfl

/-- What the ends of plays may change in a take. -/
def TakeLeft (x y : Take) : Prop :=
  y.issue = x.issue ∧ y.body.map (fun b => { b with resume := none }) = x.body.map fun b => { b with resume := none }

theorem TakeLeft.refl (x : Take) : TakeLeft x x := ⟨rfl, rfl⟩

theorem TakeLeft.trans {x y z : Take} (h : TakeLeft x y) (k : TakeLeft y z) : TakeLeft x z :=
  ⟨k.1.trans h.1, k.2.trans h.2⟩

/-! ### The end of one stream -/

theorem endCapture_eq {s : State} {ch : Nat} {job : Ref} {ctx : CapCtx} (fields : s.captureFields ch = some (job, ctx)) :
    s.endCapture ch =
      (((s.withdraw ch).setPlacement ch {}).updChan ch Channel.idled).updJob job.idx captureLeft := by
  unfold endCapture
  rw [fields]
  rfl

theorem stopExport_eq {s : State} {ch : Nat} {e : Exporting} (exporting : s.exportOf ch = some e) :
    s.stopExport ch = (s.stopStream ch).updJob e.job.idx fun j => { j with exportBusy := false } := by
  unfold stopExport
  rw [exporting]

section Idled

variable {s : State} {ch : Nat}

theorem chan_updChan (s : State) (ch : Nat) (f : Channel → Channel) : (s.updChan ch f).chan ch = f (s.chan ch) := by
  rw [updChan_eq, chan_setChan]

theorem chan_updChan_ne (s : State) {ch k : Nat} (other : k ≠ ch) (f : Channel → Channel) :
    (s.updChan ch f).chan k = s.chan k :=
  chan_setChan_ne _ _ _ _ other

theorem idled_idled (c : Channel) : c.idled.idled = c.idled := rfl

theorem idled_stopped (c : Channel) : c.stopped.idled = c.idled := rfl

/-- The four ways in which a channel becomes IDLE. -/
inductive QuietCase (s : State) (ch : Nat) : Prop
  | idle (stream : (s.chan ch).stream = .idle) (eq : s.quiet ch = s.updChan ch Channel.idled)
  | capture (job : Ref) (ctx : CapCtx) (fields : s.captureFields ch = some (job, ctx))
      (eq : s.quiet ch = (s.endCapture ch).updChan ch Channel.idled)
  | play (p : Play) (stream : (s.chan ch).stream = .play p)
      (eq : s.quiet ch = ((s.writeResume p.take p.pos).stopStream ch).updChan ch Channel.idled)
  | exporting (e : Exporting) (stream : (s.chan ch).stream = .exporting e)
      (eq : s.quiet ch = (s.stopExport ch).updChan ch Channel.idled)

theorem quiet_cases (s : State) (ch : Nat) : QuietCase s ch := by
  cases stream : (s.chan ch).stream with
  | idle => exact .idle stream (by unfold quiet; rw [stream])
  | capture c => exact .capture _ _ (captureFields_capture stream) (by unfold quiet; rw [stream])
  | readback r => exact .capture _ _ (captureFields_readback stream) (by unfold quiet; rw [stream])
  | play p => exact .play p stream (by unfold quiet; rw [stream]; rw [dropPlay_of_play stream])
  | exporting e => exact .exporting e stream (by unfold quiet; rw [stream])

theorem captureFields_ne_none (capture : ∃ x, s.captureFields ch = some x) :
    s.playOf ch = none ∧ s.exportOf ch = none ∧ (s.chan ch).stream ≠ .idle := by
  obtain ⟨x, fields⟩ := capture
  unfold captureFields at fields
  unfold playOf exportOf
  split at fields
  · next stream => simp [stream]
  · next stream => simp [stream]
  all_goals cases fields

theorem quiet_ends (s : State) (ch : Nat) : EndsOnly s (s.quiet ch) := by
  cases quiet_cases s ch with
  | idle _ eq => exact ⟨_, _, _, _, _, _, _, eq⟩
  | capture _ _ fields eq => rw [eq, endCapture_eq fields]; exact ⟨_, _, _, _, _, _, _, rfl⟩
  | play _ _ eq => exact ⟨_, _, _, _, _, _, _, eq⟩
  | exporting e stream eq => rw [eq, stopExport_eq (exportOf_eq stream)]; exact ⟨_, _, _, _, _, _, _, rfl⟩

theorem chan_quiet (s : State) (ch : Nat) : (s.quiet ch).chan ch = (s.chan ch).idled := by
  cases quiet_cases s ch with
  | idle _ eq => rw [eq, chan_updChan]
  | capture job _ fields eq =>
    rw [eq, chan_updChan, endCapture_eq fields, updJob_eq, chan_setJob, chan_updChan, chan_setPlacement, withdraw_chan]
    rfl
  | play p _ eq => rw [eq, chan_updChan, chan_stopStream]; rfl
  | exporting e stream eq =>
    rw [eq, chan_updChan, stopExport_eq (exportOf_eq stream), updJob_eq, chan_setJob, chan_stopStream]
    rfl

theorem chan_quiet_ne (s : State) {ch k : Nat} (other : k ≠ ch) : (s.quiet ch).chan k = s.chan k := by
  cases quiet_cases s ch with
  | idle _ eq => rw [eq, chan_updChan_ne _ other]
  | capture job _ fields eq =>
    rw [eq, chan_updChan_ne _ other, endCapture_eq fields, updJob_eq, chan_setJob, chan_updChan_ne _ other]
    rfl
  | play p _ eq => rw [eq, chan_updChan_ne _ other, chan_stopStream_ne _ other]; rfl
  | exporting e stream eq =>
    rw [eq, chan_updChan_ne _ other, stopExport_eq (exportOf_eq stream), updJob_eq, chan_setJob, chan_stopStream_ne _ other]

/-- The claims of a channel that had a stream leave the arbiter. -/
theorem waiting_quiet {c : Claim} (mem : c ∈ (s.quiet ch).waiting) :
    (s.chan ch).stream = .idle ∨ c.use.chan? ≠ some ch := by
  have withdrawn (h : c ∈ s.waiting.filter fun c => c.use.chan? != some ch) : c.use.chan? ≠ some ch := by
    simpa using (List.mem_filter.1 h).2
  cases quiet_cases s ch with
  | idle stream _ => exact .inl stream
  | capture job _ fields eq => rw [eq, endCapture_eq fields] at mem; exact .inr (withdrawn mem)
  | play p _ eq => rw [eq] at mem; exact .inr (withdrawn mem)
  | exporting e stream eq => rw [eq, stopExport_eq (exportOf_eq stream)] at mem; exact .inr (withdrawn mem)

/-! The job of the stream -/

theorem job_quiet_of_capture {job : Ref} {ctx : CapCtx} (fields : s.captureFields ch = some (job, ctx)) :
    (s.quiet ch).job job.idx = captureLeft (s.job job.idx) := by
  have ended : (s.endCapture ch).job job.idx = captureLeft (s.job job.idx) := by
    rw [endCapture_eq fields, updJob_eq, job_setJob]
    rfl
  obtain ⟨plays, exports, busy⟩ := captureFields_ne_none ⟨_, fields⟩
  cases quiet_cases s ch with
  | idle stream _ => exact absurd stream busy
  | capture _ _ _ eq => rw [eq]; exact ended
  | play p stream _ => rw [playOf_eq stream] at plays; cases plays
  | exporting e stream _ => rw [exportOf_eq stream] at exports; cases exports

theorem job_quiet_of_export {e : Exporting} (exporting : s.exportOf ch = some e) :
    (s.quiet ch).job e.job.idx = { s.job e.job.idx with exportBusy := false } := by
  have ended : (s.stopExport ch).job e.job.idx = { s.job e.job.idx with exportBusy := false } := by
    rw [stopExport_eq exporting, updJob_eq, job_setJob]
    rfl
  cases quiet_cases s ch with
  | exporting _ _ eq => rw [eq]; exact ended
  | idle stream _ => unfold exportOf at exporting; rw [stream] at exporting; cases exporting
  | capture _ _ fields _ => rw [(captureFields_ne_none ⟨_, fields⟩).2.1] at exporting; cases exporting
  | play p stream _ => unfold exportOf at exporting; rw [stream] at exporting; cases exporting

theorem job_quiet_of_other {i : Nat} (captures : ∀ x, s.captureFields ch = some x → x.1.idx ≠ i)
    (exports : ∀ e, s.exportOf ch = some e → e.job.idx ≠ i) : (s.quiet ch).job i = s.job i := by
  cases quiet_cases s ch with
  | idle _ eq => rw [eq]; rfl
  | capture job ctx fields eq =>
    rw [eq, endCapture_eq fields]
    exact job_setJob_ne _ _ _ _ (captures _ fields).symm
  | play p _ eq => rw [eq]; rfl
  | exporting e stream eq =>
    rw [eq, stopExport_eq (exportOf_eq stream)]
    exact job_setJob_ne _ _ _ _ (exports _ (exportOf_eq stream)).symm

theorem job_quiet (s : State) (ch i : Nat) : JobLeft (s.job i) ((s.quiet ch).job i) := by
  by_cases captures : ∃ x, s.captureFields ch = some x ∧ x.1.idx = i
  · obtain ⟨⟨job, ctx⟩, fields, rfl⟩ := captures
    rw [job_quiet_of_capture fields]
    exact jobLeft_captureLeft _
  · by_cases exports : ∃ e, s.exportOf ch = some e ∧ e.job.idx = i
    · obtain ⟨e, exporting, rfl⟩ := exports
      rw [job_quiet_of_export exporting]
      exact ⟨_, _, _, rfl, .inl rfl, .inl rfl, .inr rfl⟩
    · rw [job_quiet_of_other (fun x fields same => captures ⟨x, fields, same⟩)
        fun e exporting same => exports ⟨e, exporting, same⟩]
      exact .refl _

/-! The take of the stream -/

theorem take_quiet_of_play {p : Play} (plays : s.playOf ch = some p) :
    (s.quiet ch).take p.take.idx = { s.take p.take.idx with
      body := (s.take p.take.idx).body.map fun b => { b with resume := some p.pos } } := by
  cases quiet_cases s ch with
  | play q stream eq =>
    obtain rfl : q = p := Option.some.inj ((playOf_eq stream).symm.trans plays)
    rw [eq]
    exact take_setTake _ _ _
  | idle stream _ => unfold playOf at plays; rw [stream] at plays; cases plays
  | capture _ _ fields _ => rw [(captureFields_ne_none ⟨_, fields⟩).1] at plays; cases plays
  | exporting e stream _ => unfold playOf at plays; rw [stream] at plays; cases plays

theorem take_quiet_of_other {i : Nat} (plays : ∀ p, s.playOf ch = some p → p.take.idx ≠ i) :
    (s.quiet ch).take i = s.take i := by
  cases quiet_cases s ch with
  | idle _ eq => rw [eq]; rfl
  | capture job ctx fields eq => rw [eq, endCapture_eq fields]; rfl
  | play p stream eq => rw [eq]; exact take_setTake_ne _ _ _ _ (plays _ (playOf_eq stream)).symm
  | exporting e stream eq => rw [eq, stopExport_eq (exportOf_eq stream)]; rfl

theorem take_quiet (s : State) (ch i : Nat) : TakeLeft (s.take i) ((s.quiet ch).take i) := by
  by_cases plays : ∃ p, s.playOf ch = some p ∧ p.take.idx = i
  · obtain ⟨p, playing, rfl⟩ := plays
    rw [take_quiet_of_play playing]
    refine ⟨rfl, ?_⟩
    cases (s.take p.take.idx).body <;> rfl
  · rw [take_quiet_of_other fun p playing same => plays ⟨p, playing, same⟩]
    exact .refl _

end Idled

/-! ### A channel emptied: its stream and its notices -/

theorem chan_emptySlots (s : State) (ch : Nat) :
    (s.emptySlots ch).chan ch = { s.chan ch with slot := none, second := none } :=
  chan_updChan _ _ _

theorem chan_emptySlots_ne (s : State) {ch k : Nat} (other : k ≠ ch) : (s.emptySlots ch).chan k = s.chan k :=
  chan_updChan_ne _ other _

/-- A channel whose stream and notices have gone. -/
def Channel.cleared (c : Channel) : Channel := { c.idled with slot := none, second := none }

theorem chan_warmChannel (s : State) (ch : Nat) : (s.warmChannel ch).chan ch = (s.chan ch).cleared := by
  rw [warmChannel, chan_emptySlots, chan_quiet]
  rfl

theorem chan_warmChannel_ne (s : State) {ch k : Nat} (other : k ≠ ch) : (s.warmChannel ch).chan k = s.chan k := by
  rw [warmChannel, chan_emptySlots_ne _ other, chan_quiet_ne _ other]

theorem warmChannel_ends (s : State) (ch : Nat) : EndsOnly s (s.warmChannel ch) :=
  (quiet_ends s ch).trans ⟨_, _, _, _, _, _, _, rfl⟩

/-! ### Links DOWN and UP (R179 to R181) -/

theorem exec_linkUp_eq {l : Fin 16} {s : State} (down : (s.link l).up = false) : exec (.linkUp l) s = .next (s.goUp l) := by
  change Host.Outcome.next _ = _
  rw [if_neg (by simp [down])]

theorem exec_linkDown_eq {l : Fin 16} {s : State} (up : (s.link l).up = true) : exec (.linkDown l) s = .next (s.goDown l) := by
  change Host.Outcome.next _ = _
  rw [if_pos up]

/-- The link record of a link gone DOWN, and nothing else (R180). -/
def unlinked (s : State) (l : Nat) : State := s.updLink l fun k => { k with up := false, outstanding := none, unsent := [] }

theorem goDown_of_bulk {s : State} {l : Nat} (bound : (s.chan l).binding = .bulk) :
    s.goDown l = (unlinked s l).raise (.linkDown l (s.link l).role (s.link l).person none none) := by
  unfold goDown
  exact if_neg (by simp [bound])

theorem goDown_of_link {s : State} {l : Nat} (bound : (s.chan l).binding = .link) :
    s.goDown l = ((unlinked s l).warmChannel l).raise (.linkDown l (s.link l).role (s.link l).person
      ((s.captureFields l).map Prod.fst) (s.chan l).loaded) := by
  unfold goDown
  exact if_pos bound

theorem linkSetTo_unlinked (s : State) (l : Nat) :
    LinkSetTo s (unlinked s l) l { s.link l with up := false, outstanding := none, unsent := [] } := by
  rw [unlinked, updLink_eq]
  exact linkSetTo_setLink s l _

/-- Settles O56. -/
theorem linksGoUpAndDown : Obligations.LinksGoUpAndDown := by
  unfold Obligations.LinksGoUpAndDown
  refine ⟨fun l s down => ?_, fun l s up bound => ?_, fun l s up bound => ?_⟩
  · refine ⟨s.updLink l fun k => { k with up := true, sequence := 0 }, exec_linkUp_eq down, ?_⟩
    rw [updLink_eq]
    exact linkSetTo_setLink s l _
  · exact ⟨unlinked s l, (exec_linkDown_eq up).trans (congrArg _ (goDown_of_bulk bound)), linkSetTo_unlinked s l⟩
  · obtain ⟨link, others, _⟩ := linkSetTo_unlinked s l
    have chan := chan_warmChannel (unlinked s l) l
    obtain ⟨_, _, _, _, _, _, _, ended⟩ := warmChannel_ends (unlinked s l) l
    have links : ((unlinked s l).warmChannel l).links = (unlinked s l).links := (congrArg State.links ended :)
    have link_eq (k : Nat) : ((unlinked s l).warmChannel l).link k = (unlinked s l).link k := by
      rw [State.link, links]
      rfl
    refine ⟨(unlinked s l).warmChannel l, (exec_linkDown_eq up).trans (congrArg _ (goDown_of_link bound)),
      (link_eq l).trans link, by rw [chan]; rfl, by rw [chan]; rfl, by rw [chan]; rfl, by rw [chan]; rfl,
      fun c mem => waiting_quiet (s := unlinked s l) mem, fun p stream => ?_, fun job ctx fields => ?_,
      fun k other => ⟨(link_eq k).trans (others k other), chan_warmChannel_ne _ other⟩,
      (congrArg State.segs ended :), (congrArg State.cues ended :), (congrArg State.notices ended :)⟩
    · exact take_quiet_of_play (s := unlinked s l) (playOf_eq stream)
    · exact job_quiet_of_capture (s := unlinked s l) fields


/-! ### Every channel emptied -/

section Channels

variable {s u : State} {ch : Nat}

theorem captureFields_congr (chan : u.chan ch = s.chan ch) : u.captureFields ch = s.captureFields ch := by
  rw [captureFields, chan]
  rfl

theorem exportOf_congr (chan : u.chan ch = s.chan ch) : u.exportOf ch = s.exportOf ch := by
  rw [exportOf, chan]
  rfl

theorem playOf_congr (chan : u.chan ch = s.chan ch) : u.playOf ch = s.playOf ch := by
  rw [playOf, chan]
  rfl

theorem foldl_warmChannel_ends (cs : List Nat) (s : State) : EndsOnly s (cs.foldl warmChannel s) := by
  induction cs generalizing s with
  | nil => exact .refl s
  | cons c rest ih => exact (warmChannel_ends s c).trans (ih _)

theorem chan_foldl_warmChannel_of_not_mem {cs : List Nat} (absent : ch ∉ cs) (s : State) :
    (cs.foldl warmChannel s).chan ch = s.chan ch := by
  induction cs generalizing s with
  | nil => rfl
  | cons c rest ih =>
    rw [List.mem_cons, not_or] at absent
    exact (ih absent.2 _).trans (chan_warmChannel_ne s absent.1)

theorem chan_foldl_warmChannel {cs : List Nat} (distinct : cs.Nodup) (mem : ch ∈ cs) (s : State) :
    (cs.foldl warmChannel s).chan ch = (s.chan ch).cleared := by
  induction cs generalizing s with
  | nil => cases mem
  | cons c rest ih =>
    obtain ⟨absent, apart⟩ := List.nodup_cons.1 distinct
    rw [List.foldl_cons]
    rcases List.mem_cons.1 mem with rfl | mem
    · rw [chan_foldl_warmChannel_of_not_mem absent, chan_warmChannel]
    · rw [ih apart mem, chan_warmChannel_ne s (ne_of_mem_of_not_mem mem absent)]

theorem job_foldl_warmChannel (cs : List Nat) (s : State) (i : Nat) :
    JobLeft (s.job i) ((cs.foldl warmChannel s).job i) := by
  induction cs generalizing s with
  | nil => exact .refl _
  | cons c rest ih => exact (job_quiet s c i).trans (ih (s.warmChannel c))

theorem take_foldl_warmChannel (cs : List Nat) (s : State) (i : Nat) :
    TakeLeft (s.take i) ((cs.foldl warmChannel s).take i) := by
  induction cs generalizing s with
  | nil => exact .refl _
  | cons c rest ih => exact (take_quiet s c i).trans (ih (s.warmChannel c))

theorem job_foldl_warmChannel_of_other {cs : List Nat} (distinct : cs.Nodup) {s : State} {i : Nat}
    (captures : ∀ c ∈ cs, ∀ x, s.captureFields c = some x → x.1.idx ≠ i)
    (exports : ∀ c ∈ cs, ∀ e, s.exportOf c = some e → e.job.idx ≠ i) : (cs.foldl warmChannel s).job i = s.job i := by
  induction cs generalizing s with
  | nil => rfl
  | cons c rest ih =>
    obtain ⟨absent, apart⟩ := List.nodup_cons.1 distinct
    have chan {k : Nat} (mem : k ∈ rest) : (s.warmChannel c).chan k = s.chan k :=
      chan_warmChannel_ne s (ne_of_mem_of_not_mem mem absent)
    refine (ih apart (fun k mem x fields => ?_) fun k mem e exporting => ?_).trans
      (job_quiet_of_other (captures c List.mem_cons_self) (exports c List.mem_cons_self))
    · exact captures k (List.mem_cons_of_mem _ mem) x (by rw [← captureFields_congr (chan mem)]; exact fields)
    · exact exports k (List.mem_cons_of_mem _ mem) e (by rw [← exportOf_congr (chan mem)]; exact exporting)

theorem take_foldl_warmChannel_of_other {cs : List Nat} (distinct : cs.Nodup) {s : State} {i : Nat}
    (plays : ∀ c ∈ cs, ∀ p, s.playOf c = some p → p.take.idx ≠ i) : (cs.foldl warmChannel s).take i = s.take i := by
  induction cs generalizing s with
  | nil => rfl
  | cons c rest ih =>
    obtain ⟨absent, apart⟩ := List.nodup_cons.1 distinct
    have chan {k : Nat} (mem : k ∈ rest) : (s.warmChannel c).chan k = s.chan k :=
      chan_warmChannel_ne s (ne_of_mem_of_not_mem mem absent)
    refine (ih apart fun k mem p playing => ?_).trans (take_quiet_of_other (plays c List.mem_cons_self))
    exact plays k (List.mem_cons_of_mem _ mem) p (by rw [← playOf_congr (chan mem)]; exact playing)

/-- The job of a capture that ended is without it, whatever ends after. -/
theorem job_foldl_warmChannel_of_capture {cs : List Nat} (distinct : cs.Nodup) (mem : ch ∈ cs) {s : State} {job : Ref}
    {ctx : CapCtx} (fields : s.captureFields ch = some (job, ctx)) :
    ((cs.foldl warmChannel s).job job.idx).chan = none ∧ ((cs.foldl warmChannel s).job job.idx).state ≠ .live := by
  induction cs generalizing s with
  | nil => cases mem
  | cons c rest ih =>
    obtain ⟨absent, apart⟩ := List.nodup_cons.1 distinct
    rw [List.foldl_cons]
    rcases List.mem_cons.1 mem with rfl | mem
    · have ended : (s.warmChannel ch).job job.idx = captureLeft (s.job job.idx) := job_quiet_of_capture fields
      obtain ⟨_, _, _, left, chan, state, _⟩ := job_foldl_warmChannel rest (s.warmChannel ch) job.idx
      have dead : (captureLeft (s.job job.idx)).state ≠ .live := by
        unfold captureLeft
        dsimp only
        split
        · exact JobState.noConfusion
        · assumption
      rw [left]
      rw [ended] at chan state
      refine ⟨chan.elim id id, ?_⟩
      rcases state with rfl | ⟨_, live⟩
      · exact dead
      · exact absurd live dead
    · refine ih apart mem ?_
      rw [captureFields_congr (chan_warmChannel_ne s (ne_of_mem_of_not_mem mem absent))]
      exact fields

theorem job_foldl_warmChannel_of_export {cs : List Nat} (distinct : cs.Nodup) (mem : ch ∈ cs) {s : State} {e : Exporting}
    (exporting : s.exportOf ch = some e) : ((cs.foldl warmChannel s).job e.job.idx).exportBusy = false := by
  induction cs generalizing s with
  | nil => cases mem
  | cons c rest ih =>
    obtain ⟨absent, apart⟩ := List.nodup_cons.1 distinct
    rw [List.foldl_cons]
    rcases List.mem_cons.1 mem with rfl | mem
    · have ended : (s.warmChannel ch).job e.job.idx = { s.job e.job.idx with exportBusy := false } :=
        job_quiet_of_export exporting
      obtain ⟨_, _, _, left, _, _, busy⟩ := job_foldl_warmChannel rest (s.warmChannel ch) e.job.idx
      rw [left]
      rw [ended] at busy
      exact busy.elim id id
    · refine ih apart mem ?_
      rw [exportOf_congr (chan_warmChannel_ne s (ne_of_mem_of_not_mem mem absent))]
      exact exporting

/-- The take of the only play that has it loaded keeps that play's position. -/
theorem take_foldl_warmChannel_of_play {cs : List Nat} (distinct : cs.Nodup) (mem : ch ∈ cs) {s : State} {p : Play}
    (playing : s.playOf ch = some p)
    (alone : ∀ d ∈ cs, d ≠ ch → ∀ q, s.playOf d = some q → q.take.idx ≠ p.take.idx) :
    ((cs.foldl warmChannel s).take p.take.idx).body =
      (s.take p.take.idx).body.map fun b => { b with resume := some p.pos } := by
  induction cs generalizing s with
  | nil => cases mem
  | cons c rest ih =>
    obtain ⟨absent, apart⟩ := List.nodup_cons.1 distinct
    have chan {k : Nat} (mem : k ∈ rest) : (s.warmChannel c).chan k = s.chan k :=
      chan_warmChannel_ne s (ne_of_mem_of_not_mem mem absent)
    have later (k : Nat) (mem : k ∈ rest) (other : k ≠ ch) (q : Play) (plays : (s.warmChannel c).playOf k = some q) :
        q.take.idx ≠ p.take.idx :=
      alone k (List.mem_cons_of_mem _ mem) other q (by rw [← playOf_congr (chan mem)]; exact plays)
    rw [List.foldl_cons]
    rcases List.mem_cons.1 mem with rfl | mem
    · rw [take_foldl_warmChannel_of_other apart fun k within => later k within (ne_of_mem_of_not_mem within absent)]
      exact congrArg Take.body (take_quiet_of_play playing)
    · have head : (s.warmChannel c).take p.take.idx = s.take p.take.idx :=
        take_quiet_of_other (alone c List.mem_cons_self (ne_of_mem_of_not_mem mem absent).symm)
      rw [ih apart mem (by rw [playOf_congr (chan mem)]; exact playing) later, head]

end Channels

/-! ### WARM RESET (R202) -/

/-- The link whose routed request WARM RESET has answered BUSY (R194). -/
def busied (s : State) (l : Nat) : Link :=
  match (s.link l).outstanding with
  | none => s.link l
  | some o => { s.link l with
      outstanding := none
      unsent := if (s.link l).up = true ∧ (s.chan l).binding = .link then
          (s.link l).unsent ++ [.reply (requestKind o.request) o.tag .busy {}] else (s.link l).unsent }

theorem busied_congr {s u : State} {l : Nat} (link : u.link l = s.link l)
    (binding : (u.chan l).binding = (s.chan l).binding) : busied u l = busied s l := by
  unfold busied
  rw [link, binding]

theorem link_warmLink (s : State) (l : Fin 16) : (s.warmLink l).link l = busied s l := by
  unfold warmLink busied
  cases (s.link l.val).outstanding with
  | none => rfl
  | some o => exact link_reply_station s l o.request o.tag .busy {}

theorem link_warmLink_ne (s : State) (l : Fin 16) {k : Nat} (other : k ≠ l.val) : (s.warmLink l).link k = s.link k := by
  unfold warmLink
  split
  · rfl
  · exact link_reply_station_ne s l _ _ _ _ other

theorem warmLink_frame (s : State) (l : Fin 16) : ∃ links, s.warmLink l = { s with links := links } := by
  unfold warmLink
  split
  · exact ⟨_, rfl⟩
  · exact reply_station_frame s l _ _ _ _

theorem foldl_warmLink_frame (ls : List (Fin 16)) (s : State) : ∃ links, ls.foldl warmLink s = { s with links := links } := by
  induction ls generalizing s with
  | nil => exact ⟨_, rfl⟩
  | cons l rest ih =>
    obtain ⟨_, later⟩ := ih (s.warmLink l)
    obtain ⟨_, first⟩ := warmLink_frame s l
    exact ⟨_, by rw [List.foldl_cons, later, first]⟩

theorem link_foldl_warmLink_of_not_mem {ls : List (Fin 16)} {l : Fin 16} (absent : l ∉ ls) (s : State) :
    (ls.foldl warmLink s).link l = s.link l := by
  induction ls generalizing s with
  | nil => rfl
  | cons k rest ih =>
    rw [List.mem_cons, not_or] at absent
    exact (ih absent.2 _).trans (link_warmLink_ne s k fun same => absent.1 (Fin.ext same))

theorem link_foldl_warmLink {ls : List (Fin 16)} (distinct : ls.Nodup) {l : Fin 16} (mem : l ∈ ls) (s : State) :
    (ls.foldl warmLink s).link l = busied s l := by
  induction ls generalizing s with
  | nil => cases mem
  | cons k rest ih =>
    obtain ⟨absent, apart⟩ := List.nodup_cons.1 distinct
    rw [List.foldl_cons]
    rcases List.mem_cons.1 mem with rfl | mem
    · rw [link_foldl_warmLink_of_not_mem absent, link_warmLink]
    · rw [ih apart mem]
      obtain ⟨_, frame⟩ := warmLink_frame s k
      refine busied_congr (link_warmLink_ne s k fun same => absent (Fin.ext same ▸ mem)) ?_
      rw [frame]
      rfl

theorem warmStore_frame (s : State) : ∃ served waiting port, s.warmStore = { s with
    scrubNext := 0, served := served, waiting := waiting, port := port } := by
  refine ⟨s.warmStore.served, s.warmStore.waiting, s.warmStore.port, ?_⟩
  unfold warmStore
  rw [claimScrub_frame]
  rfl

/-- WARM RESET is the channels emptied, with the store, the links and the console port changed in their own fields. -/
theorem warm_frame (s : State) : ∃ served waiting port links, s.warm = { (List.range 16).foldl warmChannel s with
    scrubNext := 0, served := served, waiting := waiting, port := port, links := links
    notices := [], overflowed := false, buffer := [], reserved := 0 } := by
  obtain ⟨served, waiting, port, store⟩ := warmStore_frame ((List.range 16).foldl warmChannel s)
  obtain ⟨links, frame⟩ := foldl_warmLink_frame (List.finRange 16) ((List.range 16).foldl warmChannel s).warmStore
  exact ⟨served, waiting, port, links, by rw [warm, frame, store]⟩

section Warm

variable (s : State)

theorem chan_warm (c : Nat) : s.warm.chan c = ((List.range 16).foldl warmChannel s).chan c := by
  obtain ⟨_, _, _, _, warmed⟩ := warm_frame s
  rw [warmed]
  generalize (List.range 16).foldl warmChannel s = t
  rfl

theorem job_warm (i : Nat) : s.warm.job i = ((List.range 16).foldl warmChannel s).job i := by
  obtain ⟨_, _, _, _, warmed⟩ := warm_frame s
  rw [warmed]
  generalize (List.range 16).foldl warmChannel s = t
  rfl

theorem take_warm (i : Nat) : s.warm.take i = ((List.range 16).foldl warmChannel s).take i := by
  obtain ⟨_, _, _, _, warmed⟩ := warm_frame s
  rw [warmed]
  generalize (List.range 16).foldl warmChannel s = t
  rfl

theorem link_warm (l : Fin 16) : s.warm.link l = busied s l := by
  have chan := chan_foldl_warmChannel List.nodup_range (List.mem_range.2 l.isLt) s
  obtain ⟨_, _, _, _, _, _, _, ended⟩ := foldl_warmChannel_ends (List.range 16) s
  have links : ((List.range 16).foldl warmChannel s).links = s.links := (congrArg State.links ended :)
  have answered : s.warm.link l = ((List.finRange 16).foldl warmLink ((List.range 16).foldl warmChannel s).warmStore).link l := by
    rw [warm]
    generalize (List.finRange 16).foldl warmLink _ = t
    rfl
  rw [answered, link_foldl_warmLink (List.nodup_finRange 16) (List.mem_finRange l)]
  generalize (List.range 16).foldl warmChannel s = t at chan links
  obtain ⟨_, _, _, store⟩ := warmStore_frame t
  refine busied_congr ?_ ?_
  · rw [store, State.link, State.link, links]
  · rw [store]
    exact (congrArg Channel.binding chan :)

end Warm

theorem exec_warmReset {s : State} {who : Party} {tag : Byte} (routed : s.routed .console .warmReset = some (who, tag)) :
    exec .warmReset s = .next (s.warm.reply .console .warmReset tag .done {}) := by
  have served : exec .warmReset s = serve .console .warmReset s fun _ s => done s.warm := rfl
  rw [served, serve_routed routed]
  generalize s.warm = t
  rfl

/-- Settles O53: the channels end one by one, and what each leaves stands through the ends of the others. -/
theorem warmResetStops : Obligations.WarmResetStops := by
  unfold Obligations.WarmResetStops
  intro s who tag routed
  obtain ⟨_, _, _, _, warmed⟩ := warm_frame s
  obtain ⟨_, _, _, _, _, _, _, ended⟩ := foldl_warmChannel_ends (List.range 16) s
  have distinct : (List.range 16).Nodup := List.nodup_range
  have mem {c : Nat} (low : c < 16) : c ∈ List.range 16 := List.mem_range.2 low
  have below {c : Nat} (h : c ∈ List.range 16) : c < 16 := List.mem_range.1 h
  refine ⟨s.warm, exec_warmReset routed, fun c low => ?_, fun l low => ?_, fun l low => ?_,
    fun c j ctx low fields => ?_, fun c e low exporting => ?_, fun i => ?_, fun i captures exports => ?_, fun i => ?_,
    fun i plays => ?_, fun c p low playing alone => ?_, ?_⟩
  · rw [chan_warm, chan_foldl_warmChannel distinct (mem low)]
    exact ⟨rfl, rfl, rfl, rfl, rfl, rfl, rfl, rfl, rfl, rfl, rfl⟩
  · rw [link_warm s ⟨l, low⟩]
    unfold busied
    split
    next none => exact ⟨none, rfl, rfl, rfl⟩
    · exact ⟨rfl, rfl, rfl, rfl⟩
  · rw [link_warm s ⟨l, low⟩]
    unfold busied
    dsimp only
    split
    next none => rw [none]
    next o some => rw [some]
  · rw [job_warm]
    obtain ⟨_, _, _, left, _, state, _⟩ := job_foldl_warmChannel (List.range 16) s j.idx
    obtain ⟨gone, dead⟩ := job_foldl_warmChannel_of_capture distinct (mem low) fields
    refine ⟨gone, dead, ?_⟩
    rw [left] at dead ⊢
    rcases state with same | ⟨aside, live⟩
    · rw [same] at dead ⊢
      exact (if_neg dead).symm
    · rw [if_pos live]
      exact aside
  · rw [job_warm]
    exact job_foldl_warmChannel_of_export distinct (mem low) exporting
  · obtain ⟨ch, st, busy, left, _, state, _⟩ := job_foldl_warmChannel (List.range 16) s i
    exact ⟨ch, st, busy, (job_warm s i).trans left, state⟩
  · rw [job_warm]
    exact job_foldl_warmChannel_of_other distinct (fun c h x => captures c x (below h)) fun c h e => exports c e (below h)
  · rw [take_warm]
    exact take_foldl_warmChannel _ s i
  · rw [take_warm]
    exact take_foldl_warmChannel_of_other distinct fun c h p => plays c p (below h)
  · rw [take_warm]
    exact take_foldl_warmChannel_of_play distinct (mem low) playing fun d h other q => alone d q (below h) other
  · rw [warmed, ended]
    exact ⟨rfl, rfl, rfl, rfl, rfl, rfl, rfl, rfl, rfl, rfl, rfl, rfl, rfl, rfl, rfl, rfl, rfl, rfl, rfl, rfl, rfl, rfl,
      rfl⟩

end Sys2Proof.Machine
end

section
/-! ## Jobs opened, created, attached, detached and held

The first take of a job, the capture its channel takes up and leaves, and the end of its export (R7 to R10, R77, R165). -/

set_option Elab.async false

namespace Sys2Proof.Machine
open State

/-! ### The first take (R77) -/

/-- A job with its first take, before the queue (R77). -/
def begun (s : State) (j : Nat) : State :=
  State.setJob { s.setTake s.lowestFreeTake { s.take s.lowestFreeTake with body := some { job := s.jobRef j } } with
      takeFree := s.takeFree - 1 }
    j { s.job j with takeHead := some (s.takeRef s.lowestFreeTake), takeCount := 1 }

theorem firstTake_eq (s : State) (j : Nat) :
    s.firstTake j = if (s.job j).follow then (begun s j).enterQueue s.lowestFreeTake else begun s j := by
  have ref : State.takeRef { s.setTake s.lowestFreeTake { s.take s.lowestFreeTake with body := some { job := s.jobRef j } } with
      takeFree := s.takeFree - 1 } s.lowestFreeTake = s.takeRef s.lowestFreeTake :=
    (congrArg (fun t : Take => (⟨s.lowestFreeTake, t.issue⟩ : Ref)) (take_setTake s s.lowestFreeTake
      { s.take s.lowestFreeTake with body := some { job := s.jobRef j } }) :)
  have follow : ((begun s j).job j).follow = (s.job j).follow := by
    rw [begun, job_setJob]
  rw [← follow]
  unfold firstTake newTake
  dsimp only
  rw [updJob_eq, ref]
  rfl

theorem job_begun (s : State) (j : Nat) :
    (begun s j).job j = { s.job j with takeHead := some (s.takeRef s.lowestFreeTake), takeCount := 1 } :=
  job_setJob _ _ _

theorem job_begun_ne (s : State) {j k : Nat} (other : k ≠ j) : (begun s j).job k = s.job k :=
  job_setJob_ne _ _ _ _ other

theorem take_begun (s : State) (j : Nat) :
    ((begun s j).take s.lowestFreeTake).body = some { job := s.jobRef j } :=
  congrArg Take.body (take_setTake s s.lowestFreeTake _)

theorem take_begun_ne (s : State) (j : Nat) {k : Nat} (other : k ≠ s.lowestFreeTake) : (begun s j).take k = s.take k :=
  take_setTake_ne _ _ _ _ other

/-! ### A capture taken up (R7, R9) -/

theorem chan_startCapture (s : State) (ch : Nat) (r : Ref) :
    ((s.startCapture ch r).chan ch).stream = .capture { job := r } := by
  rw [startCapture, chan_setPlacement, chan_updChan]

theorem chan_startCapture_ne (s : State) {ch k : Nat} (r : Ref) (other : k ≠ ch) :
    (s.startCapture ch r).chan k = s.chan k := by
  rw [startCapture, chan_setPlacement, chan_updChan_ne _ other]

theorem placement_startCapture (s : State) (ch : Nat) (r : Ref) : (s.startCapture ch r).placement ch = {} := by
  rw [startCapture, placement_setPlacement]

theorem firstFailing_append {pre post : List (Bool × ReplyCode)} (passes : firstFailing pre = none) :
    firstFailing (pre ++ post) = firstFailing post := by
  induction pre with
  | nil => rfl
  | cons x rest ih =>
    obtain ⟨passed, passes⟩ := firstFailing_none (b := x.1) (c := x.2) passes
    rw [List.cons_append, firstFailing_cons, passed, if_neg (by simp)]
    exact ih passes

theorem startChecks_pass {s : State} {l person : Nat} (alone : s.ownsLive person = false)
    (idle : (s.chan l).isIdle = true) (settled : (s.chan l).second = none) (formatted : s.formatted = true) :
    firstFailing (startChecks s l person) = none := by
  simp [startChecks, alone, idle, Channel.secondNotice, settled, formatted, firstFailing]

theorem roomChecks_pass {s : State} (slot : s.lowestVacant < 512) (take : 0 < s.takeFree) :
    firstFailing (roomChecks s) = none := by
  simp only [roomChecks, firstFailing_cons, Config.jobSlots, decide_eq_true_eq]
  rw [if_neg (by omega), if_neg (by omega)]
  rfl

/-! ### OPEN JOB and CREATE JOB (R7, R8) -/

/-- The state with the new job in its slot (R7, R8). -/
def slotFilled (s : State) (x : Job) : State := s.setJob s.lowestVacant { x with issue := (s.job s.lowestVacant).issue }

theorem jobRef_slotFilled (s : State) (x : Job) :
    (slotFilled s x).jobRef s.lowestVacant = s.jobRef s.lowestVacant := by
  rw [jobRef, slotFilled, job_setJob]
  rfl

/-- The job OPEN JOB makes, but for its issue and its take (R7). -/
def openedRecord (l person : Nat) (docket : BitVec 32) (cls : Nat) (due : BitVec 16) : Job where
  state := .live
  docket := docket
  reporter := person
  cls := clsOf cls
  due := due
  chan := some l

/-- The job CREATE JOB makes, but for its issue and its take (R8). -/
def createdRecord (reporter : Nat) (docket : BitVec 32) (cls : Nat) (due : BitVec 16) (follow : Nat) : Job where
  state := .setAside
  follow := decide (follow = 1)
  docket := docket
  reporter := reporter
  cls := clsOf cls
  due := due

theorem exec_openJob (l : Fin 16) (docket : BitVec 32) (cls : Nat) (due : BitVec 16) (s : State) :
    exec (.openJob l docket cls due) s = serve (.station l) (.openJob docket cls due) s fun p s =>
      checked s ((decide (2 < cls), .range) :: startChecks s l p.person ++ roomChecks s)
        (openedJob s l p.person docket cls due) :=
  rfl

theorem openedJob_eq (s : State) (l person : Nat) (docket : BitVec 32) (cls : Nat) (due : BitVec 16) :
    openedJob s l person docket cls due =
      done ((begun (slotFilled s (openedRecord l person docket cls due)) s.lowestVacant).startCapture l (s.jobRef s.lowestVacant)) [.ref (s.jobRef s.lowestVacant)] := by
  have shape : openedJob s l person docket cls due =
      done (((slotFilled s (openedRecord l person docket cls due)).firstTake s.lowestVacant).startCapture l
          ((slotFilled s (openedRecord l person docket cls due)).jobRef s.lowestVacant))
        [.ref ((slotFilled s (openedRecord l person docket cls due)).jobRef s.lowestVacant)] := rfl
  rw [shape, jobRef_slotFilled, firstTake_eq, if_neg]
  rw [slotFilled, job_setJob]
  exact Bool.false_ne_true

/-- Settles O16. -/
theorem openJobOpens : Obligations.OpenJobOpens := by
  unfold Obligations.OpenJobOpens
  intro l docket cls due s role person tag routed inRange alone idle settled formatted slot take
  refine ⟨(begun (slotFilled s (openedRecord l.val person docket cls due)) s.lowestVacant).startCapture l (s.jobRef s.lowestVacant), ?_, ?_, ?_, rfl, rfl,
    chan_startCapture _ _ _, congrArg Placement.inflight (placement_startCapture _ _ _),
    fun k other => ?_, fun k other => take_begun_ne _ _ other, fun k other => chan_startCapture_ne _ _ other,
    rfl, rfl, rfl, rfl, rfl, rfl⟩
  · rw [exec_openJob]
    refine serve_passing routed rfl ?_ (openedJob_eq _ _ _ _ _ _)
    rw [List.cons_append, firstFailing_cons, if_neg (by simpa using inRange)]
    exact (firstFailing_append (startChecks_pass alone idle settled formatted)).trans (roomChecks_pass slot take)
  · refine (job_begun _ _).trans ?_
    rw [slotFilled, job_setJob]
    rfl
  · refine (take_begun _ _).trans ?_
    rw [jobRef_slotFilled]
    rfl
  · exact (job_begun_ne _ other).trans (job_setJob_ne _ _ _ _ other)

theorem exec_createJob (reporter : Nat) (docket : BitVec 32) (cls : Nat) (due : BitVec 16) (follow : Nat) (s : State) :
    exec (.createJob reporter docket cls due follow) s = serve .console (.createJob reporter docket cls due follow) s
      fun _ s =>
        checked s
          ((decide (reporter = 0) || decide (63 < reporter) || decide (2 < cls) || decide (1 < follow), .range) ::
            roomChecks s)
          (createdJob s reporter docket cls due follow) :=
  rfl

theorem createdJob_eq (s : State) (reporter : Nat) (docket : BitVec 32) (cls : Nat) (due : BitVec 16) (follow : Nat) :
    createdJob s reporter docket cls due follow =
      done ((slotFilled s (createdRecord reporter docket cls due follow)).firstTake s.lowestVacant) [.ref (s.jobRef s.lowestVacant)] := by
  have shape : createdJob s reporter docket cls due follow =
      done ((slotFilled s (createdRecord reporter docket cls due follow)).firstTake s.lowestVacant)
        [.ref ((slotFilled s (createdRecord reporter docket cls due follow)).jobRef s.lowestVacant)] := rfl
  rw [shape, jobRef_slotFilled]

/-- Settles O17, by the follow-behind flag. -/
theorem createJobCreates : Obligations.CreateJobCreates := by
  unfold Obligations.CreateJobCreates
  intro reporter docket cls due follow s who tag routed low high inRange flag slot take
  have served : exec (.createJob reporter docket cls due follow) s = .next (((slotFilled s (createdRecord reporter docket cls due follow)).firstTake s.lowestVacant).reply .console
        (.createJob reporter docket cls due follow) tag .done { fixed := [.ref (s.jobRef s.lowestVacant)] }) := by
    rw [exec_createJob]
    refine serve_passing routed rfl ?_ (createdJob_eq _ _ _ _ _ _)
    rw [firstFailing_cons, if_neg, roomChecks_pass slot take]
    simp only [Bool.or_eq_true, decide_eq_true_eq, not_or]
    omega
  rw [firstTake_eq] at served
  generalize filled : slotFilled s (createdRecord reporter docket cls due follow) = t at served
  have job : t.job s.lowestVacant = { createdRecord reporter docket cls due follow with issue := (s.job s.lowestVacant).issue } := by
    rw [← filled, slotFilled, job_setJob]
  have others (k : Nat) (other : k ≠ s.lowestVacant) : (begun t s.lowestVacant).job k = s.job k := by
    rw [job_begun_ne _ other, ← filled, slotFilled, job_setJob_ne _ _ _ _ other]
  have ref : t.jobRef s.lowestVacant = s.jobRef s.lowestVacant := by
    rw [← filled, jobRef_slotFilled]
  have free : t.lowestFreeTake = s.lowestFreeTake := by rw [← filled]; rfl
  have first := take_begun t s.lowestVacant
  rw [ref, free] at first
  have named : (begun t s.lowestVacant).job s.lowestVacant = { createdRecord reporter docket cls due follow with
      issue := (s.job s.lowestVacant).issue, takeHead := some ⟨s.lowestFreeTake, (s.take s.lowestFreeTake).issue⟩, takeCount := 1 } := by
    rw [job_begun, job, free, ← filled]
    rfl
  have takes (k : Nat) (other : k ≠ s.lowestFreeTake) : (begun t s.lowestVacant).take k = s.take k := by
    rw [take_begun_ne _ _ (by rw [free]; exact other), ← filled]
    rfl
  rw [job, free] at served
  by_cases follows : follow = 1
  · simp only [createdRecord, follows, decide_true, if_true] at served named ⊢
    obtain ⟨q, queued⟩ := body_enterQueue first
    refine ⟨_, served, ?_, ⟨_, queued, rfl, rfl, rfl, rfl, rfl⟩, fun zero => absurd zero (by decide),
      fun _ => mem_ready_enterQueue _ _, ?_, fun k other => ?_, fun k other => ?_, ?_, ?_, ?_, ?_, ?_, ?_, ?_⟩
    · rw [enterQueue_job, named]
    · rw [enterQueue_takeFree, ← filled]; rfl
    · rw [enterQueue_job, others k other]
    · rw [take_enterQueue_ne _ other, takes k other]
    · rw [enterQueue_chans, ← filled]; rfl
    · rw [enterQueue_segs, ← filled]; rfl
    · rw [enterQueue_cues, ← filled]; rfl
    · rw [enterQueue_links, ← filled]; rfl
    · rw [enterQueue_exts, ← filled]; rfl
    · rw [enterQueue_mem, ← filled]; rfl
    · rw [enterQueue_notices, ← filled]; rfl
  · simp only [createdRecord, follows, decide_false, Bool.false_eq_true, if_false] at served named ⊢
    refine ⟨_, served, named, ⟨_, first, rfl, rfl, rfl, rfl, rfl⟩, fun _ => ?_, fun one => absurd one id, ?_, others, takes,
      ?_, ?_, ?_, ?_, ?_, ?_, ?_⟩
    all_goals rw [← filled]
    · exact ⟨rfl, rfl⟩
    all_goals rfl

/-! ### ATTACH and DETACH (R9, R10) -/

theorem exec_attach (l : Fin 16) (r : Ref) (s : State) :
    exec (.attach l r) s = serve (.station l) (.attach r) s fun p s =>
      checked s
        (jobChecks s r ++ [(!p.owns (s.job r.idx), .notPermitted), (decide ((s.job r.idx).state ≠ .setAside), .state),
            ((s.job r.idx).held, .held)] ++ startChecks s l p.person)
        (attachedJob s l r) :=
  rfl

theorem exec_detach (l : Fin 16) (r : Ref) (s : State) :
    exec (.detach l r) s = serve (.station l) (.detach r) s fun p s =>
      checked s
        (jobChecks s r ++ [(!p.owns (s.job r.idx), .notPermitted), (decide ((s.job r.idx).state ≠ .live), .state),
            (s.captureBusy (s.job r.idx).chan, .busy)])
        (detachedJob s r) :=
  rfl

theorem releaseChannel_eq {s : State} {j ch : Nat} (chan : (s.job j).chan = some ch) :
    s.releaseChannel j = s.endCapture ch := by
  rw [releaseChannel, chan]

theorem captureBusy_of_capture {s : State} {ch : Nat} {c : Capture} (capture : (s.chan ch).stream = .capture c) :
    s.captureBusy (some ch) = c.running := by
  simp only [captureBusy, capture]

/-- Settles O18. -/
theorem attachAndDetach : Obligations.AttachAndDetach := by
  unfold Obligations.AttachAndDetach
  refine ⟨?_, ?_⟩
  · intro l r s person tag routed current owner aside free alone idle settled formatted
    refine ⟨(s.updJob r.idx fun j => { j with state := .live, chan := some l.val }).startCapture l r, ?_, job_setJob _ _ _,
      chan_startCapture _ _ _, congrArg Placement.inflight (placement_startCapture _ _ _),
      fun k other => job_setJob_ne _ _ _ _ other, fun k other => chan_startCapture_ne _ _ other, rfl, rfl, rfl, rfl, rfl⟩
    rw [exec_attach]
    refine serve_passing routed rfl ?_ rfl
    rw [List.append_assoc, firstFailing_jobChecks current]
    simp only [List.cons_append, List.nil_append, firstFailing_cons]
    have start := startChecks_pass (l := l.val) alone idle settled formatted
    simp [Party.owns, owner, aside, free]
    exact start
  · intro l r s person tag ch c routed current owner live attached capture paused same
    have fields := captureFields_capture capture
    rw [same] at fields
    refine ⟨(s.endCapture ch).updJob r.idx fun j => { j with state := .setAside, chan := none }, ?_, ?_, ?_⟩
    · rw [exec_detach]
      refine serve_passing routed rfl ?_ (by rw [detachedJob, releaseChannel_eq attached]; rfl)
      rw [firstFailing_jobChecks current, attached, captureBusy_of_capture capture]
      simp [Party.owns, owner, live, paused, firstFailing]
    · rw [endCapture_eq fields, updJob_eq, updJob_eq, job_setJob, job_setJob]
      rfl
    · rw [endCapture_eq fields]
      refine ⟨congrArg Channel.stream (chan_updChan _ _ _), congrArg Channel.suspended (chan_updChan _ _ _),
        congrArg Placement.inflight (placement_setPlacement (s.withdraw ch) ch {}), fun k other => ?_,
        fun k other => (chan_updChan_ne _ other _), rfl, rfl, rfl, rfl, rfl⟩
      rw [updJob_eq, job_setJob_ne _ _ _ _ other, updJob_eq, job_setJob_ne _ _ _ _ other]
      rfl

/-! ### HOLD (R165) -/

/-- A job held: a release is forgotten (R165). -/
def withHold (x : Job) : Job :=
  if x.state = .releasing then { x with held := true, state := .complete, release := none } else { x with held := true }

theorem withHold_eq (x : Job) : withHold x = { x with
    held := true, state := if x.state = .releasing then .complete else x.state
    release := if x.state = .releasing then none else x.release } := by
  unfold withHold
  split <;> rfl

theorem exec_hold (r : Ref) (s : State) :
    exec (.hold r) s = serve .console (.hold r) s fun _ s =>
      checked s
        (jobChecks s r ++ [(decide ((s.job r.idx).state = .retiring), .state), (decide ((s.job r.idx).state = .live), .busy),
          ((s.job r.idx).held, .already)])
        (heldJob s r) :=
  rfl

theorem holdChecks_pass {s : State} {r : Ref} (current : s.jobCurrent r = true) (working : (s.job r.idx).state ≠ .retiring)
    (ended : (s.job r.idx).state ≠ .live) (free : (s.job r.idx).held = false) :
    firstFailing (jobChecks s r ++ [(decide ((s.job r.idx).state = .retiring), .state),
      (decide ((s.job r.idx).state = .live), .busy), ((s.job r.idx).held, .already)]) = none := by
  rw [firstFailing_jobChecks current]
  simp [working, ended, free, firstFailing]

/-- The state with the held flag set, before an export ends (R165). -/
def flagged (s : State) (r : Ref) : State := s.setJob r.idx (withHold (s.job r.idx))

theorem exportBusy_withHold (x : Job) : (withHold x).exportBusy = x.exportBusy := by
  rw [withHold_eq]

theorem heldJob_of_idle {s : State} {r : Ref} (idle : (s.job r.idx).exportBusy = false) :
    heldJob s r = done (flagged s r) := by
  unfold heldJob
  dsimp only
  rw [updJob_eq]
  change done (if ((flagged s r).job r.idx).exportBusy then _ else _) = _
  rw [if_neg]
  · rfl
  · rw [flagged, job_setJob, exportBusy_withHold, idle]
    simp

theorem heldJob_of_busy {s : State} {r : Ref} (busy : (s.job r.idx).exportBusy = true) :
    heldJob s r = done (match (flagged s r).exportChannel r with
      | some ch => (flagged s r).endExport ch .jobHeld true
      | none => (flagged s r).updJob r.idx fun j => { j with exportBusy := false }) := by
  unfold heldJob
  dsimp only
  rw [updJob_eq]
  change done (if ((flagged s r).job r.idx).exportBusy then _ else _) = _
  rw [if_pos]
  · rfl
  · rw [flagged, job_setJob, exportBusy_withHold, busy]

theorem exportOf_iff {s : State} {ch : Nat} {e : Exporting} :
    s.exportOf ch = some e ↔ (s.chan ch).stream = .exporting e := by
  unfold exportOf
  cases (s.chan ch).stream <;> simp

theorem exportChannel_some {s : State} {r : Ref} {ch : Nat} (found : s.exportChannel r = some ch) :
    ∃ e, s.exportOf ch = some e ∧ e.job = r := by
  have holds := List.find?_some found
  cases exporting : s.exportOf ch with
  | none => rw [exporting] at holds; cases holds
  | some e =>
    rw [exporting] at holds
    exact ⟨e, rfl, by simpa using holds⟩

theorem exportChannel_eq {s : State} {r : Ref} {ch : Nat} {e : Exporting} (exporting : s.exportOf ch = some e)
    (same : e.job = r) (first : ch = 14 ∨ (ch = 15 ∧ ∀ x, s.exportOf 14 = some x → x.job ≠ r)) :
    s.exportChannel r = some ch := by
  unfold exportChannel
  rcases first with rfl | ⟨rfl, other⟩
  · rw [List.find?_cons_of_pos]
    simp [exporting, same]
  · rw [List.find?_cons_of_neg, List.find?_cons_of_pos]
    · simp [exporting, same]
    · cases earlier : s.exportOf 14 with
      | none => simp
      | some x => simpa using other x earlier

theorem endExport_eq {s : State} {ch : Nat} {e : Exporting} (exporting : s.exportOf ch = some e) (cause : Cause) :
    s.endExport ch cause true = ((s.stopStream ch).updJob e.job.idx fun j => { j with exportBusy := false }).placeNotice
      (exportNotice ch e cause .stopped) true := by
  rw [endExport, exporting]
  simp only [if_true, stopExport_eq exporting]

/-- Settles O21, by the channel the export runs on. -/
theorem holdHolds : Obligations.HoldHolds := by
  unfold Obligations.HoldHolds
  have cleared (s : State) (r : Ref) : { (flagged s r).job r.idx with exportBusy := false } = { s.job r.idx with
      held := true, exportBusy := false
      state := if (s.job r.idx).state = .releasing then .complete else (s.job r.idx).state
      release := if (s.job r.idx).state = .releasing then none else (s.job r.idx).release } := by
    rw [flagged, job_setJob, withHold_eq]
  refine ⟨?_, ?_, ?_⟩
  · intro r s who tag routed current working ended free
    refine ⟨(heldJob s r).state, ?_, ?_⟩
    · rw [exec_hold]
      refine serve_passing routed rfl (holdChecks_pass current working ended free) ?_
      rfl
    cases busy : (s.job r.idx).exportBusy with
    | false =>
      rw [heldJob_of_idle busy]
      refine ⟨?_, ?_, ?_, ?_, fun k other => job_setJob_ne _ _ _ _ other, rfl, rfl, rfl⟩ <;>
        rw [done, flagged, job_setJob, withHold_eq]
      exact busy
    | true =>
      have target : ∃ t : State, (heldJob s r).state = t ∧ t.job r.idx = { (flagged s r).job r.idx with exportBusy := false } ∧
          (∀ k, k ≠ r.idx → t.job k = s.job k) ∧ t.segs = s.segs ∧ t.cues = s.cues ∧ t.takes = s.takes := by
        rw [heldJob_of_busy busy]
        cases found : (flagged s r).exportChannel r with
        | none =>
          refine ⟨_, rfl, job_setJob _ _ _, fun k other => ?_, rfl, rfl, rfl⟩
          exact (job_setJob_ne _ _ _ _ other).trans (job_setJob_ne _ _ _ _ other)
        | some ch =>
          obtain ⟨e, exporting, rfl⟩ := exportChannel_some found
          refine ⟨_, endExport_eq exporting _, ?_, fun k other => ?_, ?_, ?_, ?_⟩
          · rw [placeNotice_job, updJob_eq, job_setJob]
            rfl
          · rw [placeNotice_job, updJob_eq, job_setJob_ne _ _ _ _ other]
            exact job_setJob_ne _ _ _ _ other
          · rw [placeNotice_segs]; rfl
          · rw [placeNotice_cues]; rfl
          · rw [placeNotice_takes]; rfl
      obtain ⟨t, state, job, others, segs, cues, takes⟩ := target
      rw [cleared] at job
      rw [state, job]
      exact ⟨rfl, rfl, rfl, rfl, others, segs, cues, takes⟩
  · intro r s who tag ch e routed current working ended free busy stream same first
    have exporting : (flagged s r).exportOf ch = some e := exportOf_iff.2 stream
    have found : (flagged s r).exportChannel r = some ch :=
      exportChannel_eq exporting same (first.imp id fun ⟨high, other⟩ => ⟨high, fun x h => other x (exportOf_iff.1 h)⟩)
    obtain ⟨chan, chans, waiting, port, _⟩ :=
      (channelHaltedTo_withdraw_self (flagged s r) ch).updChan Channel.stopped
    subst same
    refine ⟨((flagged s e.job).stopStream ch).updJob e.job.idx fun j => { j with exportBusy := false }, ?_, ?_,
      chans, ?_, fun k other => ?_, waiting, port, rfl⟩
    · rw [exec_hold]
      refine serve_passing routed rfl (holdChecks_pass current working ended free) ?_
      rw [heldJob_of_busy busy, found]
      exact congrArg (fun t => done t) (endExport_eq exporting .jobHeld)
    · exact chan
    · rw [updJob_eq, job_setJob]
      exact cleared s e.job
    · rw [updJob_eq, job_setJob_ne _ _ _ _ other]
      exact job_setJob_ne _ _ _ _ other
  · intro r s who tag routed current working ended free settled idle
    have held : withHold (s.job r.idx) = { s.job r.idx with held := true } := if_neg settled
    rw [exec_hold, ← held]
    exact serve_passing routed rfl (holdChecks_pass current working ended free) (heldJob_of_idle idle)

end Sys2Proof.Machine
end

section
/-! ## The store and its arbiter

The bank map and the lines it gives, FORMAT, the bulk priorities, and the claim the arbiter grants as an access ends (R94 to
R96, R103, R105 to R107). -/

set_option Elab.async false

namespace Sys2Proof.Machine
open State

/-! ### The bank map (R95, R96) -/

/-- A window covers a group when the group has the base's bit wherever the mask has one (R95). -/
theorem covers_eq (w : Window) (g : Nat) :
    w.covers g = (w.enable && [0, 1, 2, 3].all fun k => !w.mask.testBit k || g.testBit k == w.base.testBit k) := by
  have bits : (BitVec.ofNat 4 g ^^^ BitVec.ofNat 4 w.base) &&& BitVec.ofNat 4 w.mask = 0 ↔
      ∀ k, k < 4 → w.mask.testBit k = true → g.testBit k = w.base.testBit k := by
    constructor
    · intro h k low masked
      have bit := congrArg (fun v : BitVec 4 => v.getLsbD k) h
      simp only [BitVec.getLsbD_and, BitVec.getLsbD_xor, BitVec.getLsbD_ofNat, low, masked, decide_true, Bool.true_and,
        Bool.and_true] at bit
      simpa using bit
    · intro h
      refine BitVec.eq_of_getLsbD_eq fun k low => ?_
      cases masked : w.mask.testBit k with
      | false => simp [BitVec.getLsbD_ofNat, masked]
      | true => simp [BitVec.getLsbD_ofNat, h k low masked]
  unfold Window.covers
  congr 1
  rw [Bool.eq_iff_iff, decide_eq_true_eq, bits]
  simp only [List.all_cons, List.all_nil, Bool.and_true, Bool.and_eq_true, Bool.or_eq_true, Bool.not_eq_true', beq_iff_eq]
  constructor
  · intro h
    have bit (k : Nat) (low : k < 4) : w.mask.testBit k = false ∨ g.testBit k = w.base.testBit k := by
      cases masked : w.mask.testBit k with
      | false => exact .inl rfl
      | true => exact .inr (h k low masked)
    exact ⟨bit 0 (by decide), bit 1 (by decide), bit 2 (by decide), bit 3 (by decide)⟩
  · rintro ⟨h0, h1, h2, h3⟩ k low masked
    have cases4 : k = 0 ∨ k = 1 ∨ k = 2 ∨ k = 3 := by omega
    rcases cases4 with rfl | rfl | rfl | rfl
    · exact h0.resolve_left (by simp [masked])
    · exact h1.resolve_left (by simp [masked])
    · exact h2.resolve_left (by simp [masked])
    · exact h3.resolve_left (by simp [masked])

theorem line_eq (b : BankMap) (e : Nat) : b.line e = [b.w0, b.w1, b.w2, b.w3].findIdx? fun w => w.covers (e / 256) := by
  unfold BankMap.line
  simp only [List.findIdx?_cons, List.findIdx?_nil]
  cases b.w0.covers (e / 256) <;> cases b.w1.covers (e / 256) <;> cases b.w2.covers (e / 256) <;>
    cases b.w3.covers (e / 256) <;> rfl

theorem exec_setBankMap (w0 w1 w2 w3 : WindowSpec) (s : State) :
    exec (.setBankMap w0 w1 w2 w3) s = serve .console (.setBankMap w0 w1 w2 w3) s fun _ s =>
      checked s
        [(windowOut w0 || windowOut w1 || windowOut w2 || windowOut w3, .range), (s.formatted, .state),
          (decide (s.bank = { w0 := windowOf w0, w1 := windowOf w1, w2 := windowOf w2, w3 := windowOf w3 }), .already)]
        (mappedBanks s { w0 := windowOf w0, w1 := windowOf w1, w2 := windowOf w2, w3 := windowOf w3 }) :=
  rfl

theorem windowOut_of_range {w : WindowSpec} (h : w.enable ≤ 1 ∧ w.base ≤ 15 ∧ w.mask ≤ 15) : windowOut w = false := by
  obtain ⟨enable, base, mask⟩ := h
  simp only [windowOut, Bool.or_eq_false_iff, decide_eq_false_iff_not]
  omega

/-! ### FORMAT (R103) -/

theorem quietPart_iff (s : State) :
    s.quietPart = true ↔ (∀ x ∈ s.jobs, x.2.state = .vacant) ∧ ∀ c, c < 16 → (s.chan c).isIdle = true := by
  unfold quietPart
  rw [Bool.and_eq_true, List.all_eq_true, List.all_eq_true]
  simp [List.mem_range]

theorem exec_format (s : State) :
    exec .format s = serve .console .format s fun _ s =>
      checked s [(s.formatted && !s.quietPart, .state)] (formattedStore s) :=
  rfl

/-- The store as FORMAT leaves it: its own fields, and what the low mark and the scrub's claim may change. -/
theorem formattedStore_frame (s : State) : ∃ u placed lowArmed notices overflowed served waiting port, formattedStore s = done u ∧
    placed = s.formatList ∧
    u = { s with
      exts := Table.mapFrom {} (formattedExt s.bank) Config.extents 0 s.exts
      freeList := [], scrubList := placed, scrubNext := 0, formatLeft := placed.length, formatted := true
      lowArmed := lowArmed, notices := notices, overflowed := overflowed
      served := served, waiting := waiting, port := port } := by
  unfold formattedStore
  dsimp only
  generalize listed : s.formatList = placed
  rw [claimScrub_frame, testLow_frame]
  exact ⟨_, placed, _, _, _, _, _, _, rfl, rfl, rfl⟩

theorem formatList_eq (s : State) :
    s.formatList = (List.range 4096).filter fun e => s.bank.present e && decide ((s.ext e).state ≠ .damaged) := rfl

theorem mem_formatList (s : State) (e : Nat) :
    e ∈ s.formatList ↔ e < 4096 ∧ s.bank.present e = true ∧ (s.ext e).state ≠ .damaged := by
  simp [formatList, Config.extents]

/-! ### Claims waiting (R105, R106) -/

section Arbiter

variable {s : State} {a : Access} {w : Claim} {pre post : List Claim}

/-- The oldest claim of a kind leaves the waiting list when it is given the port. -/
theorem erase_of_split (first : w ∉ pre) : (pre ++ w :: post).erase w = pre ++ post := by
  rw [List.erase_append_right _ first, List.erase_cons_head]

theorem find?_of_split {p : Claim → Bool} (earlier : ∀ x ∈ pre, p x = false) (holds : p w = true) :
    (pre ++ w :: post).find? p = some w := by
  rw [List.find?_append, List.find?_eq_none.2 fun x mem => by simp [earlier x mem], List.find?_cons_of_pos holds]
  rfl

theorem use_bulk_iff (x : Claim) (ch : Nat) :
    (x.use.isBulk && x.use.chan? == some ch) = true ↔ ∃ q, x.use = .bulk ch q := by
  cases x.use <;> simp [Purpose.isBulk, Purpose.chan?]

theorem chan?_eq_none_iff (u : Purpose) : u.chan? = none ↔ u = .scrub := by
  cases u <;> simp [Purpose.chan?]

theorem bulkSetting_port (s : State) (p : Option Access) (ch : Nat) :
    ({ s with port := p } : State).bulkSetting ch = s.bulkSetting ch := rfl

theorem burstClaim_of_burst {ch pos p : Nat} (use : a.claim.use = .bulk ch pos) (begun : 0 < a.burst)
    (hog : (s.bulkSetting ch).mode = .hog) (below : a.burst < (s.bulkSetting ch).burst)
    (waiting : s.waiting = pre ++ w :: post) (claims : w.use = .bulk ch p) (first : ∀ x ∈ pre, ∀ q, x.use ≠ .bulk ch q) :
    s.burstClaim a = some w := by
  unfold burstClaim
  rw [use]
  dsimp only
  rw [if_pos ⟨begun, hog, below⟩, waiting]
  refine find?_of_split (fun x mem => ?_) ((use_bulk_iff w ch).2 ⟨p, claims⟩)
  rw [Bool.eq_false_iff, Ne, use_bulk_iff]
  exact fun ⟨q, h⟩ => first x mem q h

/-- No burst continues: the access is not of a hog burst that has a claim waiting and room for it (R107). -/
theorem burstClaim_of_none (ends : ∀ ch pos, a.claim.use = .bulk ch pos → a.burst = 0 ∨
    (s.bulkSetting ch).mode = .interleave ∨ (s.bulkSetting ch).burst ≤ a.burst ∨ ∀ x ∈ s.waiting, ∀ q, x.use ≠ .bulk ch q) :
    s.burstClaim a = none := by
  unfold burstClaim
  split
  next ch pos use =>
    rw [ite_eq_right_iff]
    rintro ⟨begun, hog, below⟩
    rw [List.find?_eq_none]
    intro x mem
    rw [use_bulk_iff]
    rintro ⟨q, h⟩
    rcases ends ch pos use with zero | interleave | reached | absent
    · omega
    · rw [hog] at interleave; cases interleave
    · omega
    · exact absent x mem q h
  all_goals rfl

theorem topClass_eq {k : Nat} (mem : w ∈ s.waiting) (cls : k = claimClass s.bulkAbove w.use)
    (highest : ∀ x ∈ s.waiting, k ≤ claimClass s.bulkAbove x.use) : s.topClass = some k := by
  have within : k = 1 ∨ k = 2 ∨ k = 3 ∨ k = 4 := by
    rw [cls]
    unfold claimClass
    split <;> (try split) <;> simp
  have here : (s.waiting.any fun c => claimClass s.bulkAbove c.use == k) = true :=
    List.any_eq_true.2 ⟨w, mem, by simp [cls]⟩
  have above (m : Nat) (less : m < k) : (s.waiting.any fun c => claimClass s.bulkAbove c.use == m) = false := by
    rw [List.any_eq_false]
    intro x mem same
    have := highest x mem
    have := beq_iff_eq.1 same
    omega
  unfold topClass
  rcases within with rfl | rfl | rfl | rfl
  · rw [List.find?_cons_of_pos (by simpa using here)]
  · rw [List.find?_cons_of_neg (by simp [above 1]), List.find?_cons_of_pos (by simpa using here)]
  · rw [List.find?_cons_of_neg (by simp [above 1]), List.find?_cons_of_neg (by simp [above 2]),
      List.find?_cons_of_pos (by simpa using here)]
  · rw [List.find?_cons_of_neg (by simp [above 1]), List.find?_cons_of_neg (by simp [above 2]),
      List.find?_cons_of_neg (by simp [above 3]), List.find?_cons_of_pos (by simpa using here)]

theorem topClass_of_nil (empty : s.waiting = []) : s.topClass = none := by
  unfold topClass
  rw [empty]
  rfl

theorem oldestOf_eq {k : Nat} {who : Option Nat} (waiting : s.waiting = pre ++ w :: post)
    (cls : k = claimClass s.bulkAbove w.use) (claims : w.use.chan? = who)
    (first : ∀ x ∈ pre, claimClass s.bulkAbove x.use = k → x.use.chan? ≠ who) : s.oldestOf k who = some w := by
  unfold oldestOf
  rw [waiting]
  refine find?_of_split (fun x mem => ?_) (by simp [cls, claims])
  rw [Bool.eq_false_iff, Ne, Bool.and_eq_true, beq_iff_eq, beq_iff_eq]
  exact fun ⟨same, own⟩ => first x mem same own

theorem oldestOf_eq_none {k : Nat} {who : Option Nat}
    (absent : ∀ x ∈ s.waiting, claimClass s.bulkAbove x.use = k → x.use.chan? ≠ who) : s.oldestOf k who = none := by
  unfold oldestOf
  rw [List.find?_eq_none]
  intro x mem
  rw [Bool.and_eq_true, beq_iff_eq, beq_iff_eq]
  exact fun ⟨same, own⟩ => absent x mem same own

theorem findSome?_range {α : Type} {f : Nat → Option α} {n i : Nat} {b : α} (low : i < n) (found : f i = some b)
    (earlier : ∀ m, m < i → f m = none) : (List.range n).findSome? f = some b := by
  induction n with
  | zero => omega
  | succ n ih =>
    rw [List.range_succ, List.findSome?_append]
    by_cases last : i = n
    · subst last
      have none : (List.range i).findSome? f = none :=
        List.findSome?_eq_none_iff.2 fun m mem => earlier m (List.mem_range.1 mem)
      rw [none, List.findSome?_cons, found]
      rfl
    · rw [ih (by omega)]
      rfl

/-- The Maintenance Engine is alone in its class (R105). -/
theorem use_scrub_of_class {above : Bool} {u v : Purpose} (scrub : u = .scrub)
    (same : claimClass above u = claimClass above v) : v = .scrub := by
  subst scrub
  cases above <;> cases v <;> simp [claimClass] at same ⊢

theorem endAccess_of_burst (continues : s.burstClaim a = some w) :
    s.endAccess a = ({ s with port := none } : State).startAccess w (a.burst + 1) := by
  unfold endAccess
  have same : ({ s with port := none } : State).burstClaim a = some w := continues
  dsimp only
  rw [same]

theorem endAccess_of_none (ends : s.burstClaim a = none) :
    s.endAccess a = ({ s with port := none } : State).grantNext := by
  unfold endAccess
  have same : ({ s with port := none } : State).burstClaim a = none := ends
  dsimp only
  rw [same]

theorem grantNext_of_pick {k : Nat} (top : s.topClass = some k) (picked : s.pickIn k = some w) :
    s.grantNext = (match w.use.chan? with
      | some ch => { s.startAccess w (s.firstBurst w.use) with
          served := (s.startAccess w (s.firstBurst w.use)).served.set k ch }
      | none => s.startAccess w (s.firstBurst w.use)) := by
  unfold grantNext
  rw [top]
  dsimp only
  rw [picked] <;> rfl

theorem pickIn_of_scrub {k : Nat} (waiting : s.waiting = pre ++ w :: post) (cls : k = claimClass s.bulkAbove w.use)
    (scrub : w.use = .scrub) (first : ∀ x ∈ pre, x.use ≠ .scrub) : s.pickIn k = some w := by
  unfold pickIn
  rw [oldestOf_eq waiting cls ((chan?_eq_none_iff _).2 scrub) fun x mem _ own => first x mem ((chan?_eq_none_iff _).1 own)]

theorem pickIn_of_channel {k i ch : Nat} (waiting : s.waiting = pre ++ w :: post)
    (cls : k = claimClass s.bulkAbove w.use) (low : i < 16) (turn : ch = (s.served.get k + 1 + i) % 16)
    (claims : w.use.chan? = some ch)
    (first : ∀ x ∈ pre, claimClass s.bulkAbove x.use = k → x.use.chan? ≠ some ch)
    (skipped : ∀ m, m < i → ∀ x ∈ s.waiting, claimClass s.bulkAbove x.use = k →
      x.use.chan? ≠ some ((s.served.get k + 1 + m) % 16)) : s.pickIn k = some w := by
  have engine : s.oldestOf k none = none := by
    refine oldestOf_eq_none fun x mem same own => ?_
    have scrub := use_scrub_of_class ((chan?_eq_none_iff _).1 own) (same.trans cls)
    rw [scrub] at claims
    cases claims
  unfold pickIn
  rw [engine, circleFrom, List.findSome?_map]
  refine findSome?_range low ?_ fun m less => oldestOf_eq_none (skipped m less)
  rw [Function.comp_apply, ← turn]
  exact oldestOf_eq waiting cls claims first

end Arbiter

/-! ### SET BULK PRIORITY (R107) -/

theorem exec_setBulkPriority (placement m14 b14 m15 b15 : Nat) (s : State) :
    exec (.setBulkPriority placement m14 b14 m15 b15) s =
      serve .console (.setBulkPriority placement m14 b14 m15 b15) s fun _ s =>
        checked s
          [(decide (1 < placement) || decide (1 < m14) || decide (1 < m15) || burstOut b14 || burstOut b15, .range),
            (decide (s.bulkAbove = decide (placement = 0)) && decide (s.bulk14 = ⟨bulkModeOf m14, b14⟩) &&
              decide (s.bulk15 = ⟨bulkModeOf m15, b15⟩), .already)]
          (prioritySet s (decide (placement = 0)) ⟨bulkModeOf m14, b14⟩ ⟨bulkModeOf m15, b15⟩) :=
  rfl

theorem burstOut_of_range {n : Nat} (low : 1 ≤ n) (high : n ≤ 16) : burstOut n = false := by
  simp only [burstOut, Bool.or_eq_false_iff, decide_eq_false_iff_not]
  omega

/-! ### The obligation, clause by clause -/

theorem setBankMap_writes (w0 w1 w2 w3 : WindowSpec) (s : State) (who : Party) (tag : Byte) (b : BankMap)
    (routed : s.routed .console (.setBankMap w0 w1 w2 w3) = some (who, tag))
    (inRange : ∀ w, w = w0 ∨ w = w1 ∨ w = w2 ∨ w = w3 → w.enable ≤ 1 ∧ w.base ≤ 15 ∧ w.mask ≤ 15)
    (blank : s.formatted = false)
    (map : b = { w0 := windowOf w0, w1 := windowOf w1, w2 := windowOf w2, w3 := windowOf w3 }) (changes : s.bank ≠ b) :
    ∃ u : State, exec (.setBankMap w0 w1 w2 w3) s = .next (u.reply .console (.setBankMap w0 w1 w2 w3) tag .done {}) ∧
      (Canonical s → ∀ e, e < 4096 → u.ext e = { state := if b.present e then .scrub else .absent, refs := 0, taint := false }) ∧
      u = { s with bank := b, exts := u.exts } := by
  subst map
  refine ⟨(mappedBanks s { w0 := windowOf w0, w1 := windowOf w1, w2 := windowOf w2, w3 := windowOf w3 }).state, ?_, fun canonical e low => ?_, rfl⟩
  · rw [exec_setBankMap]
    refine serve_passing routed rfl ?_ rfl
    simp [windowOut_of_range (inRange w0 (.inl rfl)), windowOut_of_range (inRange w1 (.inr (.inl rfl))),
      windowOut_of_range (inRange w2 (.inr (.inr (.inl rfl)))), windowOut_of_range (inRange w3 (.inr (.inr (.inr rfl)))),
      blank, changes, firstFailing]
  · obtain ⟨_, _, _, _, _, _, _, exts, _, _⟩ := canonical
    refine (Table.get_mapFrom _ _ _ exts e).trans ?_
    rw [if_pos ⟨Nat.zero_le e, by simpa [Config.extents] using low⟩, mappedExt]
    split <;> rfl

theorem format_places (s : State) (who : Party) (tag : Byte) (routed : s.routed .console .format = some (who, tag))
    (quiet : s.formatted = false ∨ ((∀ x ∈ s.jobs, x.2.state = .vacant) ∧ ∀ c, c < 16 → (s.chan c).isIdle = true)) :
    ∃ u : State, exec .format s = .next (u.reply .console .format tag .done {}) ∧
      u.formatted = true ∧ u.freeList = [] ∧
      u.scrubList = ((List.range 4096).filter fun e => s.bank.present e && decide ((s.ext e).state ≠ .damaged)) ∧
      u.formatLeft = u.scrubList.length ∧ u.scrubNext = 0 ∧
      (Canonical s → ∀ e ∈ u.scrubList, u.ext e = { state := .scrub, refs := 0, taint := false }) ∧
      (Canonical s → ∀ e, e ∉ u.scrubList → u.ext e = s.ext e) ∧
      u.jobs = s.jobs ∧ u.chans = s.chans ∧ u.bank = s.bank ∧ u.threshold = s.threshold ∧ u.links = s.links := by
  obtain ⟨u, placed, lowArmed, notices, overflowed, served, waiting, port, answer, listed, fields⟩ := formattedStore_frame s
  refine ⟨u, ?_, ?_⟩
  · rw [exec_format]
    refine serve_passing routed rfl ?_ answer
    rcases quiet with blank | idle
    · simp [blank, firstFailing]
    · simp [(quietPart_iff s).2 idle, firstFailing]
  subst fields
  refine ⟨rfl, rfl, listed.trans (formatList_eq s), rfl, rfl, fun canonical e mem => ?_, fun canonical e absent => ?_,
    rfl, rfl, rfl, rfl, rfl⟩
  · obtain ⟨_, _, _, _, _, _, _, exts, _, _⟩ := canonical
    change e ∈ placed at mem
    rw [listed] at mem
    obtain ⟨low, present, sound⟩ := (mem_formatList s e).1 mem
    refine (Table.get_mapFrom _ _ _ exts e).trans ?_
    rw [if_pos ⟨Nat.zero_le e, by simpa [Config.extents] using low⟩, formattedExt, if_pos]
    rw [present, Bool.true_and, decide_eq_true_eq]
    exact sound
  · obtain ⟨_, _, _, _, _, _, _, exts, _, _⟩ := canonical
    refine (Table.get_mapFrom _ _ _ exts e).trans ?_
    split
    next within =>
      rw [formattedExt, if_neg]
      · rfl
      · intro both
        rw [Bool.and_eq_true, decide_eq_true_eq] at both
        have mem := (mem_formatList s e).2 ⟨by simpa [Config.extents] using within, both⟩
        rw [← listed] at mem
        exact absent mem
    · rfl

theorem setBulkPriority_writes (placement m14 b14 m15 b15 : Nat) (s : State) (who : Party) (tag : Byte)
    (routed : s.routed .console (.setBulkPriority placement m14 b14 m15 b15) = some (who, tag))
    (place : placement ≤ 1) (mode14 : m14 ≤ 1) (mode15 : m15 ≤ 1) (low14 : 1 ≤ b14) (high14 : b14 ≤ 16) (low15 : 1 ≤ b15)
    (high15 : b15 ≤ 16) :
    exec (.setBulkPriority placement m14 b14 m15 b15) s = .next (
      if s.bulkAbove = decide (placement = 0) ∧ s.bulk14 = ⟨bulkModeOf m14, b14⟩ ∧ s.bulk15 = ⟨bulkModeOf m15, b15⟩ then
        s.reply .console (.setBulkPriority placement m14 b14 m15 b15) tag .already {}
      else ({ s with
          bulkAbove := decide (placement = 0), bulk14 := ⟨bulkModeOf m14, b14⟩, bulk15 := ⟨bulkModeOf m15, b15⟩ } : State).reply
        .console (.setBulkPriority placement m14 b14 m15 b15) tag .done {}) := by
  have range : (decide (1 < placement) || decide (1 < m14) || decide (1 < m15) || burstOut b14 || burstOut b15) = false := by
    rw [burstOut_of_range low14 high14, burstOut_of_range low15 high15]
    simp only [Bool.or_eq_false_iff, decide_eq_false_iff_not, and_true]
    omega
  rw [exec_setBulkPriority]
  split
  next same =>
    refine serve_failing routed rfl ?_
    rw [firstFailing_cons, range, if_neg (by simp), firstFailing_cons, if_pos]
    simpa [and_assoc] using same
  next differs =>
    refine serve_passing routed rfl ?_ rfl
    rw [firstFailing_cons, range, if_neg (by simp), firstFailing_cons, if_neg]
    · rfl
    · simpa [and_assoc] using differs

theorem endAccess_grants {s : State} {a : Access} {w : Claim} {pre post : List Claim} {k : Nat}
    (ends : ∀ ch pos, a.claim.use = .bulk ch pos → a.burst = 0 ∨ (s.bulkSetting ch).mode = .interleave ∨
      (s.bulkSetting ch).burst ≤ a.burst ∨ ∀ x ∈ s.waiting, ∀ q, x.use ≠ .bulk ch q)
    (waiting : s.waiting = pre ++ w :: post) (cls : k = claimClass s.bulkAbove w.use)
    (highest : ∀ x ∈ s.waiting, k ≤ claimClass s.bulkAbove x.use) :
    (w.use = .scrub → (∀ x ∈ pre, x.use ≠ .scrub) →
      s.endAccess a = { s with waiting := pre ++ post, port := some { claim := w } }) ∧
    ∀ i ch, i < 16 → ch = (s.served.get k + 1 + i) % 16 → w.use.chan? = some ch →
      (∀ x ∈ pre, claimClass s.bulkAbove x.use = k → x.use.chan? ≠ some ch) →
      (∀ m, m < i → ∀ x ∈ s.waiting, claimClass s.bulkAbove x.use = k →
        x.use.chan? ≠ some ((s.served.get k + 1 + m) % 16)) →
      s.endAccess a = { s with
        waiting := pre ++ post, served := s.served.set k ch
        port := some { claim := w, place := w.use.isBulk
                       burst := if w.use.isBulk = true ∧ (s.bulkSetting ch).mode = .hog then 1 else 0 } } := by
  have top : ({ s with port := none } : State).topClass = some k :=
    topClass_eq (s := { s with port := none }) (w := w) (by rw [waiting]; simp) cls highest
  have started (n : Nat) (first : w ∉ pre) : ({ s with port := none } : State).startAccess w n =
      { s with waiting := pre ++ post, port := some { claim := w, live := true, burst := n, place := w.use.isBulk } } := by
    rw [startAccess, waiting, erase_of_split first]
  refine ⟨fun scrub first => ?_, fun i ch low turn claims first skipped => ?_⟩
  · rw [endAccess_of_none (burstClaim_of_none ends),
      grantNext_of_pick top (pickIn_of_scrub (s := { s with port := none }) waiting cls scrub first),
      (chan?_eq_none_iff _).2 scrub, started _ fun mem => first w mem scrub, scrub]
    rfl
  · rw [endAccess_of_none (burstClaim_of_none ends),
      grantNext_of_pick top (pickIn_of_channel (s := { s with port := none }) waiting cls low turn claims first skipped),
      claims, started _ fun mem => first w mem cls.symm claims]
    have burst : ({ s with port := none } : State).firstBurst w.use =
        if w.use.isBulk = true ∧ (s.bulkSetting ch).mode = .hog then 1 else 0 := by
      unfold firstBurst
      cases use : w.use with
      | bulk c pos =>
        rw [use] at claims
        obtain rfl : c = ch := Option.some.inj claims
        exact if_congr (by simp [Purpose.isBulk, bulkSetting_port]) rfl rfl
      | capture => simp [Purpose.isBulk]
      | play => simp [Purpose.isBulk]
      | scrub => simp [Purpose.isBulk]
    rw [burst]

/-- Settles O35. -/
theorem bankMapFormatPriority : Obligations.BankMapFormatPriority := by
  unfold Obligations.BankMapFormatPriority
  refine ⟨setBankMap_writes, format_places, setBulkPriority_writes, fun s a port => ?_, fun s port => ?_, fun b e => ?_,
    fun above ch pos job data => ⟨rfl, rfl, rfl, rfl⟩, fun s a ch port use dead => ?_, fun s a empty => ?_, ?_, ?_⟩
  · rw [storeWire, port, Option.map_some, Claim.signals]
    cases a.claim.use <;> rfl
  · rw [storeWire, port]
    rfl
  · rw [line_eq]
    simp only [covers_eq]
  · change Host.Outcome.next _ = _
    rw [port]
    dsimp only
    rw [use]
    dsimp only
    unfold playReadDone
    dsimp only
    rw [dead]
    rfl
  · have idle : s.burstClaim a = none := by
      refine burstClaim_of_none fun ch pos _ => .inr (.inr (.inr ?_))
      rw [empty]
      exact fun x mem => absurd mem List.not_mem_nil
    rw [endAccess_of_none idle, grantNext, topClass_of_nil (s := { s with port := none }) empty]
  · intro s a ch pos p w pre post use begun hog below waiting claims first
    rw [endAccess_of_burst (burstClaim_of_burst use begun hog below waiting claims first), startAccess, waiting,
      erase_of_split fun mem => first w mem p claims, claims]
    rfl
  · exact fun s a w pre post k ends waiting cls highest => endAccess_grants ends waiting cls highest

end Sys2Proof.Machine
end

section
/-! ## Attributes of a job (R16 to R18)

The queued takes of a job placed again under its new keys, and its OPEN take offered or withdrawn. -/

set_option Elab.async false

namespace Sys2Proof.Machine
open State

/-! ### Takes placed again in the queue (R17) -/

/-- Takes placed one after another in a queue by the keys of a state. -/
def insertAll (s : State) (l queue : List Nat) : List Nat := l.foldl (fun q i => s.insertByKey i q) queue

/-- A queued take is one of a job's. -/
def ofJob (s : State) (j t : Nat) : Bool := match (s.take t).body with | some b => b.job.idx == j | none => false

theorem ofJob_iff (s : State) (j t : Nat) : ofJob s j t = true ↔ (s.take t).body.map (fun b => b.job.idx) = some j := by
  unfold ofJob
  cases (s.take t).body <;> simp

theorem foldl_insert_eq (s : State) (l queue : List Nat) :
    l.foldl (fun t i => { t with ready := t.insertByKey i t.ready }) ({ s with ready := queue } : State) =
      { s with ready := insertAll s l queue } := by
  induction l generalizing queue with
  | nil => rfl
  | cons i rest ih =>
    rw [List.foldl_cons, insertByKey_setReady]
    exact ih (s.insertByKey i queue)

theorem replaceQueued_eq (s : State) (j : Nat) : s.replaceQueued j =
    { s with ready := insertAll s (s.ready.filter (ofJob s j)) (s.ready.filter fun t => !ofJob s j t) } :=
  foldl_insert_eq s (s.ready.filter (ofJob s j)) (s.ready.filter fun t => !ofJob s j t)

theorem insertAll_perm (s : State) (l queue : List Nat) : (insertAll s l queue).Perm (l ++ queue) := by
  induction l generalizing queue with
  | nil => exact .refl _
  | cons i rest ih =>
    refine (ih (s.insertByKey i queue)).trans ?_
    exact ((insertByKey_perm s i queue).append_left rest).trans List.perm_middle

theorem filter_insertByKey_of_neg {s : State} {p : Nat → Bool} {i : Nat} (fails : p i = false) (queue : List Nat) :
    (s.insertByKey i queue).filter p = queue.filter p := by
  induction queue with
  | nil => simp [insertByKey, fails]
  | cons q rest ih =>
    rw [insertByKey]
    split
    · simp [List.filter_cons, fails]
    · rw [List.filter_cons, ih, ← List.filter_cons]

theorem filter_insertAll_of_neg {s : State} {p : Nat → Bool} {l : List Nat} (fails : ∀ i ∈ l, p i = false)
    (queue : List Nat) : (insertAll s l queue).filter p = queue.filter p := by
  induction l generalizing queue with
  | nil => rfl
  | cons i rest ih =>
    refine (ih (fun k mem => fails k (List.mem_cons_of_mem _ mem)) (s.insertByKey i queue)).trans ?_
    exact filter_insertByKey_of_neg (fails i List.mem_cons_self) queue

theorem pairwise_insertAll {s : State} {l queue : List Nat} (distinct : l.Nodup) (absent : ∀ i ∈ l, i ∉ queue)
    (ordered : queue.Pairwise fun x y => keyBefore (s.queueKey x) (s.queueKey y) = true) :
    (insertAll s l queue).Pairwise fun x y => keyBefore (s.queueKey x) (s.queueKey y) = true := by
  induction l generalizing queue with
  | nil => exact ordered
  | cons i rest ih =>
    obtain ⟨first, distinct⟩ := List.nodup_cons.1 distinct
    refine ih distinct (fun k mem inside => ?_) (pairwise_insertByKey (absent i List.mem_cons_self) ordered)
    rcases List.mem_cons.1 ((insertByKey_perm s i queue).mem_iff.1 inside) with rfl | inside
    · exact first mem
    · exact absent k (List.mem_cons_of_mem _ mem) inside

/-- A queue in the strict order of its keys holds no take twice. -/
theorem nodup_of_ordered {s : State} {queue : List Nat}
    (ordered : queue.Pairwise fun x y => keyBefore (s.queueKey x) (s.queueKey y) = true) : queue.Nodup := by
  refine ordered.imp fun {x y} before same => ?_
  rw [same, keyBefore_iff] at before
  omega

/-! ### The attributes written (R16) -/

/-- The state with a job's attributes written, before its takes are placed again (R16). -/
def attributed (s : State) (r : Ref) (a : JobAttrs) : State := s.setJob r.idx (writeAttrs a (s.job r.idx))

/-- The state with the job's queued takes placed again when a key has changed (R17). -/
def replaced (s : State) (r : Ref) (a : JobAttrs) : State :=
  if (writeAttrs a (s.job r.idx)).cls ≠ (s.job r.idx).cls ∨ (writeAttrs a (s.job r.idx)).due ≠ (s.job r.idx).due then
    (attributed s r a).replaceQueued r.idx
  else attributed s r a

theorem setAttributes_eq (s : State) (r : Ref) (a : JobAttrs) :
    setAttributes s r a = done (if a.follow.isSome then (replaced s r a).applyFollow r.idx else replaced s r a) := rfl

theorem exec_setJobAttributes (r : Ref) (a : JobAttrs) (s : State) :
    exec (.setJobAttributes r a) s = serve .console (.setJobAttributes r a) s fun _ s =>
      checked s
        ((decide (2 < a.cls.getD 0) || decide (1 < a.follow.getD 0), .range) :: jobChecks s r ++
          [(decide ((s.job r.idx).state = .retiring), .state), (decide (writeAttrs a (s.job r.idx) = s.job r.idx), .already)])
        (setAttributes s r a) :=
  rfl

/-- Taking a job's attributes changes the job and the order of the queue, and nothing else. -/
theorem replaced_frame (s : State) (r : Ref) (a : JobAttrs) :
    ∃ queue, replaced s r a = { attributed s r a with ready := queue } := by
  unfold replaced
  split
  · exact ⟨_, replaceQueued_eq _ _⟩
  · exact ⟨_, rfl⟩

theorem ready_replaced_perm (s : State) (r : Ref) (a : JobAttrs) : (replaced s r a).ready.Perm s.ready := by
  unfold replaced
  split
  · rw [replaceQueued_eq]
    exact (insertAll_perm _ _ _).trans (List.filter_append_perm _ _)
  · exact .refl _

theorem filter_ready_replaced (s : State) (r : Ref) (a : JobAttrs) :
    (replaced s r a).ready.filter (fun i => decide ((s.take i).body.map (fun b => b.job.idx) ≠ some r.idx)) =
      s.ready.filter fun i => decide ((s.take i).body.map (fun b => b.job.idx) ≠ some r.idx) := by
  have others : (fun i => decide ((s.take i).body.map (fun b => b.job.idx) ≠ some r.idx)) =
      fun i => !ofJob (attributed s r a) r.idx i := by
    funext i
    rw [Bool.eq_iff_iff, decide_eq_true_eq, Bool.not_eq_true', Bool.eq_false_iff, Ne, Ne, ofJob_iff]
    rfl
  rw [others]
  unfold replaced
  split
  · rw [replaceQueued_eq]
    refine (filter_insertAll_of_neg (fun i mem => ?_) _).trans ?_
    · simpa using (List.mem_filter.1 mem).2
    · rw [List.filter_filter]
      simp only [Bool.and_self]
      rfl
  · rfl

/-- The keys of the takes of other jobs stand. -/
theorem queueKey_attributed {s : State} {r : Ref} {a : JobAttrs} {t : Nat}
    (other : (writeAttrs a (s.job r.idx)).cls = (s.job r.idx).cls ∧ (writeAttrs a (s.job r.idx)).due = (s.job r.idx).due ∨
      ofJob (attributed s r a) r.idx t = false) : (attributed s r a).queueKey t = s.queueKey t := by
  have same : (attributed s r a).take t = s.take t := rfl
  cases body : (s.take t).body with
  | none =>
    unfold queueKey
    rw [same, body]
  | some b =>
    rw [queueKey_of_body (s := attributed s r a) body, queueKey_of_body body]
    by_cases here : b.job.idx = r.idx
    · rcases other with ⟨cls, due⟩ | other
      · rw [attributed, here, job_setJob, cls, due]
      · rw [Bool.eq_false_iff, Ne, ofJob_iff, same, body] at other
        exact absurd (congrArg some here) other
    · rw [attributed, job_setJob_ne _ _ _ _ here]

theorem pairwise_replaced {s : State} (r : Ref) (a : JobAttrs)
    (ordered : s.ready.Pairwise fun x y => keyBefore (s.queueKey x) (s.queueKey y) = true) :
    (replaced s r a).ready.Pairwise fun x y =>
      keyBefore ((replaced s r a).queueKey x) ((replaced s r a).queueKey y) = true := by
  unfold replaced
  split
  next =>
    rw [replaceQueued_eq]
    change (insertAll (attributed s r a) _ _).Pairwise fun x y =>
      keyBefore ((attributed s r a).queueKey x) ((attributed s r a).queueKey y) = true
    refine pairwise_insertAll ((nodup_of_ordered ordered).filter _) (fun i mine others => ?_) ?_
    · have := (List.mem_filter.1 mine).2
      have := (List.mem_filter.1 others).2
      simp_all
    · refine (ordered.filter _).imp_of_mem fun {x y} hx hy before => ?_
      have stands {t : Nat} (mem : t ∈ s.ready.filter fun t => !ofJob (attributed s r a) r.idx t) :
          (attributed s r a).queueKey t = s.queueKey t :=
        queueKey_attributed (.inr (by simpa using (List.mem_filter.1 mem).2))
      rw [stands hx, stands hy]
      exact before
  next same =>
    rw [not_or, not_not, not_not] at same
    refine ordered.imp fun {x y} before => ?_
    rw [queueKey_attributed (.inl same), queueKey_attributed (.inl same)]
    exact before

/-! ### The OPEN take under follow-behind (R18) -/

theorem body_of_mem_takesFrom {s : State} {n : Nat} {o : Option Ref} {x : Nat × TakeBody} (mem : x ∈ s.takesFrom n o) :
    (s.take x.1).body = some x.2 := by
  induction n generalizing o with
  | zero => cases mem
  | succ n ih =>
    cases o with
    | none => cases mem
    | some r =>
      rw [takesFrom] at mem
      cases body : (s.take r.idx).body with
      | none => rw [body] at mem; cases mem
      | some b =>
        rw [body] at mem
        rcases List.mem_cons.1 mem with rfl | mem
        · exact body
        · exact ih mem

theorem body_of_openTake {s : State} {j i : Nat} (opened : s.openTake j = some i) : ∃ b, (s.take i).body = some b := by
  unfold openTake at opened
  obtain ⟨x, found, rfl⟩ := Option.map_eq_some_iff.1 opened
  exact ⟨x.2, body_of_mem_takesFrom (List.mem_of_find?_eq_some found)⟩

theorem openTake_replaced (s : State) (r : Ref) (a : JobAttrs) : (replaced s r a).openTake r.idx = s.openTake r.idx := by
  obtain ⟨queue, frame⟩ := replaced_frame s r a
  have takes : (replaced s r a).jobTakes r.idx = s.jobTakes r.idx := by
    rw [frame]
    refine jobTakes_congr (s := s) (fun k => ?_) ?_
    · rfl
    exact (congrArg Job.takeHead (job_setJob s r.idx (writeAttrs a (s.job r.idx))) :)
  rw [openTake, takes]
  rfl

theorem job_replaced (s : State) (r : Ref) (a : JobAttrs) : (replaced s r a).job r.idx = writeAttrs a (s.job r.idx) := by
  obtain ⟨queue, frame⟩ := replaced_frame s r a
  rw [frame]
  exact job_setJob s r.idx _

theorem pairwise_leaveQueue {s : State} (i : Nat)
    (ordered : s.ready.Pairwise fun x y => keyBefore (s.queueKey x) (s.queueKey y) = true) :
    (s.leaveQueue i).ready.Pairwise fun x y =>
      keyBefore ((s.leaveQueue i).queueKey x) ((s.leaveQueue i).queueKey y) = true :=
  ordered.filter _

theorem pairwise_enterQueue_of_body {s : State} {i : Nat} (body : ∃ b, (s.take i).body = some b)
    (ordered : s.ready.Pairwise fun x y => keyBefore (s.queueKey x) (s.queueKey y) = true) :
    (s.enterQueue i).ready.Pairwise fun x y =>
      keyBefore ((s.enterQueue i).queueKey x) ((s.enterQueue i).queueKey y) = true := by
  obtain ⟨b, body⟩ := body
  by_cases queued : i ∈ s.ready
  · rw [enterQueue_of_mem queued]
    exact ordered
  · exact pairwise_enterQueue body queued ordered

theorem applyFollow_of_none {s : State} {j : Nat} (closed : s.openTake j = none) : s.applyFollow j = s := by
  rw [applyFollow, closed]

theorem applyFollow_of_some {s : State} {j i : Nat} (opened : s.openTake j = some i) :
    s.applyFollow j = if (s.job j).follow then s.enterQueue i else s.leaveQueue i := by
  rw [applyFollow, opened]

theorem pairwise_applyFollow {s : State} (j : Nat)
    (ordered : s.ready.Pairwise fun x y => keyBefore (s.queueKey x) (s.queueKey y) = true) :
    (s.applyFollow j).ready.Pairwise fun x y =>
      keyBefore ((s.applyFollow j).queueKey x) ((s.applyFollow j).queueKey y) = true := by
  cases opened : s.openTake j with
  | none => rw [applyFollow_of_none opened]; exact ordered
  | some i =>
    rw [applyFollow_of_some opened]
    split
    · exact pairwise_enterQueue_of_body (body_of_openTake opened) ordered
    · exact pairwise_leaveQueue i ordered

/-- What the queue's own operations leave as it was. -/
def QueueOnly (s u : State) : Prop :=
  u.jobs = s.jobs ∧ u.segs = s.segs ∧ u.cues = s.cues ∧ u.chans = s.chans ∧ u.links = s.links ∧ u.holds = s.holds ∧
    u.notices = s.notices

theorem queueOnly_enterQueue (s : State) (i : Nat) : QueueOnly s (s.enterQueue i) :=
  ⟨enterQueue_jobs s i, enterQueue_segs s i, enterQueue_cues s i, enterQueue_chans s i, enterQueue_links s i,
    (congrArg State.holds (enterQueue_frame s i) :), enterQueue_notices s i⟩

theorem queueOnly_applyFollow (s : State) (j : Nat) : QueueOnly s (s.applyFollow j) := by
  cases opened : s.openTake j with
  | none => rw [applyFollow_of_none opened]; exact ⟨rfl, rfl, rfl, rfl, rfl, rfl, rfl⟩
  | some i =>
    rw [applyFollow_of_some opened]
    split
    · exact queueOnly_enterQueue s i
    · exact ⟨rfl, rfl, rfl, rfl, rfl, rfl, rfl⟩

/-- The state SET JOB ATTRIBUTES reaches, whether or not follow-behind was selected. -/
def reattributed (s : State) (r : Ref) (a : JobAttrs) : State :=
  if a.follow.isSome then (replaced s r a).applyFollow r.idx else replaced s r a

theorem queueOnly_reattributed (s : State) (r : Ref) (a : JobAttrs) : QueueOnly (replaced s r a) (reattributed s r a) := by
  unfold reattributed
  split
  · exact queueOnly_applyFollow _ _
  · exact ⟨rfl, rfl, rfl, rfl, rfl, rfl, rfl⟩

/-- Settles O20. -/
theorem setJobAttributesWrites : Obligations.SetJobAttributesWrites := by
  unfold Obligations.SetJobAttributesWrites
  intro r a s who tag routed current cls follow working changes
  obtain ⟨jobs, segs, cues, chans, links, holds, notices⟩ := queueOnly_reattributed s r a
  have job (k : Nat) : (reattributed s r a).job k = (replaced s r a).job k := by
    rw [State.job, jobs]
    rfl
  refine ⟨reattributed s r a, ?_, (job r.idx).trans (job_replaced s r a), fun ordered => ?_, fun unselected => ?_,
    fun i opened => ⟨fun set => ?_, fun clear => ?_⟩, fun k other => ?_, segs.trans ?_, cues.trans ?_, chans.trans ?_,
    links.trans ?_, holds.trans ?_, notices.trans ?_⟩
  · rw [exec_setJobAttributes]
    refine serve_passing routed rfl ?_ (setAttributes_eq s r a)
    have range : (decide (2 < a.cls.getD 0) || decide (1 < a.follow.getD 0)) = false := by
      rw [Bool.or_eq_false_iff, decide_eq_false_iff_not, decide_eq_false_iff_not]
      constructor
      · cases sel : a.cls with
        | none => simp
        | some c => simpa using cls c sel
      · cases sel : a.follow with
        | none => simp
        | some f => simpa using follow f sel
    rw [List.cons_append, firstFailing_cons, range, if_neg (by simp), firstFailing_jobChecks current]
    simp [working, changes, firstFailing]
  · unfold reattributed
    split
    · exact pairwise_applyFollow _ (pairwise_replaced r a ordered)
    · exact pairwise_replaced r a ordered
  · have left : reattributed s r a = replaced s r a := by rw [reattributed, unselected]; rfl
    rw [left]
    obtain ⟨queue, frame⟩ := replaced_frame s r a
    exact ⟨by rw [frame]; rfl, by rw [frame]; rfl, ready_replaced_perm s r a, filter_ready_replaced s r a⟩
  · have flag : ((replaced s r a).job r.idx).follow = true := by
      rw [job_replaced, writeAttrs, set]
      rfl
    rw [reattributed, set, Option.isSome_some, if_pos rfl,
      applyFollow_of_some ((openTake_replaced s r a).trans opened), if_pos flag]
    exact mem_ready_enterQueue _ _
  · have flag : ((replaced s r a).job r.idx).follow = false := by
      rw [job_replaced, writeAttrs, clear]
      rfl
    rw [reattributed, clear, Option.isSome_some, if_pos rfl,
      applyFollow_of_some ((openTake_replaced s r a).trans opened), flag, if_neg (by simp)]
    simp [leaveQueue]
  · obtain ⟨queue, frame⟩ := replaced_frame s r a
    rw [job, frame]
    exact job_setJob_ne _ _ _ _ other
  all_goals
    obtain ⟨queue, frame⟩ := replaced_frame s r a
    rw [frame]
    rfl

end Sys2Proof.Machine
end

section
/-! ## Exports

How an export starts, where it claims, what its reads leave in the buffer and how it ends (R149 to R151, R176, R177,
R200). -/

set_option Elab.async false

namespace Sys2Proof.Machine
open State

/-! ### The end of an export (R151) -/

/-- The state an export leaves, before its notice (R151). -/
def exportEnded (s : State) (ch : Nat) (e : Exporting) : State :=
  (s.stopStream ch).updJob e.job.idx fun j => { j with exportBusy := false }

theorem endExport_eq_ite {s : State} {ch : Nat} {e : Exporting} (exporting : s.exportOf ch = some e) (cause : Cause)
    (notify : Bool) : s.endExport ch cause notify =
      if notify then (exportEnded s ch e).placeNotice (exportNotice ch e cause .stopped) true else exportEnded s ch e := by
  rw [endExport, exporting]
  simp only [stopExport_eq exporting]
  rfl

theorem chan_exportEnded (s : State) (ch : Nat) (e : Exporting) : (exportEnded s ch e).chan ch = (s.chan ch).stopped := by
  rw [exportEnded, updJob_eq, chan_setJob, chan_stopStream]

theorem chan_exportEnded_ne (s : State) {ch k : Nat} (e : Exporting) (other : k ≠ ch) :
    (exportEnded s ch e).chan k = s.chan k := by
  rw [exportEnded, updJob_eq, chan_setJob, chan_stopStream_ne _ other]

theorem job_exportEnded (s : State) (ch : Nat) (e : Exporting) :
    (exportEnded s ch e).job e.job.idx = { s.job e.job.idx with exportBusy := false } := by
  rw [exportEnded, updJob_eq, job_setJob]
  rfl

theorem job_exportEnded_ne (s : State) (ch : Nat) (e : Exporting) {k : Nat} (other : k ≠ e.job.idx) :
    (exportEnded s ch e).job k = s.job k :=
  job_setJob_ne _ _ _ _ other

theorem waiting_exportEnded {s : State} {ch : Nat} {e : Exporting} {c : Claim} (mem : c ∈ (exportEnded s ch e).waiting) :
    c.use.chan? ≠ some ch := by
  have mem' : c ∈ s.waiting.filter fun c => c.use.chan? != some ch := mem
  simpa using (List.mem_filter.1 mem').2

/-! ### A notice placed: the claims and the slot -/

theorem waiting_sendNotice (s : State) (n : Notice) : (s.sendNotice n).waiting = s.waiting :=
  (congrArg State.waiting (sendNotice_frame s n) :)

/-- Placing a notice makes no claim. -/
theorem waiting_placeNotice {s : State} {n : Notice} {b : Bool} {c : Claim} (mem : c ∈ (s.placeNotice n b).waiting) :
    c ∈ s.waiting := by
  unfold placeNotice at mem
  dsimp only at mem
  split at mem
  · rw [waiting_sendNotice] at mem
    exact mem
  · split at mem
    · exact List.mem_of_mem_filter mem
    · exact mem
  · exact mem

theorem slot_placeNotice {s : State} {n : Notice} (empty : (s.chan n.chan).slot = none) (b : Bool) :
    ((s.placeNotice n b).chan n.chan).slot = some n := by
  rw [placeNotice_of_empty empty, sendNotice_chan, chan_setChan]

/-- What the end of an export leaves on its channel, its job, the arbiter and the notices. -/
structure ExportLeft (s u : State) (ch : Nat) (e : Exporting) (cause : Cause) (notify : Bool) : Prop where
  stream : (u.chan ch).stream = .idle
  job : u.job e.job.idx = { s.job e.job.idx with exportBusy := false }
  claims : ∀ c ∈ u.waiting, c.use.chan? ≠ some ch
  silent : notify = false → u.notices = s.notices ∧ (u.chan ch).slot = (s.chan ch).slot
  notified : notify = true → (s.chan ch).slot = none → (u.chan ch).slot = some (exportNotice ch e cause .stopped)
  jobs : ∀ k, k ≠ e.job.idx → u.job k = s.job k
  chans : ∀ k, k ≠ ch → u.chan k = s.chan k
  frame : u.buffer = s.buffer ∧ u.segs = s.segs ∧ u.cues = s.cues ∧ u.takes = s.takes ∧ u.mem = s.mem ∧ u.exts = s.exts

theorem endExport_leaves {s : State} {ch : Nat} {e : Exporting} (exporting : s.exportOf ch = some e) (cause : Cause)
    (notify : Bool) : ExportLeft s (s.endExport ch cause notify) ch e cause notify := by
  rw [endExport_eq_ite exporting]
  cases notify with
  | false =>
    rw [if_neg Bool.false_ne_true]
    exact {
      stream := by rw [chan_exportEnded]; rfl
      job := job_exportEnded s ch e
      claims := fun c => waiting_exportEnded
      silent := fun _ => ⟨rfl, by rw [chan_exportEnded]; rfl⟩
      notified := fun h => absurd h Bool.false_ne_true
      jobs := fun k => job_exportEnded_ne s ch e
      chans := fun k => chan_exportEnded_ne s e
      frame := ⟨rfl, rfl, rfl, rfl, rfl, rfl⟩ }
  | true =>
    rw [if_pos rfl]
    have idle : ((exportEnded s ch e).chan ch).stream = .idle := by rw [chan_exportEnded]; rfl
    exact {
      stream := idle_placeNotice (n := exportNotice ch e cause .stopped) idle true
      job := by rw [placeNotice_job]; exact job_exportEnded s ch e
      claims := fun c mem => waiting_exportEnded (waiting_placeNotice mem)
      silent := fun h => absurd h.symm Bool.false_ne_true
      notified := fun _ empty => slot_placeNotice (n := exportNotice ch e cause .stopped)
        (by rw [show (exportNotice ch e cause .stopped).chan = ch from rfl, chan_exportEnded]; exact empty) true
      jobs := fun k other => by rw [placeNotice_job]; exact job_exportEnded_ne s ch e other
      chans := fun k other => by
        rw [chan_placeNotice_ne _ (exportNotice ch e cause .stopped) _ other]
        exact chan_exportEnded_ne s e other
      frame := ⟨(congrArg State.buffer (placeNotice_frame _ _ _) :), (placeNotice_segs _ _ _).trans rfl,
        (placeNotice_cues _ _ _).trans rfl, (placeNotice_takes _ _ _).trans rfl, (placeNotice_mem _ _ _).trans rfl,
        (placeNotice_exts _ _ _).trans rfl⟩ }

theorem testExportEnd_eq {s : State} {ch : Nat} {e : Exporting} (exporting : s.exportOf ch = some e) :
    s.testExportEnd ch = if (s.job e.job.idx).length ≤ e.pos ∧ e.outstanding = 0 then
      s.endExport ch .ended (s.chan ch).matrix.endNotify else s := by
  rw [testExportEnd, exporting]

/-! ### EXPORT and EXPORT STOP (R176, R177) -/

theorem exec_exportJob (r : Ref) (ch choice notify : Nat) (s : State) :
    exec (.exportJob r ch choice notify) s = serve .console (.exportJob r ch choice notify) s fun _ s =>
      checked s
        ((decide (1 < choice), .range) :: jobChecks s r ++
          [(decide ((s.job r.idx).state ≠ .closed) && decide ((s.job r.idx).state ≠ .complete) &&
              decide ((s.job r.idx).state ≠ .releasing), .state),
            ((s.job r.idx).held, .held), ((s.job r.idx).exportBusy, .busy), (notBulk ch, .range),
            (decide ((s.chan ch).binding = .link), .state), (!(s.chan ch).isIdle || s.holdsEntries ch, .busy)])
        (startedExport s r ch choice notify) :=
  rfl

theorem exec_exportStop (ch : Nat) (s : State) :
    exec (.exportStop ch) s = serve .console (.exportStop ch) s fun _ s =>
      checked s [(notBulk ch, .range), ((s.exportOf ch).isNone, .state)]
        (done (s.endExport ch .halt (s.chan ch).matrix.haltNotify)) :=
  rfl

/-- A channel as EXPORT leaves it (R176). -/
def exportingChannel (c : Channel) (r : Ref) (choice notify : Nat) : Channel :=
  { c with
    stream := .exporting { job := r, excludeSealed := decide (choice = 1) }
    matrix := { c.matrix with endNotify := notify.testBit 0, haltNotify := notify.testBit 1 } }

/-- The state in which an export has begun (R176). -/
def exportBegun (s : State) (r : Ref) (ch choice notify : Nat) : State :=
  (s.updJob r.idx fun j => { j with exportBusy := true }).updChan ch fun c => exportingChannel c r choice notify

/-- The state in which an export stands at the end of its job. -/
def exportAtEnd (s : State) (r : Ref) (ch choice notify : Nat) : State :=
  (exportBegun s r ch choice notify).updChan ch fun c => { c with
    stream := .exporting { job := r, excludeSealed := decide (choice = 1), pos := (s.job r.idx).length } }

theorem startedExport_of_frames {s : State} {r : Ref} {ch choice : Nat} (notify : Nat)
    (frames : s.exportFrom { job := r, excludeSealed := decide (choice = 1) } < (s.job r.idx).length) :
    startedExport s r ch choice notify = done (exportBegun s r ch choice notify) := by
  unfold startedExport
  exact if_neg (by omega)

theorem startedExport_of_none {s : State} {r : Ref} {ch choice : Nat} (notify : Nat)
    (empty : (s.job r.idx).length ≤ s.exportFrom { job := r, excludeSealed := decide (choice = 1) }) :
    startedExport s r ch choice notify = done ((exportAtEnd s r ch choice notify).testExportEnd ch) := by
  unfold startedExport
  exact if_pos empty

theorem chan_exportBegun (s : State) (r : Ref) (ch choice notify : Nat) :
    (exportBegun s r ch choice notify).chan ch = exportingChannel (s.chan ch) r choice notify :=
  chan_updChan (s.updJob r.idx _) ch _

theorem chan_exportBegun_ne (s : State) (r : Ref) {ch k : Nat} (choice notify : Nat) (other : k ≠ ch) :
    (exportBegun s r ch choice notify).chan k = s.chan k :=
  chan_updChan_ne (s.updJob r.idx _) other _

theorem job_exportBegun (s : State) (r : Ref) (ch choice notify : Nat) :
    (exportBegun s r ch choice notify).job r.idx = { s.job r.idx with exportBusy := true } :=
  job_setJob _ _ _

/-- An export that has no frame to claim ends at once (R149, R151). -/
theorem endExport_of_atEnd (s : State) (r : Ref) (ch choice notify : Nat) :
    (exportAtEnd s r ch choice notify).testExportEnd ch =
      (exportAtEnd s r ch choice notify).endExport ch .ended
        ((exportAtEnd s r ch choice notify).chan ch).matrix.endNotify ∧
    (exportAtEnd s r ch choice notify).exportOf ch =
      some { job := r, excludeSealed := decide (choice = 1), pos := (s.job r.idx).length } := by
  have exporting : (exportAtEnd s r ch choice notify).exportOf ch =
      some { job := r, excludeSealed := decide (choice = 1), pos := (s.job r.idx).length } :=
    exportOf_iff.2 (congrArg Channel.stream (chan_updChan _ _ _))
  refine ⟨?_, exporting⟩
  rw [testExportEnd_eq exporting, if_pos]
  have job : (exportAtEnd s r ch choice notify).job r.idx = { s.job r.idx with exportBusy := true } :=
    job_exportBegun s r ch choice notify
  rw [job]
  exact ⟨le_rfl, rfl⟩

/-- Settles O49. -/
theorem exportsStartAndStop : Obligations.ExportsStartAndStop := by
  unfold Obligations.ExportsStartAndStop
  refine ⟨?_, ?_⟩
  · intro r ch choice notify s who tag routed coded current finished free idle bulk bound quiet drained
    have served : ∀ u, startedExport s r ch choice notify = done u →
        exec (.exportJob r ch choice notify) s =
          .next (u.reply .console (.exportJob r ch choice notify) tag .done {}) := by
      intro u answer
      rw [exec_exportJob]
      refine serve_passing routed rfl ?_ answer
      have empty : s.holdsEntries ch = false := by
        rw [State.holdsEntries, List.any_eq_false]
        exact fun b mem => by simpa using drained b mem
      rw [List.cons_append, firstFailing_cons, if_neg (by simpa using coded), firstFailing_jobChecks current]
      rcases finished with state | state | state <;>
        simp [state, free, idle, notBulk_of_bulk bulk, bound, quiet, empty, firstFailing]
    by_cases frames : s.exportFrom { job := r, excludeSealed := decide (choice = 1) } < (s.job r.idx).length
    · refine ⟨exportBegun s r ch choice notify, served _ (startedExport_of_frames notify frames),
        fun _ => ⟨job_exportBegun s r ch choice notify, chan_exportBegun s r ch choice notify, rfl, rfl, rfl, rfl⟩,
        fun empty => absurd frames (by omega), fun k other => job_setJob_ne _ _ _ _ other, rfl, rfl, rfl, rfl⟩
    · have empty : (s.job r.idx).length ≤ s.exportFrom { job := r, excludeSealed := decide (choice = 1) } := by omega
      obtain ⟨ends, exporting⟩ := endExport_of_atEnd s r ch choice notify
      have answer := startedExport_of_none (ch := ch) notify empty
      rw [ends] at answer
      have left := endExport_leaves exporting .ended ((exportAtEnd s r ch choice notify).chan ch).matrix.endNotify
      obtain ⟨_, segs, cues, takes, mem, _⟩ := left.frame
      exact ⟨_, served _ answer, fun within => absurd within frames, fun _ => ⟨by rw [left.job], left.stream⟩,
        fun k other => (left.jobs k other).trans (job_setJob_ne _ _ _ _ other), segs, cues, takes, mem⟩
  · intro ch s who tag e routed bulk stream
    have exporting := exportOf_iff.2 stream
    have left := endExport_leaves exporting .halt (s.chan ch).matrix.haltNotify
    obtain ⟨buffer, segs, _⟩ := left.frame
    refine ⟨s.endExport ch .halt (s.chan ch).matrix.haltNotify, ?_, left.stream, by rw [left.job], left.claims, left.silent,
      left.notified, left.jobs, left.chans, buffer, segs⟩
    rw [exec_exportStop]
    refine serve_passing routed rfl ?_ rfl
    simp [notBulk_of_bulk bulk, exporting, firstFailing]

/-! ### The frame an export claims (R150) -/

section Claimed

variable {L : List (Nat × SegBody)} {base pos q i off : Nat} {b : SegBody}

/-- Past the segments that carry SEAL, the first frame at or after a position. -/
theorem find?_withStarts (here : base ≤ q) (after : pos ≤ q) (located : locateIn L (q - base) = some (i, b, off))
    (clear : b.sealPart = none)
    (counts : ∀ x ∈ L, 0 < x.2.count)
    (sealed : ∀ p, pos ≤ p → base ≤ p → p < q → ∀ k g o, locateIn L (p - base) = some (k, g, o) → g.sealPart ≠ none) :
    ∃ x, (withStarts base L).find? (fun x => decide (pos < x.2.2 + x.2.1.count) && x.2.1.sealPart.isNone) = some x ∧
      max pos x.2.2 = q := by
  induction L generalizing base with
  | nil => cases located
  | cons head rest ih =>
    obtain ⟨k, g⟩ := head
    rw [withStarts]
    by_cases claims : pos < base + g.count ∧ g.sealPart = none
    · rw [List.find?_cons_of_pos (by simpa using claims)]
      refine ⟨_, rfl, ?_⟩
      have some : 0 < g.count := counts _ List.mem_cons_self
      change max pos base = q
      have low : pos ≤ max pos base := le_max_left _ _
      have start : base ≤ max pos base := le_max_right _ _
      have least : max pos base ≤ q := max_le after here
      have inside : max pos base < base + g.count := max_lt claims.1 (by omega)
      by_contra further
      exact sealed _ low start (by omega) k g _ (by rw [locateIn, if_pos (by omega)]) claims.2
    · rw [List.find?_cons_of_neg (by simpa using claims)]
      have past : base + g.count ≤ q := by
        by_contra inside
        rw [locateIn, if_pos (by omega)] at located
        obtain ⟨rfl, rfl, rfl⟩ : k = i ∧ g = b ∧ q - base = off := by simpa using located
        exact claims ⟨by omega, clear⟩
      have skip (p : Nat) (beyond : base + g.count ≤ p) :
          locateIn ((k, g) :: rest) (p - base) = locateIn rest (p - (base + g.count)) := by
        rw [locateIn, if_neg (by omega), Nat.sub_sub]
      refine ih past (by rw [← skip q past]; exact located) (fun x mem => counts x (List.mem_cons_of_mem _ mem)) fun p low beyond less l g' o found => ?_
      exact sealed p low (by omega) less l g' o (by rw [skip p beyond]; exact found)

/-- A frame of a segment is located in it. -/
theorem locateIn_of_mem_withStarts {x : Nat × SegBody × Nat} (mem : x ∈ withStarts base L) {p : Nat} (low : x.2.2 ≤ p)
    (high : p < x.2.2 + x.2.1.count) : base ≤ x.2.2 ∧ locateIn L (p - base) = some (x.1, x.2.1, p - x.2.2) := by
  induction L generalizing base with
  | nil => cases mem
  | cons head rest ih =>
    obtain ⟨k, g⟩ := head
    rw [withStarts] at mem
    rcases List.mem_cons.1 mem with rfl | mem
    · exact ⟨le_rfl, by rw [locateIn, if_pos (by dsimp only at *; omega)]⟩
    · obtain ⟨past, located⟩ := ih mem
      refine ⟨by omega, ?_⟩
      rw [locateIn, if_neg (by omega), Nat.sub_sub]
      exact located

theorem mem_of_mem_withStarts {x : Nat × SegBody × Nat} (mem : x ∈ withStarts base L) : (x.1, x.2.1) ∈ L := by
  induction L generalizing base with
  | nil => cases mem
  | cons head rest ih =>
    obtain ⟨k, g⟩ := head
    rw [withStarts] at mem
    rcases List.mem_cons.1 mem with rfl | mem
    · exact List.mem_cons_self
    · exact List.mem_cons_of_mem _ (ih mem)

end Claimed

section From

variable {s : State} {e : Exporting} {q i off : Nat} {b : SegBody}

theorem exportFrom_of_all (all : e.excludeSealed = false) : s.exportFrom e = e.pos := by
  rw [exportFrom, all]
  exact if_neg Bool.false_ne_true

theorem exportFrom_of_clear (excluding : e.excludeSealed = true) (after : e.pos ≤ q)
    (located : s.locate e.job.idx q = some (i, b, off)) (clear : b.sealPart = none)
    (counts : ∀ x ∈ s.jobSegs e.job.idx, 0 < x.2.count)
    (sealed : ∀ p, e.pos ≤ p → p < q → ∀ k g o, s.locate e.job.idx p = some (k, g, o) → g.sealPart ≠ none) :
    s.exportFrom e = q := by
  obtain ⟨⟨k, g, start⟩, found, first⟩ := find?_withStarts (L := s.jobSegs e.job.idx) (base := 0) (Nat.zero_le q) after
    located clear counts fun p low _ less => sealed p low less
  rw [exportFrom, if_pos excluding, found]
  exact first

theorem exportFrom_of_sealed (excluding : e.excludeSealed = true) (counts : ∀ x ∈ s.jobSegs e.job.idx, 0 < x.2.count)
    (sealed : ∀ p, e.pos ≤ p → ∀ k g o, s.locate e.job.idx p = some (k, g, o) → g.sealPart ≠ none) :
    s.exportFrom e = (s.job e.job.idx).length := by
  have none : (withStarts 0 (s.jobSegs e.job.idx)).find?
      (fun x => decide (e.pos < x.2.2 + x.2.1.count) && x.2.1.sealPart.isNone) = none := by
    rw [List.find?_eq_none]
    intro x mem claims
    rw [Bool.and_eq_true, decide_eq_true_eq, Option.isNone_iff_eq_none] at claims
    have count : 0 < x.2.1.count := counts _ (mem_of_mem_withStarts mem)
    have inside : max e.pos x.2.2 < x.2.2 + x.2.1.count := max_lt claims.1 (by omega)
    have located := (locateIn_of_mem_withStarts mem (p := max e.pos x.2.2) (le_max_right _ _) inside).2
    exact sealed _ (le_max_left _ _) _ _ _ located claims.2
  rw [exportFrom, if_pos excluding, none]

end From

/-! ### A claim made (R105) -/

theorem makeClaim_of_busy {s : State} (busy : s.port ≠ none) (c : Claim) :
    s.makeClaim c = { s with waiting := s.waiting ++ [c] } := by
  unfold makeClaim
  exact if_neg (by simpa using busy)

theorem makeClaim_of_free {s : State} (free : s.port = none) (c : Claim) :
    s.makeClaim c = ({ s with waiting := s.waiting ++ [c] } : State).grantNext := by
  unfold makeClaim
  exact if_pos (by simp [free])

/-- The turn of a channel in the circle, counted from the one after the channel served last (R106). -/
theorem turn_of_channel (last : Nat) {ch : Nat} (low : ch < 16) :
    ∃ i, i < 16 ∧ ch = (last + 1 + i) % 16 ∧ ∀ m, m < i → ch ≠ (last + 1 + m) % 16 := by
  refine ⟨(ch + 16 - (last + 1) % 16) % 16, by omega, by omega, fun m less => by omega⟩

/-- The only claim is granted at once. -/
theorem grantNext_of_single {s : State} {w : Claim} {ch : Nat} (alone : s.waiting = [w]) (claims : w.use.chan? = some ch)
    (low : ch < 16) : s.grantNext.waiting = [] ∧
      s.grantNext.port = some { claim := w, burst := s.firstBurst w.use, place := w.use.isBulk } := by
  obtain ⟨i, within, turn, skipped⟩ := turn_of_channel (s.served.get (claimClass s.bulkAbove w.use)) low
  have top : s.topClass = some (claimClass s.bulkAbove w.use) :=
    topClass_eq (by rw [alone]; exact List.mem_singleton.2 rfl) rfl fun x mem => by
      rw [alone] at mem
      rw [List.mem_singleton.1 mem]
  have picked : s.pickIn (claimClass s.bulkAbove w.use) = some w :=
    pickIn_of_channel (pre := []) (post := []) alone rfl within turn claims (fun x mem => absurd mem List.not_mem_nil)
      fun m less x mem _ => by
        rw [alone] at mem
        rw [List.mem_singleton.1 mem, claims]
        exact fun same => skipped m less (Option.some.inj same)
  rw [grantNext_of_pick top picked, claims]
  refine ⟨?_, rfl⟩
  change s.waiting.erase w = []
  rw [alone, List.erase_cons_head]

/-! ### BULK_CLAIM (R150) -/

/-- The state in which an export has claimed the frame at a position (R150). -/
def bulkClaimed (s : State) (ch : Nat) (e : Exporting) (q : Nat) (b : SegBody) (off : Nat) : State :=
  (({ s with reserved := s.reserved + 1 } : State).updChan ch fun c =>
    { c with stream := .exporting { e with pos := q + 1, outstanding := e.outstanding + 1 } }).makeClaim
    { extent := b.extent, frame := b.first + off, use := .bulk ch q }

theorem exec_bulkClaim (ch : Fin 16) (s : State) : exec (.bulkClaim ch) s = .next (s.bulkClaimOf ch) := rfl

theorem not_blocked {s : State} {ch : Nat} {e : Exporting} (runs : (s.chan ch).suspended = false)
    (place : s.buffer.length + s.reserved < 32) (few : e.outstanding < 16) (within : e.pos < (s.job e.job.idx).length) :
    ¬((s.chan ch).suspended = true ∨ Config.bufferPlaces ≤ s.buffer.length + s.reserved ∨
      Config.exportClaims ≤ e.outstanding ∨ (s.job e.job.idx).length ≤ e.pos) := by
  rintro (suspended | reached | full | many)
  · rw [runs] at suspended
    cases suspended
  · change 32 ≤ s.buffer.length + s.reserved at reached
    omega
  · change 16 ≤ e.outstanding at full
    omega
  · omega

section Running

variable {s : State} {ch : Nat} {e : Exporting} (stream : (s.chan ch).stream = .exporting e)
  (runs : (s.chan ch).suspended = false) (place : s.buffer.length + s.reserved < 32) (few : e.outstanding < 16)
  (within : e.pos < (s.job e.job.idx).length)

include stream runs place few within

theorem bulkClaimOf_of_located {i off : Nat} {b : SegBody}
    (located : s.locate e.job.idx (s.exportFrom e) = some (i, b, off)) :
    s.bulkClaimOf ch = bulkClaimed s ch e (s.exportFrom e) b off := by
  unfold bulkClaimOf
  rw [exportOf_iff.2 stream]
  dsimp only
  rw [if_neg (not_blocked runs place few within), located]
  rfl

theorem bulkClaimOf_of_none (located : s.locate e.job.idx (s.exportFrom e) = none) :
    s.bulkClaimOf ch = (s.updChan ch fun c => { c with
      stream := .exporting { e with pos := (s.job e.job.idx).length } }).testExportEnd ch := by
  unfold bulkClaimOf
  rw [exportOf_iff.2 stream]
  dsimp only
  rw [if_neg (not_blocked runs place few within), located]

end Running

/-- What an export's claim changes (R150). -/
theorem bulkClaimed_facts (s : State) (ch : Nat) (e : Exporting) (q : Nat) (b : SegBody) (off : Nat) :
    (bulkClaimed s ch e q b off).reserved = s.reserved + 1 ∧
    (bulkClaimed s ch e q b off).chan ch = { s.chan ch with
      stream := .exporting { e with pos := q + 1, outstanding := e.outstanding + 1 } } ∧
    (s.port ≠ none → (bulkClaimed s ch e q b off).port = s.port ∧
      (bulkClaimed s ch e q b off).waiting = s.waiting ++ [⟨b.extent, b.first + off, .bulk ch q⟩]) ∧
    (∀ k, k ≠ ch → (bulkClaimed s ch e q b off).chan k = s.chan k) ∧
    bulkClaimed s ch e q b off = { s with
      reserved := (bulkClaimed s ch e q b off).reserved, chans := (bulkClaimed s ch e q b off).chans
      waiting := (bulkClaimed s ch e q b off).waiting, port := (bulkClaimed s ch e q b off).port
      served := (bulkClaimed s ch e q b off).served } := by
  refine ⟨(congrArg State.reserved (makeClaim_frame _ _) :), ?_, fun busy => ?_, fun k other => ?_, ?_⟩
  · rw [bulkClaimed, makeClaim_chan, chan_updChan]
    rfl
  · rw [bulkClaimed, makeClaim_of_busy (by exact busy)]
    exact ⟨rfl, rfl⟩
  · rw [bulkClaimed, makeClaim_chan, chan_updChan_ne _ other]
    rfl
  · have framed := makeClaim_frame (({ s with reserved := s.reserved + 1 } : State).updChan ch fun c =>
      { c with stream := .exporting { e with pos := q + 1, outstanding := e.outstanding + 1 } })
      { extent := b.extent, frame := b.first + off, use := .bulk ch q }
    have reserved := (congrArg State.reserved framed :)
    refine framed.trans ?_
    unfold bulkClaimed
    rw [makeClaim_chans, reserved]
    rfl

/-! ### A BULK read completes (R150, R109) -/

/-- The state in which a completed read has filled its place, before END is tested (R150). -/
def entryFilled (s : State) (ch pos : Nat) (e : Exporting) (data : Frame) (damaged : Bool) : State :=
  ({ s with reserved := s.reserved - 1, buffer := s.buffer ++ [{ chan := ch, pos := pos, data := data, damaged := damaged }] }
    : State).updChan ch fun c => { c with stream := .exporting { e with outstanding := e.outstanding - 1 } }

/-- The state in which a completed access has ended, and its extent is DAMAGED when it was checked (R109). -/
def accessDone (s : State) (a : Access) (check : Bool) : State :=
  if check then (s.endAccess a).damageByRead a.claim.extent else s.endAccess a

theorem exec_exportReadCompletion {s : State} {a : Access} {ch pos : Nat} {e : Exporting} (check : Bool)
    (port : s.port = some a) (use : a.claim.use = .bulk ch pos) (live : a.live = true) (place : a.place = true)
    (stream : ((accessDone s a check).chan ch).stream = .exporting e) :
    exec (.exportReadCompletion check) s = .next ((entryFilled (accessDone s a check) ch pos e
      (if check then 0 else s.readFrame a.claim.extent a.claim.frame) check).testExportEnd ch) := by
  change Host.Outcome.next _ = _
  rw [port]
  dsimp only
  rw [use]
  dsimp only
  unfold exportReadDone
  dsimp only
  rw [if_pos place, live]
  have exporting : State.exportOf { accessDone s a check with reserved := (accessDone s a check).reserved - 1 } ch = some e :=
    exportOf_iff.2 stream
  change Host.Outcome.next (match true, State.exportOf { accessDone s a check with
    reserved := (accessDone s a check).reserved - 1 } ch with
    | true, some e => _
    | _, _ => _) = _
  rw [exporting]
  rfl

theorem testExportEnd_entryFilled {s : State} {ch pos : Nat} {e : Exporting} {data : Frame} {damaged : Bool}
    (more : e.pos < (s.job e.job.idx).length ∨ e.outstanding ≠ 1) (outstanding : 1 ≤ e.outstanding) :
    (entryFilled s ch pos e data damaged).testExportEnd ch = entryFilled s ch pos e data damaged := by
  have exporting : (entryFilled s ch pos e data damaged).exportOf ch =
      some { e with outstanding := e.outstanding - 1 } :=
    exportOf_iff.2 (congrArg Channel.stream (chan_updChan _ _ _))
  rw [testExportEnd_eq exporting, if_neg]
  change ¬((s.job e.job.idx).length ≤ e.pos ∧ e.outstanding - 1 = 0)
  omega

theorem chan_entryFilled (s : State) (ch pos : Nat) (e : Exporting) (data : Frame) (damaged : Bool) :
    (entryFilled s ch pos e data damaged).chan ch = { s.chan ch with
      stream := .exporting { e with outstanding := e.outstanding - 1 } } :=
  chan_updChan _ _ _

/-! ### BULK READ (R200) -/

theorem takeEntries_got (ch n : Nat) (l : List BufEntry) :
    (takeEntries ch n l).1 = (l.filter fun b => b.chan == ch).take n := by
  induction l generalizing n with
  | nil => cases n <;> rfl
  | cons x rest ih =>
    cases n with
    | zero => simp [takeEntries]
    | succ n =>
      rw [takeEntries]
      split
      next own => simp [own, ih]
      next other => simp [other, ih]

theorem takeEntries_left (ch n : Nat) (l : List BufEntry) :
    ((takeEntries ch n l).2.filter fun b => b.chan == ch) = (l.filter fun b => b.chan == ch).drop n := by
  induction l generalizing n with
  | nil => cases n <;> rfl
  | cons x rest ih =>
    cases n with
    | zero => simp [takeEntries]
    | succ n =>
      rw [takeEntries]
      split
      next own => simp [own, ih]
      next other => simp [other, ih]

theorem takeEntries_others (ch n : Nat) (l : List BufEntry) :
    ((takeEntries ch n l).2.filter fun b => !(b.chan == ch)) = l.filter fun b => !(b.chan == ch) := by
  induction l generalizing n with
  | nil => cases n <;> rfl
  | cons x rest ih =>
    cases n with
    | zero => simp [takeEntries]
    | succ n =>
      rw [takeEntries]
      split
      next own => simp [own, ih]
      next other => simp [other, ih]

theorem exec_bulkRead (ch n : Nat) (s : State) :
    exec (.bulkRead ch n) s = serve .console (.bulkRead ch n) s fun _ s =>
      checked s [(notBulk ch || decide (n = 0) || decide (16 < n), .range)] (bulkTaken s ch n) :=
  rfl

theorem bulkTaken_eq (s : State) (ch n : Nat) :
    bulkTaken s ch n = { code := .done, state := { s with buffer := (takeEntries ch n s.buffer).2 }, result :=
      { fixed := [.num 1 ((s.buffer.filter fun b => b.chan == ch).length - n),
          .num 1 (if (s.exportOf ch).isNone then 0 else if (s.chan ch).suspended = true then 4 else 1)]
        bulk := (s.buffer.filter fun b => b.chan == ch).take n } } := by
  rw [← takeEntries_got, ← List.length_drop, ← takeEntries_left, ← List.countP_eq_length_filter]
  rfl

/-! ### An extent found DAMAGED by a read (R109, R110) -/

theorem loseTail_of_no_owner {s : State} {x : Nat} (none : ∀ y ∈ s.jobs, ∀ t, y.2.tail = some t → t.extent ≠ x) :
    s.loseTail x = s := by
  have owner : s.tailOwner x = Option.none := by
    rw [tailOwner, Option.map_eq_none_iff, List.find?_eq_none]
    intro y mem
    cases tail : y.2.tail with
    | none => simp
    | some t => simpa using none y mem t tail
  rw [loseTail, owner]

theorem damageByRead_of_damaged {s : State} {x : Nat} (damaged : (s.ext x).state = .damaged) : s.damageByRead x = s := by
  rw [damageByRead, if_pos damaged]

theorem markDamaged_of_inUse {s : State} {x : Nat} (used : (s.ext x).state = .inUse) :
    s.markDamaged x = s.setExt x { s.ext x with state := .damaged } := by
  unfold markDamaged
  dsimp only
  split
  · next h => cases h.symm.trans used
  · next h => cases h.symm.trans used
  all_goals rfl

theorem damageByRead_of_inUse {s : State} {x : Nat} (used : (s.ext x).state = .inUse)
    (none : ∀ y ∈ s.jobs, ∀ t, y.2.tail = some t → t.extent ≠ x) (room : s.notices.length < 32) :
    s.damageByRead x = { s.setExt x { s.ext x with state := .damaged } with
      notices := s.notices ++ [.storeError x .read] } := by
  rw [damageByRead, if_neg (by rw [used]; exact ExtState.noConfusion), markDamaged_of_inUse used,
    raise_of_room (by exact room)]
  exact loseTail_of_no_owner none

/-- Settles O50, clause by clause. -/
theorem exportFramesMove : Obligations.ExportFramesMove := by
  unfold Obligations.ExportFramesMove
  refine ⟨?_, ?_, ?_, ?_, ?_, ?_, ?_⟩
  · intro ch s e i off b stream runs all place few within located
    have start := exportFrom_of_all (s := s) all
    have claimed := bulkClaimOf_of_located stream runs place few within (by rw [start]; exact located)
    rw [start] at claimed
    obtain ⟨reserved, chan, busy, chans, frame⟩ := bulkClaimed_facts s ch e e.pos b off
    refine ⟨bulkClaimed s ch e e.pos b off, by rw [exec_bulkClaim, claimed], reserved, chan, busy, fun free empty => ?_,
      chans, frame⟩
    rw [bulkClaimed, makeClaim_of_free (by exact free)]
    refine (grantNext_of_single ?_ rfl ch.isLt)
    change s.waiting ++ [_] = [_]
    rw [empty]
    rfl
  · intro check s a ch pos e port use live place stream more outstanding damaged
    have done_ : accessDone s a check = s.endAccess a := by
      cases check with
      | false => rfl
      | true => exact damageByRead_of_damaged (by rw [endAccess_ext]; exact damaged rfl)
    have ran := exec_exportReadCompletion check port use live place
      (e := e) (by rw [done_, endAccess_chan]; exact stream)
    rw [done_, testExportEnd_entryFilled (by rw [endAccess_job]; exact more) outstanding] at ran
    refine ⟨_, ran, ?_, ?_, ?_, endAccess_jobs s a, endAccess_segs s a, endAccess_exts s a, endAccess_links s a,
      endAccess_notices s a⟩
    · exact congrArg (· ++ _) (congrArg State.buffer (endAccess_frame s a) :)
    · exact congrArg (· - 1) (congrArg State.reserved (endAccess_frame s a) :)
    · rw [chan_entryFilled, endAccess_chan]
  · intro ch n s who tag routed bulk low high
    refine ⟨(takeEntries ch n s.buffer).2, ?_, takeEntries_left ch n s.buffer, takeEntries_others ch n s.buffer⟩
    rw [exec_bulkRead]
    refine serve_passing routed rfl ?_ (bulkTaken_eq s ch n)
    rw [firstFailing_cons, if_neg]
    · rfl
    · rw [notBulk_of_bulk bulk, Bool.false_or, Bool.or_eq_true, decide_eq_true_eq, decide_eq_true_eq]
      omega
  · intro ch s e q i off b stream runs excluding place few within counts after located clear sealed
    have start := exportFrom_of_clear excluding after located clear counts sealed
    have claimed := bulkClaimOf_of_located stream runs place few within (by rw [start]; exact located)
    rw [start] at claimed
    obtain ⟨reserved, chan, busy, chans, frame⟩ := bulkClaimed_facts s ch e q b off
    exact ⟨bulkClaimed s ch e q b off, by rw [exec_bulkClaim, claimed], reserved, chan, busy, chans, frame⟩
  · intro ch s e stream runs excluding place some few within counts beyond sealed
    have start := exportFrom_of_sealed excluding counts sealed
    have moved := bulkClaimOf_of_none stream runs place few within (by rw [start]; exact beyond)
    have exporting : (s.updChan ch fun c => { c with
        stream := .exporting { e with pos := (s.job e.job.idx).length } }).exportOf ch =
        Option.some { e with pos := (s.job e.job.idx).length } :=
      exportOf_iff.2 (congrArg Channel.stream (chan_updChan _ _ _))
    rw [testExportEnd_eq exporting, if_neg (by dsimp only; omega)] at moved
    refine ⟨_, by rw [exec_bulkClaim, moved], ?_⟩
    exact (ChannelSetTo.refl s ch).updChan _
  · intro s a ch pos e port use live place stream more outstanding used untailed room
    have done_ : accessDone s a true = { (s.endAccess a).setExt a.claim.extent
        { s.ext a.claim.extent with state := .damaged } with
          notices := s.notices ++ [.storeError a.claim.extent .read] } := by
      have damaged := damageByRead_of_inUse (s := s.endAccess a) (x := a.claim.extent) (by rw [endAccess_ext]; exact used)
        (by rw [endAccess_jobs]; exact untailed) (by rw [endAccess_notices]; exact room)
      rw [endAccess_ext, endAccess_notices] at damaged
      exact damaged
    have chan (k : Nat) : (accessDone s a true).chan k = s.chan k := by
      rw [done_]
      exact endAccess_chan s a k
    have job (k : Nat) : (accessDone s a true).job k = s.job k := by
      rw [done_]
      exact endAccess_job s a k
    have ran := exec_exportReadCompletion true port use live place (e := e) (by rw [chan]; exact stream)
    rw [testExportEnd_entryFilled (by rw [job]; exact more) outstanding] at ran
    refine ⟨_, ran, ?_, fun x other => ?_, ?_, ?_, ?_, ?_, ?_, ?_, ?_⟩
    · change (accessDone s a true).ext _ = _
      rw [done_]
      exact (ext_setExt (s.endAccess a) a.claim.extent { s.ext a.claim.extent with state := .damaged } :)
    · change (accessDone s a true).ext _ = _
      rw [done_]
      exact (ext_setExt_ne (s.endAccess a) a.claim.extent { s.ext a.claim.extent with state := .damaged } x other :).trans
        (endAccess_ext s a x)
    · change (accessDone s a true).notices = _
      rw [done_]
    · change (accessDone s a true).buffer ++ _ = _
      rw [done_]
      exact congrArg (· ++ _) (congrArg State.buffer (endAccess_frame s a) :)
    · change (accessDone s a true).reserved - 1 = _
      rw [done_]
      exact congrArg (· - 1) (congrArg State.reserved (endAccess_frame s a) :)
    · rw [chan_entryFilled, chan]
    · change (accessDone s a true).jobs = _
      rw [done_]
      exact endAccess_jobs s a
    · change (accessDone s a true).segs = _
      rw [done_]
      exact endAccess_segs s a
    · change (accessDone s a true).links = _
      rw [done_]
      exact endAccess_links s a
  · intro s a ch pos e port use live place stream reached last
    have ran := exec_exportReadCompletion false port use live place (e := e)
      (by rw [show accessDone s a false = s.endAccess a from rfl, endAccess_chan]; exact stream)
    have exporting : (entryFilled (s.endAccess a) ch pos e (s.readFrame a.claim.extent a.claim.frame) false).exportOf ch =
        some { e with outstanding := e.outstanding - 1 } :=
      exportOf_iff.2 (congrArg Channel.stream (chan_updChan _ _ _))
    have ends : (entryFilled (s.endAccess a) ch pos e (s.readFrame a.claim.extent a.claim.frame) false).testExportEnd ch =
        (entryFilled (s.endAccess a) ch pos e (s.readFrame a.claim.extent a.claim.frame) false).endExport ch .ended
          (s.chan ch).matrix.endNotify := by
      rw [testExportEnd_eq exporting, if_pos, chan_entryFilled, endAccess_chan]
      change ((s.endAccess a).job e.job.idx).length ≤ e.pos ∧ e.outstanding - 1 = 0
      rw [endAccess_job]
      omega
    have left := endExport_leaves exporting .ended (s.chan ch).matrix.endNotify
    have chan := chan_entryFilled (s.endAccess a) ch pos e (s.readFrame a.claim.extent a.claim.frame) false
    rw [endAccess_chan] at chan
    obtain ⟨buffer, segs, _, _, _, exts⟩ := left.frame
    refine ⟨_, ran.trans (congrArg _ ends), buffer.trans ?_, left.stream, left.job.trans ?_, fun quiet => ?_,
      fun notify empty => left.notified notify (by rw [chan]; exact empty), fun k other => (left.jobs k other).trans ?_,
      fun k other => (left.chans k other).trans ?_, segs.trans (endAccess_segs s a), exts.trans (endAccess_exts s a)⟩
    · exact congrArg (· ++ _) (congrArg State.buffer (endAccess_frame s a) :)
    · exact congrArg (fun x : Job => { x with exportBusy := false }) (endAccess_job s a _)
    · obtain ⟨notices, slot⟩ := left.silent quiet
      exact ⟨notices.trans (endAccess_notices s a), slot.trans (by rw [chan])⟩
    · exact endAccess_job s a k
    · exact (chan_updChan_ne _ other _).trans (endAccess_chan s a k)

end Sys2Proof.Machine
end

section
/-! ## The cue list

What linking, placing and unlinking a cue leave of the cues, the segments and the positions (R53, R58, R62), and the
read-back that places a cue (R129, R131). -/

set_option Elab.async false

namespace Sys2Proof.Machine
open State

/-! ### Cues up to their links -/

/-- A cue without its place in the list. -/
def CueBody.unlinked (b : CueBody) : CueBody := { b with next := none }

/-- Two states hold the same cues, in whatever order. -/
structure SameCues (s u : State) : Prop where
  issue : ∀ i, (u.cue i).issue = (s.cue i).issue
  body : ∀ i, (u.cue i).body.map CueBody.unlinked = (s.cue i).body.map CueBody.unlinked

namespace SameCues

theorem refl (s : State) : SameCues s s := ⟨fun _ => rfl, fun _ => rfl⟩

theorem trans {s u v : State} (first : SameCues s u) (second : SameCues u v) : SameCues s v :=
  ⟨fun i => (second.issue i).trans (first.issue i), fun i => (second.body i).trans (first.body i)⟩

theorem of_cues {s u : State} (same : u.cues = s.cues) : SameCues s u := by
  have cue (i : Nat) : u.cue i = s.cue i := by rw [State.cue, State.cue, same]
  exact ⟨fun i => by rw [cue], fun i => by rw [cue]⟩

theorem cueRef {s u : State} (same : SameCues s u) (i : Nat) : u.cueRef i = s.cueRef i := by
  rw [State.cueRef, State.cueRef, same.issue]

/-- A cue of one state is a cue of the other, in another place of its list. -/
theorem body_of {s u : State} (same : SameCues s u) {i : Nat} {b : CueBody} (body : (s.cue i).body = some b) :
    ∃ n, (u.cue i).body = some { b with next := n } := by
  have kept := same.body i
  rw [body] at kept
  obtain ⟨c, bodyc, samec⟩ := Option.map_eq_some_iff.1 kept
  exact ⟨c.next, by rw [bodyc]; exact congrArg some (congrArg (fun x : CueBody => { x with next := c.next }) samec)⟩

end SameCues

theorem sameCues_link (s : State) (i : Nat) (next : Option Ref) :
    SameCues s (s.updCueBody i fun b => { b with next := next }) := by
  refine ⟨fun k => ?_, fun k => ?_⟩ <;> by_cases same : k = i
  · subst same
    rw [updCueBody, cue_setCue]
  · rw [updCueBody, cue_setCue_ne _ _ _ _ same]
  · subst same
    rw [updCueBody, cue_setCue, Option.map_map]
    rfl
  · rw [updCueBody, cue_setCue_ne _ _ _ _ same]

theorem sameCues_linkCues (l : List Nat) (s : State) : SameCues s (linkCues l s) := by
  induction l generalizing s with
  | nil => exact SameCues.refl s
  | cons i rest ih =>
    cases rest with
    | nil => exact sameCues_link s i none
    | cons k rest => exact (sameCues_link s i (some (s.cueRef k))).trans (ih _)

theorem sameCues_orderCues (s : State) (j : Nat) (l : List Nat) : SameCues s (s.orderCues j l) :=
  SameCues.trans (u := s.updJob j fun x => { x with firstCue := l.head?.map s.cueRef }) (SameCues.of_cues rfl)
    (sameCues_linkCues l _)

theorem job_orderCues (s : State) (j : Nat) (l : List Nat) :
    (s.orderCues j l).job j = { s.job j with firstCue := l.head?.map s.cueRef } := by
  rw [orderCues, linkCues_job]
  exact job_setJob _ _ _

theorem job_orderCues_ne (s : State) {j k : Nat} (l : List Nat) (other : k ≠ j) : (s.orderCues j l).job k = s.job k := by
  rw [orderCues, linkCues_job]
  exact job_setJob_ne _ _ _ _ other

/-! ### Segments up to their CUE parts -/

/-- A segment without its CUE part. -/
def SegBody.uncued (b : SegBody) : SegBody := { b with cue := none }

/-- Two states hold the same segments, up to their CUE parts. -/
structure SameSegs (s u : State) : Prop where
  issue : ∀ i, (u.seg i).issue = (s.seg i).issue
  body : ∀ i, (u.seg i).body.map SegBody.uncued = (s.seg i).body.map SegBody.uncued

/-- The segments from a reference, seen through a view that keeps the links. -/
theorem segsFrom_map_congr {s u : State} {view : SegBody → SegBody} (next : ∀ b c, view b = view c → b.next = c.next)
    (body : ∀ i, (u.seg i).body.map view = (s.seg i).body.map view) (n : Nat) (r : Option Ref) :
    (u.segsFrom n r).map (Prod.map id view) = (s.segsFrom n r).map (Prod.map id view) := by
  induction n generalizing r with
  | zero => rfl
  | succ n ih =>
    cases r with
    | none => rfl
    | some r =>
      have kept := body r.idx
      rw [segsFrom, segsFrom]
      cases mine : (s.seg r.idx).body with
      | none =>
        rw [mine, Option.map_none, Option.map_eq_none_iff] at kept
        rw [kept]
      | some b =>
        rw [mine] at kept
        obtain ⟨c, bodyc, samec⟩ := Option.map_eq_some_iff.1 kept
        rw [bodyc]
        dsimp only
        rw [List.map_cons, List.map_cons, ih, next c b samec]
        exact congrArg (· :: _) (congrArg (Prod.mk r.idx) samec)

namespace SameSegs

theorem refl (s : State) : SameSegs s s := ⟨fun _ => rfl, fun _ => rfl⟩

theorem trans {s u v : State} (first : SameSegs s u) (second : SameSegs u v) : SameSegs s v :=
  ⟨fun i => (second.issue i).trans (first.issue i), fun i => (second.body i).trans (first.body i)⟩

theorem of_segs {s u : State} (same : u.segs = s.segs) : SameSegs s u := by
  have seg (i : Nat) : u.seg i = s.seg i := by rw [State.seg, State.seg, same]
  exact ⟨fun i => by rw [seg], fun i => by rw [seg]⟩

/-- A segment of one state is a segment of the other, with another CUE part. -/
theorem seg_of {s u : State} (same : SameSegs s u) {i : Nat} {b : SegBody} (body : (s.seg i).body = some b) :
    ∃ x, u.seg i = { s.seg i with body := some { b with cue := x } } := by
  have kept := same.body i
  rw [body] at kept
  obtain ⟨c, bodyc, samec⟩ := Option.map_eq_some_iff.1 kept
  have body' : (u.seg i).body = some { b with cue := c.cue } := by
    rw [bodyc]
    exact congrArg some (congrArg (fun x : SegBody => { x with cue := c.cue }) samec)
  refine ⟨c.cue, ?_⟩
  rw [← body']
  exact congrArg (fun n : Byte => (⟨n, (u.seg i).body⟩ : Seg)) (same.issue i)

theorem segRef {s u : State} (same : SameSegs s u) (i : Nat) : u.segRef i = s.segRef i := by
  rw [State.segRef, State.segRef, same.issue]

/-- The segments from a reference are the same, up to their CUE parts. -/
theorem segsFrom {s u : State} (same : SameSegs s u) (n : Nat) (r : Option Ref) :
    (u.segsFrom n r).map (Prod.map id SegBody.uncued) = (s.segsFrom n r).map (Prod.map id SegBody.uncued) :=
  segsFrom_map_congr (view := SegBody.uncued) (fun _ _ alike => (congrArg SegBody.next alike :)) same.body n r

theorem jobSegs {s u : State} (same : SameSegs s u) {j : Nat} (head : (u.job j).segHead = (s.job j).segHead) :
    (u.jobSegs j).map (Prod.map id SegBody.uncued) = (s.jobSegs j).map (Prod.map id SegBody.uncued) := by
  rw [State.jobSegs, State.jobSegs, head]
  exact same.segsFrom _ _

end SameSegs

theorem framesBefore_map_uncued (l : List (Nat × SegBody)) (q : Nat) :
    framesBefore (l.map (Prod.map id SegBody.uncued)) q = framesBefore l q := by
  induction l with
  | nil => rfl
  | cons x rest ih =>
    obtain ⟨i, b⟩ := x
    change (if i = q then 0 else b.count + framesBefore (rest.map _) q) = _
    rw [ih]
    rfl

theorem SameSegs.framesBefore {s u : State} (same : SameSegs s u) {j : Nat}
    (head : (u.job j).segHead = (s.job j).segHead) (q : Nat) :
    framesBefore (u.jobSegs j) q = framesBefore (s.jobSegs j) q := by
  rw [← framesBefore_map_uncued, same.jobSegs head, framesBefore_map_uncued]

/-- A position does not depend on the CUE parts (R30). -/
theorem SameSegs.anchorPos {s u : State} (same : SameSegs s u) {j : Nat}
    (head : (u.job j).segHead = (s.job j).segHead) (length : (u.job j).length = (s.job j).length) (a : Anchor) :
    u.anchorPos j a = s.anchorPos j a := by
  cases a with
  | frame r k => exact congrArg (· + k) (same.framesBefore head r.idx)
  | jobEnd => exact length

/-- A cue's position depends on the cue, the segments and what a job says of its own (R53). -/
theorem cuePos_congr {s u : State} {i : Nat} (cue : u.cue i = s.cue i) (segs : u.segs = s.segs)
    (head : ∀ k, (u.job k).segHead = (s.job k).segHead) (length : ∀ k, (u.job k).length = (s.job k).length) :
    u.cuePos i = s.cuePos i := by
  rw [State.cuePos, State.cuePos, cue]
  cases (s.cue i).body with
  | none => rfl
  | some b => exact (SameSegs.of_segs segs).anchorPos (head _) (length _) b.anchor

theorem sameSegs_part (s : State) (i : Nat) (part : Option Ref) :
    SameSegs s (s.updSegBody i fun b => { b with cue := part }) := by
  refine ⟨fun k => ?_, fun k => ?_⟩ <;> by_cases same : k = i
  · subst same
    rw [updSegBody, seg_setSeg]
  · rw [updSegBody, seg_setSeg_ne _ _ _ _ same]
  · subst same
    rw [updSegBody, seg_setSeg, Option.map_map]
    rfl
  · rw [updSegBody, seg_setSeg_ne _ _ _ _ same]

theorem sameSegs_refreshParts (s : State) (j : Nat) : SameSegs s (s.refreshParts j) := by
  unfold refreshParts
  generalize s.jobSegs j = l
  dsimp only
  suffices kept : ∀ t, SameSegs s t →
      SameSegs s (l.foldl (fun t x => t.updSegBody x.1 fun b => { b with cue := s.firstCueIn (s.jobCues j) x.1 }) t) from
    kept s (SameSegs.refl s)
  induction l with
  | nil => exact fun t same => same
  | cons x rest ih => exact fun t same => ih _ (same.trans (sameSegs_part t _ _))

/-! ### A cue placed (R58) -/

/-- The cue that a placement fills the free record with. -/
def newCue (s : State) (j : Nat) (kind : CueKind) (label : BitVec 16) (a : Anchor) (placer : Placer) : CueBody :=
  { job := s.jobRef j, kind := kind, label := label, anchor := a, placer := placer }

/-- The state in which the free record is filled, before the cue is linked. -/
def cueFilled (s : State) (b : CueBody) : State :=
  { s.setCue s.lowestFreeCue { s.cue s.lowestFreeCue with body := some b } with cueFree := s.cueFree - 1 }

theorem addCue_eq (s : State) (j : Nat) (kind : CueKind) (label : BitVec 16) (a : Anchor) (placer : Placer) :
    ∃ order, s.addCue j kind label a placer =
      (((cueFilled s (newCue s j kind label a placer)).orderCues j order).refreshParts j, s.lowestFreeCue) :=
  ⟨_, rfl⟩

/-- What a placed cue leaves. -/
structure CueAdded (s u : State) (j : Nat) (new : CueBody) : Prop where
  placed : ∃ n, (u.cue s.lowestFreeCue).body = some { new with next := n }
  issue : ∀ i, (u.cue i).issue = (s.cue i).issue
  others : ∀ i, i ≠ s.lowestFreeCue → (u.cue i).body.map CueBody.unlinked = (s.cue i).body.map CueBody.unlinked
  segs : SameSegs s u
  job : ∃ first, u.job j = { s.job j with firstCue := first }
  jobs : ∀ k, k ≠ j → u.job k = s.job k
  frame : u = { s with cues := u.cues, cueFree := s.cueFree - 1, jobs := u.jobs, segs := u.segs }

theorem cueAdded_addCue (s : State) (j : Nat) (kind : CueKind) (label : BitVec 16) (a : Anchor) (placer : Placer) :
    CueAdded s (s.addCue j kind label a placer).1 j (newCue s j kind label a placer) := by
  obtain ⟨order, added⟩ := addCue_eq s j kind label a placer
  rw [added]
  generalize newCue s j kind label a placer = new
  have same : SameCues (cueFilled s new) (((cueFilled s new).orderCues j order).refreshParts j) :=
    (sameCues_orderCues _ j order).trans (SameCues.of_cues (refreshParts_cues _ j))
  have filled : (cueFilled s new).cue s.lowestFreeCue = { s.cue s.lowestFreeCue with body := some new } :=
    cue_setCue _ _ _
  have other (i : Nat) (ne : i ≠ s.lowestFreeCue) : (cueFilled s new).cue i = s.cue i := cue_setCue_ne _ _ _ _ ne
  refine ⟨same.body_of (by rw [filled]), fun i => (same.issue i).trans ?_,
    fun i ne => (same.body i).trans (by rw [other i ne]), ?_, ⟨order.head?.map (cueFilled s new).cueRef, ?_⟩,
    fun k ne => ?_, ?_⟩
  · by_cases ne : i = s.lowestFreeCue
    · rw [ne, filled]
    · rw [other i ne]
  · exact SameSegs.trans (SameSegs.of_segs (orderCues_segs (cueFilled s new) j order)) (sameSegs_refreshParts _ j)
  · rw [refreshParts_job, job_orderCues]
    rfl
  · rw [refreshParts_job, job_orderCues_ne _ _ ne]
    rfl
  · dsimp only
    rw [refreshParts_frame, orderCues_frame]
    rfl

namespace CueAdded

variable {s u : State} {j : Nat} {new : CueBody}

theorem job_eq (added : CueAdded s u j new) (k : Nat) : ∃ first, u.job k = { s.job k with firstCue := first } := by
  by_cases same : k = j
  · rw [same]
    exact added.job
  · exact ⟨(s.job k).firstCue, added.jobs k same⟩

theorem segHead (added : CueAdded s u j new) (k : Nat) : (u.job k).segHead = (s.job k).segHead := by
  obtain ⟨first, job⟩ := added.job_eq k
  rw [job]

theorem length (added : CueAdded s u j new) (k : Nat) : (u.job k).length = (s.job k).length := by
  obtain ⟨first, job⟩ := added.job_eq k
  rw [job]

theorem anchorPos (added : CueAdded s u j new) (k : Nat) (a : Anchor) : u.anchorPos k a = s.anchorPos k a :=
  added.segs.anchorPos (added.segHead k) (added.length k) a

theorem cueRef (added : CueAdded s u j new) (i : Nat) : u.cueRef i = s.cueRef i := by
  rw [State.cueRef, State.cueRef, added.issue]

/-- A cue that was there before keeps its position. -/
theorem cuePos_ne (added : CueAdded s u j new) {i : Nat} (ne : i ≠ s.lowestFreeCue) : u.cuePos i = s.cuePos i := by
  have kept := added.others i ne
  rw [State.cuePos, State.cuePos]
  cases mine : (s.cue i).body with
  | none =>
    rw [mine, Option.map_none, Option.map_eq_none_iff] at kept
    rw [kept]
  | some b =>
    rw [mine] at kept
    obtain ⟨c, bodyc, samec⟩ := Option.map_eq_some_iff.1 kept
    have job : c.job = b.job := (congrArg CueBody.job samec :)
    have anchor : c.anchor = b.anchor := (congrArg CueBody.anchor samec :)
    rw [bodyc]
    dsimp only
    rw [added.anchorPos, job, anchor]

theorem cuePos_new (added : CueAdded s u j new) : u.cuePos s.lowestFreeCue = s.anchorPos new.job.idx new.anchor := by
  obtain ⟨n, body⟩ := added.placed
  rw [cuePos_of_body body]
  exact added.anchorPos _ _

end CueAdded

/-! ### READBACK (R129) -/

theorem exec_readback (l : Fin 16) (label : BitVec 16) (start : CueOrPos) (s : State) :
    exec (.readback l label start) s = serve (.station l) (.readback label start) s fun _ s =>
      readbackAnswer s l label start :=
  rfl

theorem exec_readbackEnd (l : Fin 16) (s : State) :
    exec (.readbackEnd l) s = serve (.station l) .readbackEnd s fun _ s => readbackEndAnswer s l :=
  rfl

/-- The state in which a read-back's cue is placed. -/
def readbackCued (s : State) (c : Capture) (label : BitVec 16) : State :=
  (s.addCue c.job.idx .readback label c.ctx.point (.reporter (s.job c.job.idx).reporter)).1

/-- A read-back begun in the state that holds its cue (R129). -/
def readbackBegun (s : State) (ch : Nat) (c : Capture) (start : CueOrPos) : State :=
  (s.updPlacement ch fun p => { p with runStart := none }).updChan ch fun x =>
    { x with stream := .readback { job := c.job, parked := c.ctx, pos := startPos s start * 64 }
             suspended := x.secondNotice }

theorem chan_readbackBegun (s : State) (ch : Nat) (c : Capture) (start : CueOrPos) :
    (readbackBegun s ch c start).chan ch = { s.chan ch with
      stream := .readback { job := c.job, parked := c.ctx, pos := startPos s start * 64 }
      suspended := (s.chan ch).secondNotice } :=
  chan_updChan _ _ _

theorem startedReadback_eq (s : State) (ch : Nat) (c : Capture) (label : BitVec 16) (start : CueOrPos) :
    startedReadback s ch c label start =
      done (readbackBegun (readbackCued s c label) ch c start) [.ref ((readbackCued s c label).cueRef s.lowestFreeCue)] :=
  rfl

theorem readbackAnswer_of_capture {s : State} {ch : Nat} {c : Capture} (stream : (s.chan ch).stream = .capture c)
    (label : BitVec 16) (start : CueOrPos) : readbackAnswer s ch label start =
      checked s
        [(startRange s c.job.idx start, .range), (c.running || !(s.placement ch).inflight.isEmpty, .busy),
          (startStale s start, .stale), (startForeign s c.job.idx start, .notPermitted), (startAtEnd s start, .range),
          (decide (s.cueFree = 0), .cueFull)]
        (startedReadback s ch c label start) := by
  rw [readbackAnswer, captureOf_eq stream]

/-- Every check of READBACK passes for a paused capture with no frame in flight and a start in its job (R129). -/
theorem readbackChecks_pass {s : State} {ch : Nat} {c : Capture} {start : CueOrPos} (paused : c.running = false)
    (placed : (s.placement ch).inflight = []) (free : 0 < s.cueFree)
    (starts : match start with
      | .pos p => p < (s.job c.job.idx).length
      | .cue r => s.cueCurrent r = true ∧
          ∃ b, (s.cue r.idx).body = some b ∧ b.job.idx = c.job.idx ∧ b.anchor ≠ .jobEnd) :
    firstFailing [(startRange s c.job.idx start, .range), (c.running || !(s.placement ch).inflight.isEmpty, .busy),
      (startStale s start, .stale), (startForeign s c.job.idx start, .notPermitted), (startAtEnd s start, .range),
      (decide (s.cueFree = 0), .cueFull)] = none := by
  have room : s.cueFree ≠ 0 := by omega
  cases start with
  | pos p => simp [startRange, startStale, startForeign, startAtEnd, firstFailing, paused, placed, room, starts]
  | cue r =>
    obtain ⟨current, b, body, own, anchored⟩ := starts
    have low := idx_lt_of_cueCurrent current
    have job := cueJob_of_body body
    simp [startRange, startStale, startForeign, startAtEnd, firstFailing, paused, placed, room, current, body, job, own,
      anchored, low]

/-- Settles O39: READBACK places its cue and parks the capture; READBACK END and RECORD bring the capture back. -/
theorem readbackStartsAndEnds : Obligations.ReadbackStartsAndEnds := by
  unfold Obligations.ReadbackStartsAndEnds
  refine ⟨?_, fun l s who tag r routed stream => ?_, fun l s who tag r routed stream alone => ?_⟩
  · intro l label start s who tag c routed stream paused placed free starts
    have added : CueAdded s (readbackCued s c label) c.job.idx
        (newCue s c.job.idx .readback label c.ctx.point (.reporter (s.job c.job.idx).reporter)) :=
      cueAdded_addCue _ _ _ _ _ _
    obtain ⟨n, body⟩ := added.placed
    have answer := serve_passing (owner := fun _ s => readbackAnswer s l label start) routed
      (readbackAnswer_of_capture stream label start)
      (readbackChecks_pass paused placed free starts) (startedReadback_eq s l c label start)
    rw [← exec_readback, added.cueRef] at answer
    generalize readbackCued s c label = v at added body answer
    have chans : v.chans = s.chans := (congrArg State.chans added.frame :)
    have chan (k : Nat) : v.chan k = s.chan k := by rw [State.chan, State.chan, chans]
    have cueFree : v.cueFree = s.cueFree - 1 := (congrArg State.cueFree added.frame :)
    refine ⟨readbackBegun v l c start, _, answer, ?_, body, rfl, rfl, rfl, rfl, rfl, cueFree, added.others, ?_,
      fun k other => ?_, ?_⟩
    · rw [chan_readbackBegun, chan]
      cases start with
      | pos p => rfl
      | cue r =>
        dsimp only
        rw [cuePos_congr (u := readbackBegun v l c (.cue r)) (s := v) rfl rfl (fun _ => rfl) fun _ => rfl]
        rfl
    · exact (congrArg Placement.runStart (placement_setPlacement _ _ _) :)
    · exact (chan_updChan_ne _ other _).trans (chan k)
    · rw [added.frame]
      rfl
  · refine ⟨s.restoreCapture l r false, ?_, restoreCapture_haltedTo s l r false⟩
    rw [exec_readbackEnd]
    refine serve_unchecked routed ?_
    rw [readbackEndAnswer, readbackOf_eq stream]
    rfl
  · refine ⟨(s.restoreCapture l r true).clearNoContinuation l, ?_,
      (restoreCapture_haltedTo s l r true).updChan fun x => { x with noContinuation := false }⟩
    rw [exec_record]
    exact serve_unchecked routed (recordAnswer_of_readback stream alone)

end Sys2Proof.Machine
end

section
/-! ## Takes closed, linked, split and merged

What a TAKE cue placed or removed does to the takes of its job and to the ready queue (R78, R80, R81), and the requests
that place and remove a cue (R55 to R63). -/

set_option Elab.async false

namespace Sys2Proof.Machine
open State

/-! ### Takes up to their sequence -/

/-- A take without its readiness sequence. -/
def TakeBody.unsequenced (b : TakeBody) : TakeBody := { b with seq := none }

/-- A change that touches nothing but the takes and the ready queue. -/
def TakesOnly (s u : State) : Prop := u = { s with takes := u.takes, ready := u.ready, readiness := u.readiness }

theorem TakesOnly.trans {s u v : State} (first : TakesOnly s u) (second : TakesOnly u v) : TakesOnly s v := by
  unfold TakesOnly at *
  rw [second, first]

theorem takesOnly_refl (s : State) : TakesOnly s s := rfl

theorem takesOnly_updTakeBody (s : State) (i : Nat) (f : TakeBody → TakeBody) : TakesOnly s (s.updTakeBody i f) := rfl

theorem takesOnly_enterQueue (s : State) (i : Nat) : TakesOnly s (s.enterQueue i) := enterQueue_frame s i

theorem takesOnly_leaveQueue (s : State) (i : Nat) : TakesOnly s (s.leaveQueue i) := rfl

theorem mem_ready_enterQueue_ne (s : State) {i k : Nat} (other : k ≠ i) : k ∈ (s.enterQueue i).ready ↔ k ∈ s.ready := by
  unfold enterQueue
  split
  · exact Iff.rfl
  · refine (insertByKey_perm _ _ _).mem_iff.trans (List.mem_cons.trans ?_)
    rw [or_iff_right other]
    change k ∈ State.ready (ite _ _ s) ↔ _
    split
    · split
      · exact Iff.rfl
      · exact Iff.rfl
    · exact Iff.rfl

theorem mem_ready_leaveQueue (s : State) (i k : Nat) : k ∈ (s.leaveQueue i).ready ↔ k ∈ s.ready ∧ k ≠ i := by
  simp [leaveQueue, List.mem_filter]

/-- A take other than the one that enters or leaves. -/
structure TakeKept (s u : State) (k : Nat) : Prop where
  take : u.take k = s.take k
  queued : k ∈ u.ready ↔ k ∈ s.ready

theorem TakeKept.trans {s u v : State} {k : Nat} (first : TakeKept s u k) (second : TakeKept u v k) : TakeKept s v k :=
  ⟨second.take.trans first.take, second.queued.trans first.queued⟩

theorem TakeKept.refl (s : State) (k : Nat) : TakeKept s s k := ⟨rfl, Iff.rfl⟩

theorem takeKept_updTakeBody (s : State) {i k : Nat} (other : k ≠ i) (f : TakeBody → TakeBody) :
    TakeKept s (s.updTakeBody i f) k :=
  ⟨take_updTakeBody_ne s other f, Iff.rfl⟩

theorem takeKept_enterQueue (s : State) {i k : Nat} (other : k ≠ i) : TakeKept s (s.enterQueue i) k :=
  ⟨take_enterQueue_ne s other, mem_ready_enterQueue_ne s other⟩

theorem takeKept_leaveQueue (s : State) {i k : Nat} (other : k ≠ i) : TakeKept s (s.leaveQueue i) k :=
  ⟨rfl, by rw [mem_ready_leaveQueue, and_iff_left other]⟩

/-! ### A take entered under a condition -/

section EnterIf

variable (s : State) (c : Prop) [Decidable c] (n : Nat)

/-- A take entered in the queue when a condition holds: a follow-behind job's OPEN take (R74). -/
def enterIf : State := if c then s.enterQueue n else s

theorem enterIf_takesOnly : TakesOnly s (enterIf s c n) := by
  unfold enterIf
  split
  · exact takesOnly_enterQueue s n
  · exact takesOnly_refl s

theorem takeKept_enterIf {k : Nat} (other : k ≠ n) : TakeKept s (enterIf s c n) k := by
  unfold enterIf
  split
  · exact takeKept_enterQueue s other
  · exact TakeKept.refl s k

theorem body_enterIf {b : TakeBody} (body : (s.take n).body = some b) :
    ((enterIf s c n).take n).body.map TakeBody.unsequenced = some b.unsequenced := by
  unfold enterIf
  split
  · obtain ⟨q, entered⟩ := body_enterQueue body
    rw [entered]
    rfl
  · rw [body]
    rfl

theorem mem_ready_enterIf (holds : c) : n ∈ (enterIf s c n).ready := by
  unfold enterIf
  rw [if_pos holds]
  exact mem_ready_enterQueue s n

end EnterIf

/-! ### The last take closed (R78, R79) -/

/-- The state of a take once it is closed at its present length. -/
def TakeState.closed : TakeState → TakeState
  | .opened => .ready
  | .following => .claimed
  | x => x

/-- What a close of a take at its present length leaves. -/
structure TakeClosed (s u : State) (t : Nat) (b : TakeBody) : Prop where
  body : (u.take t).body.map TakeBody.unsequenced = some { b with state := b.state.closed, seq := none }
  others : ∀ k, k ≠ t → TakeKept s u k
  only : TakesOnly s u
  queued : b.state = .opened → t ∈ u.ready

theorem takeClosed_unchanged {s : State} {t : Nat} {b : TakeBody} (body : (s.take t).body = some b)
    (kept : b.state.closed = b.state) (notOpen : b.state ≠ .opened) : TakeClosed s s t b where
  body := by rw [body, kept]; rfl
  others := fun k _ => TakeKept.refl s k
  only := takesOnly_refl s
  queued := fun opened => absurd opened notOpen

theorem takeClosed_closeTake {s : State} {t : Nat} {b : TakeBody} (body : (s.take t).body = some b) :
    TakeClosed s (s.closeTake t) t b := by
  rw [closeTake, body]
  dsimp only
  cases state : b.state with
  | opened =>
    have changed := body_updTakeBody body fun b => { b with state := .ready }
    refine ⟨?_, fun k other => (takeKept_updTakeBody s other _).trans (takeKept_enterQueue _ other),
      (takesOnly_updTakeBody s t _).trans (takesOnly_enterQueue _ t), fun _ => mem_ready_enterQueue _ t⟩
    obtain ⟨q, entered⟩ := body_enterQueue changed
    rw [entered, state]
    rfl
  | following =>
    refine ⟨?_, fun k other => takeKept_updTakeBody s other _, takesOnly_updTakeBody s t _, fun opened => ?_⟩
    · rw [body_updTakeBody body, state]
      rfl
    · rw [state] at opened
      cases opened
  | ready => exact takeClosed_unchanged body (by rw [state]; rfl) (by rw [state]; exact TakeState.noConfusion)
  | claimed => exact takeClosed_unchanged body (by rw [state]; rfl) (by rw [state]; exact TakeState.noConfusion)
  | returned => exact takeClosed_unchanged body (by rw [state]; rfl) (by rw [state]; exact TakeState.noConfusion)

/-! ### A take linked after another (R78, R80) -/

/-- A change that touches nothing but the takes, the ready queue and the jobs. -/
def TakesMoved (s u : State) : Prop :=
  u = { s with takes := u.takes, ready := u.ready, readiness := u.readiness, jobs := u.jobs, takeFree := u.takeFree }

theorem TakesMoved.trans {s u v : State} (first : TakesMoved s u) (second : TakesMoved u v) : TakesMoved s v := by
  unfold TakesMoved at *
  rw [second, first]

theorem takesMoved_refl (s : State) : TakesMoved s s := rfl

theorem TakesOnly.moved {s u : State} (only : TakesOnly s u) : TakesMoved s u := by
  unfold TakesMoved
  rw [only]

theorem takesMoved_closeTake (s : State) (t : Nat) : TakesMoved s (s.closeTake t) := by
  cases body : (s.take t).body with
  | none => rw [closeTake, body]; exact takesMoved_refl s
  | some b => exact (takeClosed_closeTake body).only.moved

theorem takesMoved_linkNewTake (s : State) (j prev : Nat) (b : TakeBody) : TakesMoved s (s.linkNewTake j prev b).1 := rfl

/-- What a new take linked after another leaves. -/
structure TakeLinked (s u : State) (j prev n : Nat) (new old : TakeBody) : Prop where
  later : (u.take n).body = some new
  earlier : (u.take prev).body = some { old with next := some (s.takeRef n) }
  others : ∀ k, k ≠ prev → k ≠ n → TakeKept s u k
  job : u.job j = { s.job j with takeCount := (s.job j).takeCount + 1 }
  frame : u = { s with takes := u.takes, jobs := u.jobs, takeFree := s.takeFree - 1 }

theorem takeLinked_linkNewTake {s : State} {prev : Nat} {old : TakeBody} (j : Nat) (new : TakeBody)
    (body : (s.take prev).body = some old) (fresh : prev ≠ s.lowestFreeTake) :
    TakeLinked s (s.linkNewTake j prev new).1 j prev s.lowestFreeTake new old := by
  have filled : (s.newTake new).1.take s.lowestFreeTake = { s.take s.lowestFreeTake with body := some new } :=
    take_setTake s _ _
  have other (k : Nat) (ne : k ≠ s.lowestFreeTake) : (s.newTake new).1.take k = s.take k := take_setTake_ne s _ _ _ ne
  have ref : (s.newTake new).1.takeRef s.lowestFreeTake = s.takeRef s.lowestFreeTake := by rw [takeRef, filled]; rfl
  have linked (k : Nat) : (s.linkNewTake j prev new).1.take k = ((s.newTake new).1.updTakeBody prev fun x =>
    { x with next := some ((s.newTake new).1.takeRef s.lowestFreeTake) }).take k := rfl
  refine ⟨?_, ?_, fun k ne new => ⟨?_, Iff.rfl⟩, job_setJob _ _ _, rfl⟩
  · rw [linked, take_updTakeBody_ne _ (Ne.symm fresh), filled]
  · rw [linked, ref, body_updTakeBody (b := old) (by rw [other _ fresh]; exact body)]
  · rw [linked, take_updTakeBody_ne _ ne, other k new]

/-! ### A take divided by a TAKE cue (R78, R80) -/

/-- What a TAKE cue leaves of the take it divides: the earlier part, the later part, and the other takes. -/
structure TakeDivided (s u : State) (j l n : Nat) (later earlier : TakeBody) : Prop where
  later : (u.take n).body.map TakeBody.unsequenced = some later
  earlier : (u.take l).body.map TakeBody.unsequenced = some earlier
  others : ∀ k, k ≠ l → k ≠ n → TakeKept s u k
  count : (u.job j).takeCount = (s.job j).takeCount + 1
  takeFree : u.takeFree = s.takeFree - 1

/-- A take closed after a new one is linked to it, and the new one entered when the job is follow-behind (R78, R80). -/
theorem takeDivided_close {s v : State} {j l n : Nat} {new old : TakeBody} (linked : TakeLinked s v j l n new old)
    (fresh : l ≠ n) :
    TakeDivided s (enterIf (v.closeTake l) (((v.closeTake l).job j).follow = true) n) j l n new.unsequenced
      { old with next := some (s.takeRef n), seq := none, state := old.state.closed } ∧
    (old.state = .opened → l ∈ (enterIf (v.closeTake l) (((v.closeTake l).job j).follow = true) n).ready) ∧
    ((s.job j).follow = true → n ∈ (enterIf (v.closeTake l) (((v.closeTake l).job j).follow = true) n).ready) := by
  have closed := takeClosed_closeTake linked.earlier
  have job : (v.closeTake l).job j = v.job j := (congrArg (fun u : State => u.job j) closed.only :)
  have kept := closed.others _ (Ne.symm fresh)
  rw [job, linked.job]
  have entered := takeKept_enterIf (v.closeTake l) ((s.job j).follow = true) n fresh
  have only := closed.only.trans (enterIf_takesOnly (v.closeTake l) ((s.job j).follow = true) n)
  refine ⟨⟨?_, ?_, fun k ne ne' => ?_, ?_, ?_⟩, fun opened => ?_, fun follow => ?_⟩
  · exact body_enterIf _ ((s.job j).follow = true) _ (by rw [kept.take]; exact linked.later)
  · rw [entered.take]
    exact closed.body
  · exact ((linked.others k ne ne').trans (closed.others k ne)).trans (takeKept_enterIf _ ((s.job j).follow = true) _ ne')
  · exact (congrArg (fun u : State => (u.job j).takeCount) only :).trans (congrArg Job.takeCount linked.job)
  · exact (congrArg State.takeFree only :).trans (congrArg State.takeFree linked.frame :)
  · exact entered.queued.2 (closed.queued opened)
  · exact mem_ready_enterIf _ ((s.job j).follow = true) _ follow

/-- The last take closed and a new OPEN one begun at the cue (R78). -/
theorem takeDivided_headTake {s : State} {j l : Nat} {b : TakeBody} (cue : Nat) (last : s.lastTake j = some (l, b))
    (body : (s.take l).body = some b) (fresh : l ≠ s.lowestFreeTake) :
    TakeDivided s (s.headTake j cue) j l s.lowestFreeTake { job := s.jobRef j, start := some (s.cueRef cue) }
      { b with next := some (s.takeRef s.lowestFreeTake), seq := none, state := b.state.closed } ∧
    (b.state = .opened → l ∈ (s.headTake j cue).ready) ∧
    ((s.job j).follow = true → s.lowestFreeTake ∈ (s.headTake j cue).ready) := by
  rw [headTake, last]
  exact takeDivided_close (takeLinked_linkNewTake j { job := s.jobRef j, start := some (s.cueRef cue) } body fresh) fresh

theorem takeStart_congr {s u : State} (pos : ∀ i, u.cuePos i = s.cuePos i) (t : TakeBody) :
    u.takeStart t = s.takeStart t := by
  unfold takeStart
  cases t.start with
  | none => rfl
  | some c => exact pos c.idx

theorem cuePos_linkNewTake (s : State) (j prev : Nat) (b : TakeBody) (i : Nat) :
    (s.linkNewTake j prev b).1.cuePos i = s.cuePos i := by
  have job (k : Nat) : ((s.linkNewTake j prev b).1.job k).segHead = (s.job k).segHead ∧
      ((s.linkNewTake j prev b).1.job k).length = (s.job k).length := by
    by_cases same : k = j
    · rw [same, show (s.linkNewTake j prev b).1.job j = { s.job j with takeCount := (s.job j).takeCount + 1 } from
        job_setJob _ _ _]
      exact ⟨rfl, rfl⟩
    · rw [show (s.linkNewTake j prev b).1.job k = s.job k from job_setJob_ne _ _ _ _ same]
      exact ⟨rfl, rfl⟩
  exact cuePos_congr rfl rfl (fun k => (job k).1) fun k => (job k).2

/-- The resume position that the earlier part of a divided take keeps: one inside it (R80). -/
def resumeWithin (frames : Nat) (resume : Option Nat) : Option Nat :=
  match resume with
  | some p => if frames ≤ p / 64 then none else some p
  | none => none

theorem resumeWithin_eq (frames : Nat) (resume : Option Nat) :
    resumeWithin frames resume = if frames ≤ resume.getD 0 / 64 then none else resume := by
  cases resume with
  | none => exact (ite_self _).symm
  | some p => rfl

/-- The state in which a take is linked after the divided one, and the earlier part has its resume position (R80). -/
def splitLinked (s : State) (j c cue : Nat) (b : TakeBody) : State :=
  (s.linkNewTake j c { job := b.job, start := some (s.cueRef cue), next := b.next, state := b.state }).1.updTakeBody c
    fun x => { x with resume := resumeWithin (s.cuePos cue - s.takeStart b) x.resume }

theorem splitTake_eq {s : State} {j c cue : Nat} {b : TakeBody} (body : (s.take c).body = some b) :
    s.splitTake j c cue = match b.state with
      | .opened => enterIf ((splitLinked s j c cue b).closeTake c)
          ((((splitLinked s j c cue b).closeTake c).job j).follow = true) s.lowestFreeTake
      | .ready => (splitLinked s j c cue b).enterQueue s.lowestFreeTake
      | .following | .claimed | .returned => splitLinked s j c cue b := by
  unfold splitTake
  rw [body]
  dsimp only
  rw [cuePos_linkNewTake, takeStart_congr (cuePos_linkNewTake s j c _)]
  rfl

theorem takeLinked_splitLinked {s : State} {l : Nat} {b : TakeBody} (j cue : Nat) (body : (s.take l).body = some b)
    (fresh : l ≠ s.lowestFreeTake) :
    TakeLinked s (splitLinked s j l cue b) j l s.lowestFreeTake
      { job := b.job, start := some (s.cueRef cue), next := b.next, state := b.state }
      { b with resume := resumeWithin (s.cuePos cue - s.takeStart b) b.resume } := by
  have linked := takeLinked_linkNewTake j { job := b.job, start := some (s.cueRef cue), next := b.next, state := b.state }
    body fresh
  have kept (k : Nat) (ne : k ≠ l) := takeKept_updTakeBody (s.linkNewTake j l
    { job := b.job, start := some (s.cueRef cue), next := b.next, state := b.state }).1 ne fun x =>
      { x with resume := resumeWithin (s.cuePos cue - s.takeStart b) x.resume }
  unfold splitLinked
  refine ⟨?_, ?_, fun k ne ne' => (linked.others k ne ne').trans (kept k ne), linked.job, ?_⟩
  · rw [(kept _ (Ne.symm fresh)).take]
    exact linked.later
  · rw [body_updTakeBody linked.earlier]
  · rw [linked.frame]
    rfl

/-- A READY or OPEN take divided at a TAKE cue inside it (R80). -/
theorem takeDivided_splitTake {s : State} {j l : Nat} {b : TakeBody} (cue : Nat) (body : (s.take l).body = some b)
    (fresh : l ≠ s.lowestFreeTake) (editable : b.state = .ready ∨ b.state = .opened) :
    TakeDivided s (s.splitTake j l cue) j l s.lowestFreeTake
      { job := b.job, start := some (s.cueRef cue), next := b.next, state := b.state }
      { b with next := some (s.takeRef s.lowestFreeTake), seq := none, state := .ready
               resume := resumeWithin (s.cuePos cue - s.takeStart b) b.resume } ∧
    (b.state = .opened → l ∈ (s.splitTake j l cue).ready) ∧
    (b.state = .ready ∨ (s.job j).follow = true → s.lowestFreeTake ∈ (s.splitTake j l cue).ready) := by
  have linked := takeLinked_splitLinked j cue body fresh
  rw [splitTake_eq body]
  rcases editable with state | state
  · rw [state] at linked ⊢
    generalize splitLinked s j l cue b = v at linked
    have entered := takeKept_enterQueue v fresh
    have only := takesOnly_enterQueue v s.lowestFreeTake
    refine ⟨⟨?_, ?_, fun k ne ne' => (linked.others k ne ne').trans (takeKept_enterQueue v ne'), ?_, ?_⟩,
      fun opened => (nomatch opened), fun _ => mem_ready_enterQueue _ _⟩
    · obtain ⟨q, queued⟩ := body_enterQueue linked.later
      dsimp only
      rw [queued]
      rfl
    · dsimp only
      rw [entered.take, linked.earlier, ← state]
      rfl
    · exact (congrArg (fun u : State => (u.job j).takeCount) only :).trans (congrArg Job.takeCount linked.job)
    · exact (congrArg State.takeFree only :).trans (congrArg State.takeFree linked.frame :)
  · obtain ⟨divided, earlier, later⟩ := takeDivided_close linked fresh
    dsimp only at divided earlier
    rw [state] at divided earlier ⊢
    refine ⟨divided, earlier, ?_⟩
    rintro (ready | follow)
    · cases ready
    · exact later follow

theorem takesMoved_headTake (s : State) (j cue : Nat) : TakesMoved s (s.headTake j cue) := by
  unfold headTake
  split
  · exact takesMoved_refl s
  · next l b _ =>
    exact ((takesMoved_linkNewTake s j l _).trans (takesMoved_closeTake _ l)).trans (enterIf_takesOnly _ _ _).moved

theorem takesMoved_splitTake (s : State) (j c cue : Nat) : TakesMoved s (s.splitTake j c cue) := by
  cases body : (s.take c).body with
  | none =>
    rw [splitTake, body]
    exact takesMoved_refl s
  | some b =>
    have linked : TakesMoved s (splitLinked s j c cue b) := rfl
    rw [splitTake_eq body]
    split
    · exact (linked.trans (takesMoved_closeTake _ c)).trans (enterIf_takesOnly _ _ _).moved
    · exact linked.trans (takesOnly_enterQueue _ _).moved
    all_goals exact linked

theorem takesMoved_takeChange (s : State) (f : Place) (containing : Option Nat) (cue : Nat) :
    TakesMoved s (s.takeChange f containing cue) := by
  unfold takeChange
  split
  · exact takesMoved_splitTake s _ _ _
  · exact takesMoved_headTake s _ _
  · exact takesMoved_refl s

/-! ### PLACE CUE (R55 to R60) -/

theorem code_of_kindOf {n : Nat} {k : CueKind} (kind : kindOf n = some k) : n = k.code := by
  unfold kindOf at kind
  split at kind <;> cases kind <;> rfl

theorem code_bounds (k : CueKind) : 1 ≤ k.code ∧ k.code ≤ 8 := by
  cases k <;> decide

theorem eq_take_of_code {k : CueKind} (code : k.code = 1) : k = .take := by
  cases k <;> simp [CueKind.code] at code ⊢

theorem body_of_mem_jobTakes {s : State} {j l : Nat} {b : TakeBody} (mem : (l, b) ∈ s.jobTakes j) :
    (s.take l).body = some b :=
  body_of_mem_takesFrom mem

theorem body_of_lastTake {s : State} {j l : Nat} {b : TakeBody} (last : s.lastTake j = some (l, b)) :
    (s.take l).body = some b :=
  body_of_mem_jobTakes (List.mem_of_getLast? last)

theorem body_of_containingTake {s : State} {j q l : Nat} {b : TakeBody} (found : s.containingTake j q = some (l, b)) :
    (s.take l).body = some b :=
  body_of_mem_jobTakes (List.mem_of_mem_filter (List.mem_of_getLast? found))

theorem exec_placeCue (p : Port) (kind : Nat) (label : BitVec 16) (f : Place) (s : State) :
    exec (.placeCue p kind label f) s = serve p (.placeCue kind label f) s fun p s =>
      checked s
        [((p.isTypist && decide (kind ≠ 6)) || !p.mayUse f, .notPermitted),
          (decide (kind = 0) || decide (8 < kind) || placeRange s p.link f, .range),
          (placeStale s f, .stale), (placeForeign s p f, .notPermitted), (placeState s p kind f, .state),
          (!p.isTypist && (s.job (s.placeJob f)).held, .held), (placeFrozen s kind f, .frozen),
          (placeEmpty s kind f, .emptyTake), (decide (s.cueFree = 0), .cueFull),
          (decide (kind = 1) && decide (s.takeFree = 0), .takeFull)]
        (placedCue s p kind label f) :=
  rfl

/-- The state in which the cue of a PLACE CUE stands in its list, before the takes change. -/
def cuePlaced (s : State) (p : Party) (k : CueKind) (label : BitVec 16) (f : Place) : State :=
  (s.addCue (s.placeJob f) k label (s.placeAnchor p.link f) p.placer).1

/-- The take that a cue by position falls in. -/
def dividedTake (s : State) : Place → Option Nat
  | .atPosition job q => (s.containingTake job.idx q).map Prod.fst
  | .atCapturePoint _ | .atTakePosition .. | .atChannel _ => none

/-- The state PLACE CUE leaves (R58). -/
def cueAndTakes (s : State) (p : Party) (k : CueKind) (label : BitVec 16) (f : Place) : State :=
  if k = .take then (cuePlaced s p k label f).takeChange f (dividedTake s f) s.lowestFreeCue else cuePlaced s p k label f

theorem placedCue_of_kind {s : State} {p : Party} {kind : Nat} {k : CueKind} (named : kindOf kind = some k)
    (label : BitVec 16) (f : Place) : placedCue s p kind label f = done (cueAndTakes s p k label f)
      [.ref ((cuePlaced s p k label f).cueRef s.lowestFreeCue),
        .num 3 ((cuePlaced s p k label f).cuePos s.lowestFreeCue)] := by
  unfold placedCue
  rw [named]
  cases f <;> rfl

theorem takesMoved_cueAndTakes (s : State) (p : Party) (k : CueKind) (label : BitVec 16) (f : Place) :
    TakesMoved (cuePlaced s p k label f) (cueAndTakes s p k label f) := by
  unfold cueAndTakes
  split
  · exact takesMoved_takeChange _ _ _ _
  · exact takesMoved_refl _

/-- A TAKE cue that passes its checks falls in a READY or OPEN take (R60). -/
theorem editable_of_placed {s : State} {job : Ref} {q l : Nat} {b : TakeBody} {ch : Nat}
    (found : s.containingTake job.idx q = some (l, b)) (range : placeRange s ch (.atPosition job q) = false)
    (stale : placeStale s (.atPosition job q) = false) (frozen : placeFrozen s 1 (.atPosition job q) = false)
    (empty : placeEmpty s 1 (.atPosition job q) = false) : b.state = .ready ∨ b.state = .opened := by
  have current : s.jobCurrent job = true := by simpa [placeStale] using stale
  have within : q ≤ (s.job job.idx).length := by
    simp only [placeRange, current, Bool.true_and, Bool.or_eq_false_iff, decide_eq_false_iff_not] at range
    omega
  have notEnd : q ≠ (s.job job.idx).length := by
    simp only [placeEmpty, decide_true, Bool.true_and, Bool.or_eq_false_iff, decide_eq_false_iff_not] at empty
    exact empty.1
  have inside : q < (s.job job.idx).length := by omega
  simp only [placeFrozen, found, inside, decide_true, Bool.true_and] at frozen
  by_contra neither
  rw [not_or] at neither
  simp [neither.1, neither.2] at frozen

/-- The checks of PLACE CUE, all passed (R57). -/
theorem placeChecks_pass {s : State} {p : Party} {k : CueKind} {f : Place} (notes : p.isTypist = true → k = .note)
    (form : p.mayUse f = true) (range : placeRange s p.link f = false) (stale : placeStale s f = false)
    (foreign : placeForeign s p f = false) (state : placeState s p k.code f = false)
    (held : p.isTypist = true ∨ (s.job (s.placeJob f)).held = false) (frozen : placeFrozen s k.code f = false)
    (empty : placeEmpty s k.code f = false) (cueRoom : 0 < s.cueFree) (takeRoom : k = .take → 0 < s.takeFree) :
    firstFailing [((p.isTypist && decide (k.code ≠ 6)) || !p.mayUse f, .notPermitted),
      (decide (k.code = 0) || decide (8 < k.code) || placeRange s p.link f, .range),
      (placeStale s f, .stale), (placeForeign s p f, .notPermitted), (placeState s p k.code f, .state),
      (!p.isTypist && (s.job (s.placeJob f)).held, .held), (placeFrozen s k.code f, .frozen),
      (placeEmpty s k.code f, .emptyTake), (decide (s.cueFree = 0), .cueFull),
      (decide (k.code = 1) && decide (s.takeFree = 0), .takeFull)] = none := by
  have code := code_bounds k
  have note : (p.isTypist && decide (k.code ≠ 6)) = false := by
    cases typist : p.isTypist with
    | false => rfl
    | true =>
      rw [notes typist]
      rfl
  have low : k.code ≠ 0 := by omega
  have high : ¬8 < k.code := by omega
  have heldCheck : (!p.isTypist && (s.job (s.placeJob f)).held) = false := by
    rcases held with typist | free
    · rw [typist]
      rfl
    · rw [free, Bool.and_false]
  have cues : s.cueFree ≠ 0 := by omega
  have takes : (decide (k.code = 1) && decide (s.takeFree = 0)) = false := by
    by_cases take : k = .take
    · have room : s.takeFree ≠ 0 := by have := takeRoom take; omega
      simp [room]
    · simp [mt eq_take_of_code take]
  simp only [note, form, low, high, range, stale, foreign, state, heldCheck, frozen, empty, cues, takes, firstFailing,
    Bool.not_true, Bool.or_false, decide_false]
  rfl

theorem ne_lowestFreeTake {s : State} {l : Nat} {b : TakeBody} (canon : Canonical s) (body : (s.take l).body = some b) :
    l ≠ s.lowestFreeTake := by
  rintro rfl
  rw [(take_lowestFreeTake canon).1] at body
  cases body

/-- Settles O28. -/
theorem placeCueAddsCue : Obligations.PlaceCueAddsCue := by
  unfold Obligations.PlaceCueAddsCue
  intro p kind label f s who tag k routed named notes form range stale foreign state held frozen empty cueRoom takeRoom
  obtain rfl : kind = k.code := code_of_kindOf named
  have answer := serve_passing (owner := fun p s => checked s
        [((p.isTypist && decide (k.code ≠ 6)) || !p.mayUse f, .notPermitted),
          (decide (k.code = 0) || decide (8 < k.code) || placeRange s p.link f, .range),
          (placeStale s f, .stale), (placeForeign s p f, .notPermitted), (placeState s p k.code f, .state),
          (!p.isTypist && (s.job (s.placeJob f)).held, .held), (placeFrozen s k.code f, .frozen),
          (placeEmpty s k.code f, .emptyTake), (decide (s.cueFree = 0), .cueFull),
          (decide (k.code = 1) && decide (s.takeFree = 0), .takeFull)]
        (placedCue s p k.code label f)) routed rfl
      (placeChecks_pass notes form range stale foreign state held frozen empty cueRoom takeRoom)
      (placedCue_of_kind named label f)
  rw [← exec_placeCue] at answer
  have added : CueAdded s (cuePlaced s who k label f) (s.placeJob f)
      (newCue s (s.placeJob f) k label (s.placeAnchor who.link f) who.placer) := cueAdded_addCue _ _ _ _ _ _
  have moved := takesMoved_cueAndTakes s who k label f
  have plain : k ≠ .take → cueAndTakes s who k label f = cuePlaced s who k label f := fun other => if_neg other
  have changed : k = .take → cueAndTakes s who k label f =
      (cuePlaced s who k label f).takeChange f (dividedTake s f) s.lowestFreeCue := fun take => if_pos take
  generalize cueAndTakes s who k label f = u at answer moved plain changed
  generalize cuePlaced s who k label f = v at answer moved plain changed added
  have cue (i : Nat) : u.cue i = v.cue i := (congrArg (fun w : State => w.cue i) moved :)
  have takes : v.takes = s.takes := (congrArg State.takes added.frame :)
  have take (i : Nat) : v.take i = s.take i := by rw [State.take, State.take, takes]
  have ready : v.ready = s.ready := (congrArg State.ready added.frame :)
  have takeFree : v.takeFree = s.takeFree := (congrArg State.takeFree added.frame :)
  have lowest : v.lowestFreeTake = s.lowestFreeTake := by rw [lowestFreeTake, lowestFreeTake, takes]
  have takeRef (i : Nat) : v.takeRef i = s.takeRef i := by rw [State.takeRef, State.takeRef, take]
  obtain ⟨n, body⟩ := added.placed
  rw [added.cueRef] at answer
  refine ⟨u, v.cuePos s.lowestFreeCue, _, answer, (congrArg Cue.body (cue _)).trans body, rfl, rfl, rfl, rfl, rfl,
    (congrArg State.cueFree moved :).trans (congrArg State.cueFree added.frame :), fun i ne => ?_, fun other => ?_,
    (congrArg State.chans moved :).trans (congrArg State.chans added.frame :),
    (congrArg State.links moved :).trans (congrArg State.links added.frame :),
    (congrArg State.exts moved :).trans (congrArg State.exts added.frame :),
    (congrArg State.segFree moved :).trans (congrArg State.segFree added.frame :),
    (congrArg State.notices moved :).trans (congrArg State.notices added.frame :), added.cuePos_new, ?_, ?_⟩
  · rw [cue]
    exact added.others i ne
  · rw [plain other]
    exact ⟨takes, ready, takeFree⟩
  · rintro job c n l b isTake canon rfl last rfl rfl
    obtain ⟨first, same⟩ := added.job_eq job.idx
    have last' : v.lastTake job.idx = some (l, b) := by
      rw [lastTake, jobTakes_congr take (by rw [same])]
      exact last
    have fresh : l ≠ v.lowestFreeTake := by
      rw [lowest]
      exact ne_lowestFreeTake canon (body_of_lastTake last)
    obtain ⟨divided, opened, follow⟩ := takeDivided_headTake s.lowestFreeCue last' (body_of_lastTake last') fresh
    have head : u = v.headTake job.idx s.lowestFreeCue := changed isTake
    have ref : v.jobRef job.idx = s.jobRef job.idx := by rw [jobRef, jobRef, same]
    rw [← head, lowest, takeRef, added.cueRef, ref] at divided
    rw [← head] at opened follow
    rw [lowest] at follow
    refine ⟨divided.later, divided.earlier, fun i ne ne' => ?_, opened, fun set => follow (by rw [same]; exact set),
      divided.takeFree.trans (congrArg (· - 1) takeFree), divided.count.trans (by rw [same])⟩
    have kept := divided.others i ne ne'
    exact ⟨kept.take.trans (take i), kept.queued.trans (by rw [ready])⟩
  · rintro job c n q l b isTake canon rfl found start rfl rfl
    obtain ⟨first, same⟩ := added.job_eq job.idx
    have body' : (v.take l).body = some b := by
      rw [take]
      exact body_of_containingTake found
    have fresh : l ≠ v.lowestFreeTake := by
      rw [lowest]
      exact ne_lowestFreeTake canon (body_of_containingTake found)
    subst isTake
    have editable := editable_of_placed found range stale frozen empty
    obtain ⟨divided, opened, later⟩ := takeDivided_splitTake (j := job.idx) s.lowestFreeCue body' fresh editable
    have split : u = v.splitTake job.idx l s.lowestFreeCue := by
      rw [changed rfl, dividedTake, found]
      rfl
    have begins : v.takeStart b = s.takeStart b := by
      unfold takeStart
      cases at_ : b.start with
      | none => rfl
      | some x =>
        exact added.cuePos_ne fun newest => start x at_ (by rw [newest]; exact (cue_lowestFreeCue canon).1)
    rw [← split, lowest, takeRef, added.cueRef, begins, resumeWithin_eq] at divided
    rw [← split] at opened later
    rw [lowest] at later
    refine ⟨divided.later, divided.earlier, fun i ne ne' => ?_, opened, fun set => later (by rw [same]; exact set),
      divided.takeFree.trans (congrArg (· - 1) takeFree), divided.count.trans (by rw [same])⟩
    have kept := divided.others i ne ne'
    exact ⟨kept.take.trans (take i), kept.queued.trans (by rw [ready])⟩

end Sys2Proof.Machine
end

section
/-! ## A cue removed

What REMOVE CUE leaves of the cues, and of the two takes that a TAKE cue divided (R52, R62, R63, R81). -/

set_option Elab.async false

namespace Sys2Proof.Machine
open State

/-! ### A cue unlinked and freed (R52, R62) -/

theorem unlinkCue_eq (s : State) (i : Nat) : s.unlinkCue i = s ∨ ∃ j l, s.unlinkCue i = (s.orderCues j l).refreshParts j := by
  unfold unlinkCue
  split
  · exact Or.inl rfl
  · exact Or.inr ⟨_, _, rfl⟩

/-- What an unlinked cue leaves: the cues in another order, and nothing else but the CUE parts and the heads of the
lists. -/
structure CuesRelinked (s u : State) : Prop where
  cues : SameCues s u
  segs : SameSegs s u
  job : ∀ k, ∃ first, u.job k = { s.job k with firstCue := first }
  frame : u = { s with cues := u.cues, jobs := u.jobs, segs := u.segs }

theorem CuesRelinked.refl (s : State) : CuesRelinked s s :=
  ⟨SameCues.refl s, SameSegs.refl s, fun k => ⟨(s.job k).firstCue, rfl⟩, rfl⟩

theorem cuesRelinked_orderCues (s : State) (j : Nat) (l : List Nat) :
    CuesRelinked s ((s.orderCues j l).refreshParts j) := by
  refine ⟨(sameCues_orderCues s j l).trans (SameCues.of_cues (refreshParts_cues _ j)),
    SameSegs.trans (SameSegs.of_segs (orderCues_segs s j l)) (sameSegs_refreshParts _ j), fun k => ?_, ?_⟩
  · rw [refreshParts_job]
    by_cases same : k = j
    · rw [same, job_orderCues]
      exact ⟨_, rfl⟩
    · rw [job_orderCues_ne _ _ same]
      exact ⟨(s.job k).firstCue, rfl⟩
  · rw [refreshParts_frame, orderCues_frame]

theorem cuesRelinked_unlinkCue (s : State) (i : Nat) : CuesRelinked s (s.unlinkCue i) := by
  rcases unlinkCue_eq s i with same | ⟨j, l, ordered⟩
  · rw [same]
    exact CuesRelinked.refl s
  · rw [ordered]
    exact cuesRelinked_orderCues s j l

theorem cue_freeCue (s : State) (i : Nat) : (s.freeCue i).cue i = { issue := (s.cue i).issue + 1, body := none } :=
  cue_setCue _ _ _

theorem cue_freeCue_ne (s : State) {i k : Nat} (other : k ≠ i) : (s.freeCue i).cue k = s.cue k :=
  cue_setCue_ne _ _ _ _ other

/-! ### A take freed, and two takes merged (R71, R81) -/

theorem take_freeTake (s : State) (i : Nat) : (s.freeTake i).take i = { issue := (s.take i).issue + 1, body := none } :=
  take_setTake _ _ _

theorem takeKept_freeTake (s : State) {i k : Nat} (other : k ≠ i) : TakeKept s (s.freeTake i) k :=
  ⟨take_setTake_ne _ _ _ _ other, by
    change k ∈ (s.leaveQueue i).ready ↔ _
    rw [mem_ready_leaveQueue, and_iff_left other]⟩

theorem not_mem_ready_freeTake (s : State) (i : Nat) : i ∉ (s.freeTake i).ready := by
  change i ∉ (s.leaveQueue i).ready
  rw [mem_ready_leaveQueue]
  exact fun h => h.2 rfl

/-- What the merge of a later take into an earlier one leaves: the earlier take in a state, queued while it stays so. -/
structure TakesMerged (s u : State) (j e g : Nat) (merged : TakeBody) (stays : Prop) : Prop where
  freed : u.take g = { issue := (s.take g).issue + 1, body := none }
  kept : u.take e = { s.take e with body := some merged }
  others : ∀ i, i ≠ e → i ≠ g → TakeKept s u i
  left : g ∉ u.ready
  queued : e ∈ u.ready ↔ e ∈ s.ready ∧ stays
  takeFree : u.takeFree = s.takeFree + 1
  count : (u.job j).takeCount = (s.job j).takeCount - 1

/-- The state in which the later take is freed and the earlier one linked past it. -/
def takeBypassed (s : State) (j e g : Nat) (y : TakeBody) : State :=
  (((s.leaveQueue g).updTakeBody e fun b => { b with next := y.next }).updJob j fun x =>
    { x with takeCount := x.takeCount - 1 }).freeTake g

theorem mergeTakes_of_body {s : State} {j e g : Nat} {y : TakeBody} (body : (s.take g).body = some y) :
    s.mergeTakes j e g = if y.state = .opened then
      (if (((takeBypassed s j e g y).updTakeBody e fun b => { b with state := .opened }).job j).follow then
        (takeBypassed s j e g y).updTakeBody e fun b => { b with state := .opened }
      else ((takeBypassed s j e g y).updTakeBody e fun b => { b with state := .opened }).leaveQueue e)
    else takeBypassed s j e g y := by
  rw [mergeTakes, body]
  dsimp only
  cases state : y.state <;> rfl

/-- The merged take made OPEN (R81). -/
theorem TakesMerged.opened {s v : State} {j e g : Nat} {m : TakeBody} {stays : Prop}
    (past : TakesMerged s v j e g m stays) (apart : e ≠ g) :
    TakesMerged s (v.updTakeBody e fun b => { b with state := .opened }) j e g { m with state := .opened } stays := by
  have body : (v.take e).body = some m := by rw [past.kept]
  have kept (k : Nat) (ne : k ≠ e) := takeKept_updTakeBody v ne fun b => { b with state := .opened }
  refine ⟨(kept g (Ne.symm apart)).take.trans past.freed, ?_, fun i ne ne' => (past.others i ne ne').trans (kept i ne),
    past.left, past.queued, past.takeFree, past.count⟩
  rw [updTakeBody_eq body, take_setTake, past.kept]

/-- The merged take taken out of the queue. -/
theorem TakesMerged.unqueued {s v : State} {j e g : Nat} {m : TakeBody} {stays : Prop}
    (past : TakesMerged s v j e g m stays) : TakesMerged s (v.leaveQueue e) j e g m False := by
  refine ⟨past.freed, past.kept, fun i ne ne' => (past.others i ne ne').trans (takeKept_leaveQueue _ ne),
    fun queued => past.left ((mem_ready_leaveQueue _ _ _).1 queued).1, ?_, past.takeFree, past.count⟩
  rw [mem_ready_leaveQueue, and_false]
  exact iff_of_false (fun h => h.2 rfl) id

theorem TakesMerged.congr {s u : State} {j e g : Nat} {m : TakeBody} {stays stays' : Prop}
    (past : TakesMerged s u j e g m stays) (same : stays ↔ stays') : TakesMerged s u j e g m stays' :=
  { past with queued := past.queued.trans (and_congr_right fun _ => same) }

section Merge

variable {s : State} {j e g : Nat} {x y : TakeBody} (earlier : (s.take e).body = some x) (apart : e ≠ g)

include earlier apart

theorem takesMerged_takeBypassed :
    TakesMerged s (takeBypassed s j e g y) j e g { x with next := y.next } True := by
  have changed := updTakeBody_eq (s := s.leaveQueue g) (i := e) earlier fun b => { b with next := y.next }
  have kept (k : Nat) (ne : k ≠ g) : TakeKept ((s.leaveQueue g).updTakeBody e fun b => { b with next := y.next })
      (takeBypassed s j e g y) k :=
    TakeKept.trans (u := ((s.leaveQueue g).updTakeBody e fun b => { b with next := y.next }).updJob j fun x =>
      { x with takeCount := x.takeCount - 1 }) ⟨rfl, Iff.rfl⟩ (takeKept_freeTake _ ne)
  refine ⟨?_, ?_, fun i ne ne' => ?_, not_mem_ready_freeTake _ g, ?_, rfl, ?_⟩
  · have before : ((s.leaveQueue g).updTakeBody e fun b => { b with next := y.next }).take g = s.take g :=
      take_updTakeBody_ne _ (Ne.symm apart) _
    rw [← before]
    exact take_freeTake _ g
  · rw [(kept e apart).take, changed]
    exact take_setTake _ _ _
  · exact ((takeKept_leaveQueue s ne').trans (takeKept_updTakeBody _ ne _)).trans (kept i ne')
  · rw [(kept e apart).queued, and_iff_left trivial]
    exact (mem_ready_leaveQueue s g e).trans (and_iff_left apart)
  · exact (congrArg Job.takeCount (job_setJob _ _ _) :)

/-- Removal of a TAKE cue merges the later take into the earlier (R81). -/
theorem takesMerged_mergeTakes (later : (s.take g).body = some y) :
    TakesMerged s (s.mergeTakes j e g) j e g
      { x with next := y.next, state := if y.state = .opened then .opened else x.state }
      (y.state = .opened → (s.job j).follow = true) := by
  rw [mergeTakes_of_body later]
  have past := takesMerged_takeBypassed (j := j) (y := y) earlier apart
  have job : (takeBypassed s j e g y).job j = { s.job j with takeCount := (s.job j).takeCount - 1 } := job_setJob _ _ _
  generalize takeBypassed s j e g y = v at past job
  by_cases state : y.state = .opened
  · have merged := past.opened apart
    rw [if_pos state, if_pos state, show (v.updTakeBody e fun b => { b with state := .opened }).job j = v.job j from rfl, job]
    by_cases follow : (s.job j).follow = true
    · rw [if_pos follow]
      exact merged.congr (iff_of_true trivial fun _ => follow)
    · rw [if_neg follow]
      exact merged.unqueued.congr (iff_of_false id fun h => follow (h state))
  · rw [if_neg state, if_neg state]
    exact past.congr (iff_of_true trivial fun h => absurd h state)

end Merge

/-! ### REMOVE CUE (R62, R63) -/

theorem exec_removeCue (p : Port) (r : Ref) (s : State) :
    exec (.removeCue p r) s = serve p (.removeCue r) s fun p s =>
      checked s
        (cueChecks s r ++
          [(!s.mayRemove p r.idx, .notPermitted), (decide ((s.job (s.cueJob r.idx)).state = .retiring), .state),
            (!p.isTypist && (s.job (s.cueJob r.idx)).held, .held), (s.removalFrozen r.idx, .frozen)])
        (removedCue s r) :=
  rfl

/-- The two takes that the cue divides, when it is a TAKE cue. -/
def dividedTakes (s : State) (i : Nat) : Option ((Nat × TakeBody) × (Nat × TakeBody)) :=
  if s.cueIs i .take then s.takesAround (s.cueJob i) i else none

/-- The takes merged around a removed cue (R81). -/
def mergedAround (s : State) (j : Nat) : Option ((Nat × TakeBody) × (Nat × TakeBody)) → State
  | some ((e, _), (f, _)) => s.mergeTakes j e f
  | none => s

theorem removedCue_eq (s : State) (r : Ref) : removedCue s r =
    done ((mergedAround (s.unlinkCue r.idx) (s.cueJob r.idx) (dividedTakes s r.idx)).freeCue r.idx) := by
  unfold removedCue dividedTakes
  dsimp only
  generalize (if s.cueIs r.idx .take = true then s.takesAround (s.cueJob r.idx) r.idx else none) = around
  cases around <;> rfl

theorem takesMoved_mergeTakes (s : State) (j e g : Nat) : TakesMoved s (s.mergeTakes j e g) := by
  cases body : (s.take g).body with
  | none => rw [mergeTakes, body]; exact takesMoved_refl s
  | some y =>
    rw [mergeTakes_of_body body]
    have past : TakesMoved s (takeBypassed s j e g y) := rfl
    generalize takeBypassed s j e g y = v at past
    split
    · have opened := past.trans (takesOnly_updTakeBody v e fun b => { b with state := .opened }).moved
      split
      · exact opened
      · exact opened.trans (takesOnly_leaveQueue _ e).moved
    · exact past

theorem takesMoved_mergedAround (s : State) (j : Nat) (around : Option ((Nat × TakeBody) × (Nat × TakeBody))) :
    TakesMoved s (mergedAround s j around) := by
  cases around with
  | none => exact takesMoved_refl s
  | some pair => exact takesMoved_mergeTakes s j _ _

/-- The takes around a cue are takes of its job, the one next to the other. -/
theorem bodies_of_takesAround {s : State} {j i e g : Nat} {x y : TakeBody}
    (around : s.takesAround j i = some ((e, x), (g, y))) : (s.take e).body = some x ∧ (s.take g).body = some y := by
  have mem := List.mem_of_find?_eq_some around
  obtain ⟨left, right⟩ := List.of_mem_zip mem
  exact ⟨body_of_mem_jobTakes left, body_of_mem_jobTakes (List.mem_of_mem_tail right)⟩

/-- A TAKE cue that may be removed ends a READY take. -/
theorem ready_of_not_frozen {s : State} {i e g : Nat} {x y : TakeBody} (take : s.cueIs i .take = true)
    (around : s.takesAround (s.cueJob i) i = some ((e, x), (g, y))) (free : s.removalFrozen i = false) :
    x.state = .ready := by
  rw [removalFrozen, take, around, Bool.true_and, Bool.not_eq_false', Bool.and_eq_true, decide_eq_true_eq] at free
  exact free.1

/-- Settles O29. -/
theorem removeCueFreesCue : Obligations.RemoveCueFreesCue := by
  unfold Obligations.RemoveCueFreesCue
  intro p r s who tag routed current may stays held free
  have heldCheck : (!who.isTypist && (s.job (s.cueJob r.idx)).held) = false := by
    rcases held with typist | free
    · rw [typist]
      rfl
    · rw [free, Bool.and_false]
  have passes : firstFailing (cueChecks s r ++ [(!s.mayRemove who r.idx, .notPermitted),
      (decide ((s.job (s.cueJob r.idx)).state = .retiring), .state),
      (!who.isTypist && (s.job (s.cueJob r.idx)).held, .held), (s.removalFrozen r.idx, .frozen)]) = none := by
    rw [firstFailing_cueChecks current]
    simp [firstFailing, may, stays, heldCheck, free]
  have relinked := cuesRelinked_unlinkCue s r.idx
  have moved := takesMoved_mergedAround (s.unlinkCue r.idx) (s.cueJob r.idx) (dividedTakes s r.idx)
  refine ⟨(mergedAround (s.unlinkCue r.idx) (s.cueJob r.idx) (dividedTakes s r.idx)).freeCue r.idx, ?_, ?_⟩
  · rw [exec_removeCue]
    exact serve_passing routed rfl passes (removedCue_eq s r)
  generalize s.unlinkCue r.idx = v at relinked moved ⊢
  have takes : v.takes = s.takes := (congrArg State.takes relinked.frame :)
  have take (i : Nat) : v.take i = s.take i := by rw [State.take, State.take, takes]
  have ready : v.ready = s.ready := (congrArg State.ready relinked.frame :)
  have takeFree : v.takeFree = s.takeFree := (congrArg State.takeFree relinked.frame :)
  have around : s.cueIs r.idx .take = true → dividedTakes s r.idx = s.takesAround (s.cueJob r.idx) r.idx :=
    fun isTake => if_pos isTake
  have plain : s.cueIs r.idx .take = false → dividedTakes s r.idx = none := fun other => if_neg (by rw [other]; decide)
  generalize dividedTakes s r.idx = pair at moved around plain ⊢
  generalize merges : mergedAround v (s.cueJob r.idx) pair = u at moved ⊢
  have cue (i : Nat) : u.cue i = v.cue i := (congrArg (fun w : State => w.cue i) moved :)
  refine ⟨?_, ?_, fun i ne => ?_, fun other => ?_, (congrArg State.chans moved :).trans (congrArg State.chans relinked.frame :),
    (congrArg State.links moved :).trans (congrArg State.links relinked.frame :),
    (congrArg State.exts moved :).trans (congrArg State.exts relinked.frame :),
    (congrArg State.segFree moved :).trans (congrArg State.segFree relinked.frame :),
    (congrArg State.notices moved :).trans (congrArg State.notices relinked.frame :), ?_⟩
  · rw [cue_freeCue, cue, relinked.cues.issue]
  · exact congrArg (· + 1) ((congrArg State.cueFree moved :).trans (congrArg State.cueFree relinked.frame :))
  · rw [cue_freeCue_ne _ ne, cue]
    exact relinked.cues.body i
  · obtain rfl := plain other
    rw [← merges]
    exact ⟨takes, ready, takeFree⟩
  · intro e g x y isTake divides apart
    obtain rfl := (around isTake).trans divides
    obtain ⟨earlier, later⟩ := bodies_of_takesAround divides
    obtain ⟨first, job⟩ := relinked.job (s.cueJob r.idx)
    have merged := takesMerged_mergeTakes (s := v) (j := s.cueJob r.idx) (by rw [take]; exact earlier) apart
      (by rw [take]; exact later)
    rw [show v.mergeTakes (s.cueJob r.idx) e g = u from merges] at merged
    rw [ready_of_not_frozen isTake divides free, job] at merged
    refine ⟨merged.freed.trans (by rw [take]), merged.kept.trans (by rw [take]), fun i ne ne' => ?_, merged.left,
      merged.queued.trans (by rw [ready]), merged.takeFree.trans (by rw [takeFree]), merged.count.trans (by rw [job])⟩
    have kept := merged.others i ne ne'
    exact ⟨kept.take.trans (take i), kept.queued.trans (by rw [ready])⟩

end Sys2Proof.Machine
end

section
/-! ## References to extents dropped, and the sweep

What the end of a reference to an extent leaves (R28, R98, R101), and the steps of the retirement sweep and of the
completion reports (R14, R91, R171 to R174). -/

set_option Elab.async false

namespace Sys2Proof.Machine
open State

/-! ### The end of a reference (R98) -/

/-- What the end of a reference to an extent leaves of the extents, the two lists and the low mark. -/
structure RefDropped (s u : State) (e : Nat) : Prop where
  ext : u.ext e = { s.ext e with
    refs := (s.ext e).refs - 1
    state := if (s.ext e).refs ≤ 1 ∧ (s.ext e).state = .inUse then (if (s.ext e).taint then .scrub else .free)
      else (s.ext e).state }
  exts : ∀ x, x ≠ e → u.ext x = s.ext x
  freeList : u.freeList = if (s.ext e).refs ≤ 1 ∧ (s.ext e).state = .inUse ∧ (s.ext e).taint = false then
    s.freeList ++ [e] else s.freeList
  scrubList : u.scrubList = if (s.ext e).refs ≤ 1 ∧ (s.ext e).state = .inUse ∧ (s.ext e).taint = true then
    s.scrubList ++ [e] else s.scrubList
  mark : s.lowArmed = false → u.notices = s.notices ∧
    u.lowArmed = decide (s.freeList.length < u.freeList.length ∧ s.threshold ≤ u.freeList.length)

/-- The state with the count lowered. -/
def countLowered (s : State) (e : Nat) : State := s.setExt e { s.ext e with refs := (s.ext e).refs - 1 }

theorem ext_countLowered (s : State) (e : Nat) :
    (countLowered s e).ext e = { s.ext e with refs := (s.ext e).refs - 1 } := ext_setExt _ _ _

theorem ext_countLowered_ne (s : State) {e x : Nat} (other : x ≠ e) : (countLowered s e).ext x = s.ext x :=
  ext_setExt_ne _ _ _ _ other

theorem refDown_eq (s : State) (e : Nat) :
    s.refDown e = if (s.ext e).refs - 1 = 0 then (countLowered s e).dispose e else countLowered s e := by
  have refs : ((countLowered s e).ext e).refs = (s.ext e).refs - 1 := congrArg Ext.refs (ext_countLowered s e)
  rw [← refs]
  rfl

theorem dispose_of_clean {s : State} {e : Nat} (used : (s.ext e).state = .inUse) (clean : (s.ext e).taint = false) :
    s.dispose e = ({ s.setExt e { s.ext e with state := .free } with freeList := s.freeList ++ [e] } : State).testLow := by
  unfold dispose
  dsimp only
  rw [used, clean]
  rfl

theorem dispose_of_tainted {s : State} {e : Nat} (used : (s.ext e).state = .inUse) (tainted : (s.ext e).taint = true) :
    s.dispose e =
      ({ s.setExt e { s.ext e with state := .scrub } with scrubList := s.scrubList ++ [e] } : State).claimScrub := by
  unfold dispose
  dsimp only
  rw [used, tainted]
  rfl

theorem dispose_of_other {s : State} {e : Nat} (other : (s.ext e).state ≠ .inUse) : s.dispose e = s := by
  unfold dispose
  dsimp only
  split
  · next used => exact absurd used other
  all_goals rfl

/-- A reference that is not the last, or that is to an extent not IN-USE, disposes of nothing. -/
theorem refDropped_of_kept {s : State} {e : Nat} (kept : ¬((s.ext e).refs ≤ 1 ∧ (s.ext e).state = .inUse)) :
    RefDropped s (s.refDown e) e := by
  have same : s.refDown e = countLowered s e := by
    rw [refDown_eq]
    split
    · next zero =>
      refine dispose_of_other ?_
      rw [ext_countLowered]
      exact fun used => kept ⟨by omega, used⟩
    · rfl
  have kept' (taint : Bool) : ¬((s.ext e).refs ≤ 1 ∧ (s.ext e).state = .inUse ∧ (s.ext e).taint = taint) :=
    fun h => kept ⟨h.1, h.2.1⟩
  rw [same]
  refine ⟨by rw [ext_countLowered, if_neg kept], fun x other => ext_countLowered_ne s other, by rw [if_neg (kept' _)]; rfl,
    by rw [if_neg (kept' _)]; rfl, fun spent => ⟨rfl, ?_⟩⟩
  change s.lowArmed = decide (s.freeList.length < s.freeList.length ∧ _)
  rw [spent]
  simp

/-- The test of a SPENT mark (R101). -/
theorem testLow_of_spent {s : State} (spent : s.lowArmed = false) :
    s.testLow = { s with lowArmed := decide (s.threshold ≤ s.freeList.length) } := by
  by_cases reached : s.threshold ≤ s.freeList.length
  · rw [testLow_of_spent_reached spent reached, decide_eq_true reached]
  · rw [testLow_of_spent_below spent (by omega), decide_eq_false reached, ← spent]

/-- The state in which the extent of the last reference has its new state. -/
def extDisposed (s : State) (e : Nat) (state : ExtState) : State :=
  (countLowered s e).setExt e { s.ext e with refs := (s.ext e).refs - 1, state := state }

theorem ext_extDisposed (s : State) (e : Nat) (state : ExtState) :
    (extDisposed s e state).ext e = { s.ext e with refs := (s.ext e).refs - 1, state := state } := ext_setExt _ _ _

theorem ext_extDisposed_ne (s : State) {e x : Nat} (state : ExtState) (other : x ≠ e) :
    (extDisposed s e state).ext x = s.ext x :=
  (ext_setExt_ne _ _ _ _ other).trans (ext_countLowered_ne s other)

/-- The last reference to a clean extent: the extent is FREE again. -/
theorem refDropped_of_clean {s : State} {e : Nat} (last : (s.ext e).refs ≤ 1) (used : (s.ext e).state = .inUse)
    (clean : (s.ext e).taint = false) : RefDropped s (s.refDown e) e := by
  have freed : s.refDown e = ({ extDisposed s e .free with freeList := s.freeList ++ [e] } : State).testLow := by
    rw [refDown_eq, if_pos (by omega), dispose_of_clean (by rw [ext_countLowered]; exact used)
      (by rw [ext_countLowered]; exact clean), ext_countLowered]
    rfl
  rw [freed]
  refine ⟨?_, fun x other => ?_, ?_, ?_, fun spent => ?_⟩
  · rw [testLow_ext, if_pos ⟨last, used⟩, clean]
    exact ext_extDisposed s e .free
  · rw [testLow_ext]
    exact ext_extDisposed_ne s .free other
  · rw [testLow_freeList, if_pos ⟨last, used, clean⟩]
  · rw [testLow_scrubList, if_neg (by rw [clean]; simp)]
    rfl
  · rw [testLow_of_spent (by exact spent)]
    exact ⟨rfl, decide_eq_decide.2 (iff_and_self.2 fun _ => by simp)⟩

/-- The last reference to a tainted extent: the extent waits to be scrubbed. -/
theorem refDropped_of_tainted {s : State} {e : Nat} (last : (s.ext e).refs ≤ 1) (used : (s.ext e).state = .inUse)
    (tainted : (s.ext e).taint = true) : RefDropped s (s.refDown e) e := by
  have queued : s.refDown e = ({ extDisposed s e .scrub with scrubList := s.scrubList ++ [e] } : State).claimScrub := by
    rw [refDown_eq, if_pos (by omega), dispose_of_tainted (by rw [ext_countLowered]; exact used)
      (by rw [ext_countLowered]; exact tainted), ext_countLowered]
    rfl
  rw [queued]
  have freeList : ({ extDisposed s e .scrub with scrubList := s.scrubList ++ [e] } : State).claimScrub.freeList =
      s.freeList := claimScrub_freeList _
  refine ⟨?_, fun x other => ?_, ?_, ?_, fun spent => ⟨claimScrub_notices _, ?_⟩⟩
  · rw [claimScrub_ext, if_pos ⟨last, used⟩, tainted]
    exact ext_extDisposed s e .scrub
  · rw [claimScrub_ext]
    exact ext_extDisposed_ne s .scrub other
  · rw [freeList, if_neg (by rw [tainted]; simp)]
  · rw [claimScrub_scrubList, if_pos ⟨last, used, tainted⟩]
  · rw [freeList, (congrArg State.lowArmed (claimScrub_frame _) :)]
    change s.lowArmed = _
    rw [spent]
    simp

theorem refDropped_refDown (s : State) (e : Nat) : RefDropped s (s.refDown e) e := by
  by_cases last : (s.ext e).refs ≤ 1 ∧ (s.ext e).state = .inUse
  · cases taint : (s.ext e).taint with
    | false => exact refDropped_of_clean last.1 last.2 taint
    | true => exact refDropped_of_tainted last.1 last.2 taint
  · exact refDropped_of_kept last

/-! ### The CUE parts recomputed (R32) -/

theorem body_foldl_parts (part : Nat → Option Ref) (l : List (Nat × SegBody)) (s : State) (i : Nat) :
    ((l.foldl (fun t x => t.updSegBody x.1 fun b => { b with cue := part x.1 }) s).seg i).body =
      if (∃ x ∈ l, x.1 = i) then (s.seg i).body.map fun b => { b with cue := part i } else (s.seg i).body := by
  induction l generalizing s with
  | nil => simp
  | cons x rest ih =>
    rw [List.foldl_cons, ih]
    by_cases same : i = x.1
    · subst same
      have here : ∃ y ∈ x :: rest, y.1 = x.1 := ⟨x, List.mem_cons_self, rfl⟩
      rw [if_pos here, updSegBody, seg_setSeg, Option.map_map]
      split <;> rfl
    · rw [updSegBody, seg_setSeg_ne _ _ _ _ same]
      simp only [List.mem_cons, exists_eq_or_imp, Ne.symm same, false_or]

/-- A segment of the job names the first cue anchored in it. -/
theorem body_refreshParts_of_mem {s : State} {j i : Nat} {b : SegBody} (mem : (i, b) ∈ s.jobSegs j)
    (body : (s.seg i).body = some b) :
    ((s.refreshParts j).seg i).body = some { b with cue := s.firstCueIn (s.jobCues j) i } := by
  unfold refreshParts
  rw [body_foldl_parts (fun k => s.firstCueIn (s.jobCues j) k), if_pos ⟨(i, b), mem, rfl⟩, body]
  rfl

theorem cuesFrom_congr {s u : State} (cue : ∀ k, u.cue k = s.cue k) (n : Nat) (r : Option Ref) :
    u.cuesFrom n r = s.cuesFrom n r := by
  induction n generalizing r with
  | zero => rfl
  | succ n ih =>
    cases r with
    | none => rfl
    | some r =>
      rw [cuesFrom, cuesFrom, cue]
      cases (s.cue r.idx).body with
      | none => rfl
      | some b => exact congrArg ((r.idx, b) :: ·) (ih b.next)

theorem jobCues_congr {s u : State} (cue : ∀ k, u.cue k = s.cue k) {j : Nat}
    (first : (u.job j).firstCue = (s.job j).firstCue) : u.jobCues j = s.jobCues j := by
  rw [jobCues, jobCues, first]
  exact cuesFrom_congr cue _ _

theorem firstCueIn_congr {s u : State} (cue : ∀ k, u.cue k = s.cue k) (l : List (Nat × CueBody)) (i : Nat) :
    u.firstCueIn l i = s.firstCueIn l i := by
  have ref : u.cueRef = s.cueRef := funext fun k => by rw [cueRef, cueRef, cue]
  rw [firstCueIn, firstCueIn, ref]

/-! ### The heads of a job's lists -/

theorem head_of_segsFrom {s : State} {n : Nat} {o : Option Ref} {i : Nat} {b : SegBody} {more : List (Nat × SegBody)}
    (list : s.segsFrom n o = (i, b) :: more) : (s.seg i).body = some b ∧ ∃ r, o = some r ∧ r.idx = i := by
  cases n with
  | zero => cases list
  | succ n =>
    cases o with
    | none => cases list
    | some r =>
      rw [segsFrom] at list
      cases body : (s.seg r.idx).body with
      | none => rw [body] at list; cases list
      | some c =>
        rw [body] at list
        obtain ⟨head, -⟩ := List.cons.inj list
        cases head
        exact ⟨body, r, rfl, rfl⟩

theorem head_of_cuesFrom {s : State} {n : Nat} {o : Option Ref} {i : Nat} {b : CueBody} {more : List (Nat × CueBody)}
    (list : s.cuesFrom n o = (i, b) :: more) : (s.cue i).body = some b := by
  cases n with
  | zero => cases list
  | succ n =>
    cases o with
    | none => cases list
    | some r =>
      rw [cuesFrom] at list
      cases body : (s.cue r.idx).body with
      | none => rw [body] at list; cases list
      | some c =>
        rw [body] at list
        obtain ⟨head, -⟩ := List.cons.inj list
        cases head
        exact body

theorem mem_segsFrom_head {s : State} {n : Nat} {r : Ref} {g : SegBody} (room : 0 < n)
    (body : (s.seg r.idx).body = some g) : (r.idx, g) ∈ s.segsFrom n (some r) := by
  obtain ⟨m, rfl⟩ := Nat.exists_eq_succ_of_ne_zero (Nat.ne_of_gt room)
  rw [segsFrom, body]
  exact List.mem_cons_self

/-! ### A segment swept (R172) -/

theorem freeSeg_of_body {s : State} {i : Nat} {b : SegBody} (body : (s.seg i).body = some b) :
    s.freeSeg i = { (s.refDown b.extent).setSeg i { issue := (s.seg i).issue + 1, body := none } with
      segFree := s.segFree + 1 } := by
  unfold freeSeg
  rw [body]
  dsimp only
  rw [refDown_seg, refDown_segFree]

/-- The state in which the swept segment is out of its job and the anchors have moved. -/
def segUnlinked (s : State) (j i : Nat) (b : SegBody) : State :=
  (s.updJob j fun x => { x with segHead := b.next, length := x.length - b.count }).mapCueAnchors (sweptAnchor i b.next)

theorem job_segUnlinked (s : State) (j i : Nat) (b : SegBody) :
    (segUnlinked s j i b).job j = { s.job j with segHead := b.next, length := (s.job j).length - b.count } :=
  job_setJob _ _ _

theorem job_segUnlinked_ne (s : State) {j k : Nat} (i : Nat) (b : SegBody) (other : k ≠ j) :
    (segUnlinked s j i b).job k = s.job k :=
  job_setJob_ne _ _ _ _ other

theorem cue_segUnlinked {s : State} (canon : Canonical s) (j i : Nat) (b : SegBody) (m : Nat) :
    (segUnlinked s j i b).cue m = { s.cue m with
      body := (s.cue m).body.map fun c => { c with anchor := sweptAnchor i b.next c.anchor } } := by
  obtain ⟨-, -, -, -, cues, -⟩ := canon
  exact Table.get_mapListed _ _ rfl m s.cues 0 cues

theorem job_sweepCount (s : State) (j : Nat) :
    (s.sweepCount j).job j = { s.job j with sweep := (s.job j).sweep.map fun w => { w with freed := w.freed + 1 } } :=
  job_setJob _ _ _

theorem job_sweepCount_ne (s : State) {j k : Nat} (other : k ≠ j) : (s.sweepCount j).job k = s.job k :=
  job_setJob_ne _ _ _ _ other

/-- What every step of a sweep leaves. -/
structure SweepLeft (s u : State) (j : Nat) : Prop where
  jobs : ∀ k, k ≠ j → u.job k = s.job k
  chans : u.chans = s.chans
  links : u.links = s.links

/-- What the sweep of a segment leaves (R172). -/
structure SegSwept (s u : State) (j i : Nat) (b : SegBody) : Prop where
  seg : u.seg i = { issue := (s.seg i).issue + 1, body := none }
  segFree : u.segFree = s.segFree + 1
  job : u.job j = { s.job j with
    segHead := b.next, length := (s.job j).length - b.count
    sweep := (s.job j).sweep.map fun w => { w with freed := w.freed + 1 } }
  dropped : RefDropped s u b.extent
  others : ∀ m, m ≠ i → (u.seg m).body.map SegBody.uncued = (s.seg m).body.map SegBody.uncued
  cues : Canonical s → ∀ m, u.cue m = { s.cue m with
    body := (s.cue m).body.map fun c => { c with anchor := sweptAnchor i b.next c.anchor } }
  head : ∀ h g, b.next = some h → h.idx ≠ i → (s.seg h.idx).body = some g →
    (u.seg h.idx).body = some { g with cue := u.firstCueIn (u.jobCues j) h.idx }
  left : SweepLeft s u j

theorem RefDropped.congr {s s' u u' : State} {e : Nat} (dropped : RefDropped s u e) (exts : s'.exts = s.exts)
    (freeList : s'.freeList = s.freeList) (scrubList : s'.scrubList = s.scrubList) (mark : s'.lowArmed = s.lowArmed)
    (threshold : s'.threshold = s.threshold) (notices : s'.notices = s.notices) (exts' : u'.exts = u.exts)
    (freeList' : u'.freeList = u.freeList) (scrubList' : u'.scrubList = u.scrubList) (mark' : u'.lowArmed = u.lowArmed)
    (notices' : u'.notices = u.notices) : RefDropped s' u' e := by
  have ext (x : Nat) : s'.ext x = s.ext x := by rw [State.ext, State.ext, exts]
  have ext' (x : Nat) : u'.ext x = u.ext x := by rw [State.ext, State.ext, exts']
  refine ⟨by rw [ext', ext]; exact dropped.ext, fun x other => by rw [ext', ext]; exact dropped.exts x other,
    by rw [freeList', ext, freeList]; exact dropped.freeList, by rw [scrubList', ext, scrubList]; exact dropped.scrubList,
    fun spent => ?_⟩
  rw [notices', notices, mark', freeList', freeList, threshold]
  exact dropped.mark (mark ▸ spent)

theorem segSwept_sweepSegment {s : State} {j i : Nat} {b : SegBody} (body : (s.seg i).body = some b) :
    SegSwept s (s.sweepSegment j i b) j i b := by
  have same := sameSegs_refreshParts (segUnlinked s j i b) j
  have frame := refreshParts_frame (segUnlinked s j i b) j
  have head (h : Ref) (g : SegBody) (next : b.next = some h) (at_ : (s.seg h.idx).body = some g) :=
    body_refreshParts_of_mem (s := segUnlinked s j i b) (j := j) (i := h.idx) (b := g) (by
      rw [jobSegs, job_segUnlinked]
      dsimp only
      rw [next]
      exact mem_segsFrom_head (s := segUnlinked s j i b) (by decide) at_) at_
  have swept : s.sweepSegment j i b = (((segUnlinked s j i b).refreshParts j).freeSeg i).sweepCount j := rfl
  rw [swept]
  generalize (segUnlinked s j i b).refreshParts j = v at same frame head
  have seg (k : Nat) : (segUnlinked s j i b).seg k = s.seg k := rfl
  obtain ⟨c, bodyc, samec⟩ := Option.map_eq_some_iff.1 ((same.body i).trans (by rw [seg, body]; rfl) :
    (v.seg i).body.map SegBody.uncued = some b.uncued)
  have extent : c.extent = b.extent := (congrArg SegBody.extent samec :)
  have freed := freeSeg_of_body bodyc
  rw [extent] at freed
  have job (k : Nat) : (v.freeSeg i).job k = v.job k := by
    rw [freed]
    exact refDown_job v b.extent k
  have cue (k : Nat) : ((v.freeSeg i).sweepCount j).cue k = v.cue k := by
    change (v.freeSeg i).cue k = _
    rw [freed]
    exact refDown_cue v b.extent k
  have cueV (k : Nat) : v.cue k = (segUnlinked s j i b).cue k := (congrArg (fun u : State => u.cue k) frame :)
  have jobV (k : Nat) : v.job k = (segUnlinked s j i b).job k := (congrArg (fun u : State => u.job k) frame :)
  have segOf (k : Nat) (ne : k ≠ i) : ((v.freeSeg i).sweepCount j).seg k = v.seg k := by
    change (v.freeSeg i).seg k = _
    rw [freed]
    exact (seg_setSeg_ne (v.refDown b.extent) _ _ _ ne).trans (refDown_seg v b.extent k)
  refine ⟨?_, ?_, ?_, ?_, fun m ne => ?_, fun canon m => ?_, fun h g next ne at_ => ?_, fun k ne => ?_, ?_, ?_⟩
  · change (v.freeSeg i).seg i = _
    rw [freed, ← seg i, ← same.issue]
    exact seg_setSeg (v.refDown b.extent) _ _
  · change (v.freeSeg i).segFree = _
    rw [freed]
    exact congrArg (· + 1) (congrArg State.segFree frame :)
  · rw [job_sweepCount, job, jobV, job_segUnlinked]
  · rw [freed]
    exact (refDropped_refDown v b.extent).congr (congrArg State.exts frame :).symm (congrArg State.freeList frame :).symm
      (congrArg State.scrubList frame :).symm (congrArg State.lowArmed frame :).symm
      (congrArg State.threshold frame :).symm (congrArg State.notices frame :).symm rfl rfl rfl rfl rfl
  · rw [segOf m ne, same.body m, seg]
  · rw [cue, cueV]
    exact cue_segUnlinked canon j i b m
  · have cues (k : Nat) := (cue k).trans (cueV k)
    have first : (((v.freeSeg i).sweepCount j).job j).firstCue = ((segUnlinked s j i b).job j).firstCue := by
      rw [job_sweepCount, job, jobV]
    rw [segOf _ ne, head h g next at_, firstCueIn_congr cues, jobCues_congr cues first]
  · rw [job_sweepCount_ne _ ne, job, jobV]
    exact job_segUnlinked_ne s i b ne
  · change (v.freeSeg i).chans = _
    rw [freed]
    exact (refDown_chans v b.extent).trans (congrArg State.chans frame :)
  · change (v.freeSeg i).links = _
    rw [freed]
    exact (refDown_links v b.extent).trans (congrArg State.links frame :)

/-! ### A cue and a take swept (R173) -/

/-- The takes with a start boundary cleared (R173). -/
def startCleared (s : State) (r : Ref) : State :=
  { s with takes := Table.mapListed {} (fun t =>
      { t with body := t.body.map fun x => if x.start = some r then { x with start := none } else x }) s.takes }

theorem take_startCleared {s : State} (canon : Canonical s) (r : Ref) (m : Nat) :
    (startCleared s r).take m = { s.take m with
      body := (s.take m).body.map fun x => if x.start = some r then { x with start := none } else x } := by
  obtain ⟨-, -, -, -, -, takes, -⟩ := canon
  exact Table.get_mapListed _ _ rfl m s.takes 0 takes

/-- The state in which a swept cue is out of its job's list. -/
def cueHeadPassed (s : State) (j : Nat) (b : CueBody) : State := s.updJob j fun x => { x with firstCue := b.next }

theorem sweepCue_eq (s : State) (j i : Nat) (b : CueBody) : s.sweepCue j i b =
    ((if b.kind = .take then startCleared (cueHeadPassed s j b) (s.cueRef i) else cueHeadPassed s j b).freeCue i).sweepCount
      j :=
  rfl

/-- What the sweep of a cue leaves (R173). -/
structure CueSwept (s u : State) (j i : Nat) (b : CueBody) : Prop where
  cue : u.cue i = { issue := (s.cue i).issue + 1, body := none }
  cueFree : u.cueFree = s.cueFree + 1
  job : u.job j = { s.job j with
    firstCue := b.next, sweep := (s.job j).sweep.map fun w => { w with freed := w.freed + 1 } }
  others : ∀ k, k ≠ i → u.cue k = s.cue k
  segs : u.segs = s.segs
  takes : b.kind ≠ .take → u.takes = s.takes
  cleared : Canonical s → b.kind = .take → ∀ m, u.take m = { s.take m with
    body := (s.take m).body.map fun x => if x.start = some (s.cueRef i) then { x with start := none } else x }
  left : SweepLeft s u j

/-- A cue freed in a state that keeps the cues, the segments and the other jobs. -/
theorem cueSwept_of {s v : State} {j i : Nat} {b : CueBody}
    (frame : v = { s with jobs := v.jobs, takes := v.takes }) (job : v.job j = { s.job j with firstCue := b.next })
    (jobs : ∀ k, k ≠ j → v.job k = s.job k) (takes : b.kind ≠ .take → v.takes = s.takes)
    (cleared : Canonical s → b.kind = .take → ∀ m, v.take m = { s.take m with
      body := (s.take m).body.map fun x => if x.start = some (s.cueRef i) then { x with start := none } else x }) :
    CueSwept s ((v.freeCue i).sweepCount j) j i b := by
  have cue (k : Nat) : v.cue k = s.cue k := (congrArg (fun u : State => u.cue k) frame :)
  have jobFree (k : Nat) : (v.freeCue i).job k = v.job k := rfl
  have takeFree (k : Nat) : ((v.freeCue i).sweepCount j).take k = v.take k := rfl
  have cueSwept (k : Nat) : ((v.freeCue i).sweepCount j).cue k = (v.freeCue i).cue k := rfl
  refine ⟨?_, ?_, ?_, fun k ne => ?_, (congrArg State.segs frame :), takes, fun canon take m => ?_,
    fun k ne => ?_, (congrArg State.chans frame :), (congrArg State.links frame :)⟩
  · rw [cueSwept, cue_freeCue, cue]
  · exact congrArg (· + 1) (congrArg State.cueFree frame :)
  · rw [job_sweepCount, jobFree, job]
  · rw [cueSwept, cue_freeCue_ne _ ne, cue]
  · rw [takeFree, cleared canon take]
  · rw [job_sweepCount_ne _ ne, jobFree, jobs k ne]

theorem cueSwept_sweepCue (s : State) (j i : Nat) (b : CueBody) : CueSwept s (s.sweepCue j i b) j i b := by
  have job : (cueHeadPassed s j b).job j = { s.job j with firstCue := b.next } := job_setJob _ _ _
  have jobs (k : Nat) (ne : k ≠ j) : (cueHeadPassed s j b).job k = s.job k := job_setJob_ne _ _ _ _ ne
  have frame : cueHeadPassed s j b = { s with jobs := (cueHeadPassed s j b).jobs } := rfl
  rw [sweepCue_eq]
  generalize cueHeadPassed s j b = v at job jobs frame
  by_cases take : b.kind = .take
  · rw [if_pos take]
    refine cueSwept_of ?_ job jobs (fun other => absurd take other) fun canon _ m => ?_
    · rw [frame]
      rfl
    · have same : startCleared v (s.cueRef i) = { startCleared s (s.cueRef i) with jobs := v.jobs } := by
        rw [frame]
        rfl
      rw [same]
      exact take_startCleared canon _ m
  · rw [if_neg take]
    refine cueSwept_of ?_ job jobs (fun _ => (congrArg State.takes frame :)) fun _ take' => absurd take' take
    rw [frame]

/-- What the sweep of a take leaves (R173). -/
structure TakeSwept (s u : State) (j i : Nat) (b : TakeBody) : Prop where
  take : u.take i = { issue := (s.take i).issue + 1, body := none }
  takeFree : u.takeFree = s.takeFree + 1
  job : u.job j = { s.job j with
    takeHead := b.next, takeCount := (s.job j).takeCount - 1
    sweep := (s.job j).sweep.map fun w => { w with freed := w.freed + 1 } }
  others : ∀ k, k ≠ i → u.take k = s.take k
  segs : u.segs = s.segs
  cues : u.cues = s.cues
  left : SweepLeft s u j

/-- The state in which a swept take is out of its job's list. -/
def takeHeadPassed (s : State) (j : Nat) (b : TakeBody) : State :=
  s.updJob j fun x => { x with takeHead := b.next, takeCount := x.takeCount - 1 }

theorem takeSwept_sweepTake (s : State) (j i : Nat) (b : TakeBody) : TakeSwept s (s.sweepTake j i b) j i b := by
  have job : (takeHeadPassed s j b).job j = { s.job j with
      takeHead := b.next, takeCount := (s.job j).takeCount - 1 } := job_setJob _ _ _
  have jobs (k : Nat) (ne : k ≠ j) : (takeHeadPassed s j b).job k = s.job k := job_setJob_ne _ _ _ _ ne
  have frame : takeHeadPassed s j b = { s with jobs := (takeHeadPassed s j b).jobs } := rfl
  rw [show s.sweepTake j i b = ((takeHeadPassed s j b).freeTake i).sweepCount j from rfl]
  generalize takeHeadPassed s j b = v at job jobs frame
  have take (k : Nat) : v.take k = s.take k := (congrArg (fun u : State => u.take k) frame :)
  have jobFree (k : Nat) : (v.freeTake i).job k = v.job k := rfl
  have takeSwept (k : Nat) : ((v.freeTake i).sweepCount j).take k = (v.freeTake i).take k := rfl
  refine ⟨?_, ?_, ?_, fun k ne => ?_, (congrArg State.segs frame :), (congrArg State.cues frame :), fun k ne => ?_,
    (congrArg State.chans frame :), (congrArg State.links frame :)⟩
  · rw [takeSwept, take_freeTake, take]
  · exact congrArg (· + 1) (congrArg State.takeFree frame :)
  · rw [job_sweepCount, jobFree, job]
  · rw [takeSwept, (takeKept_freeTake v ne).take, take]
  · rw [job_sweepCount_ne _ ne, jobFree, jobs k ne]

/-! ### The phases and the end of a sweep (R171, R174) -/

theorem sweepLeft_sweepPhase (s : State) (j : Nat) (p : Phase) : SweepLeft s (s.sweepPhase j p) j :=
  ⟨fun _ ne => job_setJob_ne _ _ _ _ ne, rfl, rfl⟩

theorem job_sweepPhase (s : State) (j : Nat) (p : Phase) :
    (s.sweepPhase j p).job j = { s.job j with sweep := some { phase := p, freed := 0 } } := job_setJob _ _ _

theorem sweepLeft_sweepFinish (s : State) (j : Nat) : SweepLeft s (s.sweepFinish j) j := by
  unfold sweepFinish
  refine ⟨fun k ne => ?_, raise_chans _ _, raise_links _ _⟩
  exact (job_setJob_ne _ _ _ _ ne).trans (raise_job s _ k)

theorem sweepFinish_of_room {s : State} {j : Nat} (room : s.notices.length < 32) : s.sweepFinish j =
    { ({ s with notices := s.notices ++ [.retired (s.jobRef j) (s.job j).docket (s.job j).reporter] } : State).setJob j
        { issue := (s.job j).issue + 1 } with retiring := s.retiring.filter fun k => k != j } := by
  unfold sweepFinish
  dsimp only
  rw [raise_of_room room]

/-- The step of a sweep in a phase (R171). -/
def sweepIn (s : State) (j : Nat) : Phase → State
  | .segments => match s.jobSegs j with | (i, b) :: _ => s.sweepSegment j i b | [] => s.sweepPhase j .cues
  | .cues => match s.jobCues j with | (i, b) :: _ => s.sweepCue j i b | [] => s.sweepPhase j .takes
  | .takes => match s.jobTakes j with | (i, b) :: _ => s.sweepTake j i b | [] => s.sweepFinish j

section Steps

variable {s : State} {j : Nat} {rest : List Nat} {w : Sweep} (head : s.retiring = j :: rest)
  (sweep : (s.job j).sweep = some w)

include head sweep

theorem sweepStep_eq : s.sweepStep = sweepIn s j w.phase := by
  unfold sweepStep
  rw [head]
  dsimp only
  rw [sweep, Option.getD_some]
  cases w.phase <;> rfl

theorem sweepStep_of_segment {i : Nat} {b : SegBody} {more : List (Nat × SegBody)} (phase : w.phase = .segments)
    (list : s.jobSegs j = (i, b) :: more) : s.sweepStep = s.sweepSegment j i b := by
  simp only [sweepStep_eq head sweep, phase, sweepIn, list]

theorem sweepStep_of_no_segment (phase : w.phase = .segments) (list : s.jobSegs j = []) :
    s.sweepStep = s.sweepPhase j .cues := by
  simp only [sweepStep_eq head sweep, phase, sweepIn, list]

theorem sweepStep_of_cue {i : Nat} {b : CueBody} {more : List (Nat × CueBody)} (phase : w.phase = .cues)
    (list : s.jobCues j = (i, b) :: more) : s.sweepStep = s.sweepCue j i b := by
  simp only [sweepStep_eq head sweep, phase, sweepIn, list]

theorem sweepStep_of_no_cue (phase : w.phase = .cues) (list : s.jobCues j = []) :
    s.sweepStep = s.sweepPhase j .takes := by
  simp only [sweepStep_eq head sweep, phase, sweepIn, list]

theorem sweepStep_of_take {i : Nat} {b : TakeBody} {more : List (Nat × TakeBody)} (phase : w.phase = .takes)
    (list : s.jobTakes j = (i, b) :: more) : s.sweepStep = s.sweepTake j i b := by
  simp only [sweepStep_eq head sweep, phase, sweepIn, list]

theorem sweepStep_of_no_take (phase : w.phase = .takes) (list : s.jobTakes j = []) :
    s.sweepStep = s.sweepFinish j := by
  simp only [sweepStep_eq head sweep, phase, sweepIn, list]

end Steps

theorem sweepLeft_sweepStep {s : State} {j : Nat} {rest : List Nat} {w : Sweep} (head : s.retiring = j :: rest)
    (sweep : (s.job j).sweep = some w) : SweepLeft s s.sweepStep j := by
  cases phase : w.phase with
  | segments =>
    cases list : s.jobSegs j with
    | nil =>
      rw [sweepStep_of_no_segment head sweep phase list]
      exact sweepLeft_sweepPhase s j .cues
    | cons x more =>
      rw [sweepStep_of_segment head sweep phase list]
      exact (segSwept_sweepSegment (head_of_segsFrom list).1).left
  | cues =>
    cases list : s.jobCues j with
    | nil =>
      rw [sweepStep_of_no_cue head sweep phase list]
      exact sweepLeft_sweepPhase s j .takes
    | cons x more =>
      rw [sweepStep_of_cue head sweep phase list]
      exact (cueSwept_sweepCue s j x.1 x.2).left
  | takes =>
    cases list : s.jobTakes j with
    | nil =>
      rw [sweepStep_of_no_take head sweep phase list]
      exact sweepLeft_sweepFinish s j
    | cons x more =>
      rw [sweepStep_of_take head sweep phase list]
      exact (takeSwept_sweepTake s j x.1 x.2).left

/-! ### Completion reports (R14, R91) -/

/-- A report that completes its job: the job is current and CLOSED, and all its takes are RETURNED. -/
theorem completionReport_eq {s : State} {r : Ref} {rest : List Ref} (reports : s.reports = r :: rest) :
    s.completionReport =
      if (s.jobCurrent r && decide ((s.job r.idx).state = .closed) && s.allReturned r.idx) = true then
        (({ s with reports := rest } : State).updJob r.idx fun j => { j with state := .complete }).raise (.jobComplete r)
      else { s with reports := rest } := by
  have returned : ({ s with reports := rest } : State).allReturned r.idx = s.allReturned r.idx :=
    allReturned_congr (s := s) (u := { s with reports := rest }) (fun _ => rfl) rfl
  rw [completionReport, reports, ← returned]
  rfl

/-- Settles O60. -/
theorem sweepsAndReports : Obligations.SweepsAndReports := by
  unfold Obligations.SweepsAndReports
  refine ⟨fun s j rest w head sweep => ?_, fun s r rest reports => ⟨fun current closed returned => ?_, fun dropped => ?_⟩⟩
  · have left := sweepLeft_sweepStep head sweep
    refine ⟨s.sweepStep, rfl, left.jobs, left.chans, left.links, fun i b more phase list => ?_, fun phase list => ?_,
      fun i b more phase list => ?_, fun phase list => ?_, fun i b more phase list => ?_, fun phase list room => ?_⟩
    · have swept := segSwept_sweepSegment (j := j) (head_of_segsFrom list).1
      rw [← sweepStep_of_segment head sweep phase list] at swept
      have job := swept.job
      rw [sweep, Option.map_some] at job
      refine ⟨swept.seg, swept.segFree, by rw [job], by rw [job], by rw [job], swept.dropped.ext, swept.dropped.exts,
        swept.dropped.freeList, swept.dropped.scrubList, swept.dropped.mark, swept.others, fun canon m => ?_, swept.head⟩
      exact swept.cues canon m
    · rw [sweepStep_of_no_segment head sweep phase list]
      exact ⟨rfl, job_sweepPhase s j .cues⟩
    · have swept := cueSwept_sweepCue s j i b
      rw [← sweepStep_of_cue head sweep phase list] at swept
      have job := swept.job
      rw [sweep, Option.map_some] at job
      exact ⟨swept.cue, swept.cueFree, job, swept.others, swept.segs, swept.takes, swept.cleared⟩
    · rw [sweepStep_of_no_cue head sweep phase list]
      exact ⟨rfl, job_sweepPhase s j .takes⟩
    · have swept := takeSwept_sweepTake s j i b
      rw [← sweepStep_of_take head sweep phase list] at swept
      have job := swept.job
      rw [sweep, Option.map_some] at job
      exact ⟨swept.take, swept.takeFree, job, swept.others, swept.segs, swept.cues⟩
    · rw [sweepStep_of_no_take head sweep phase list, sweepFinish_of_room room]
      exact ⟨job_setJob _ _ _, rfl, rfl, rfl, rfl, rfl⟩
  · refine ⟨({ s with reports := rest } : State).updJob r.idx fun j => { j with state := .complete }, ?_, ?_, fun k ne => ?_, rfl⟩
    · refine congrArg Host.Outcome.next ((completionReport_eq reports).trans (if_pos ?_))
      rw [current, closed, returned]
      rfl
    · exact job_setJob _ _ _
    · exact job_setJob_ne _ _ _ _ ne
  · refine congrArg Host.Outcome.next ((completionReport_eq reports).trans (if_neg ?_))
    rw [Bool.and_eq_true, Bool.and_eq_true, decide_eq_true_eq]
    rintro ⟨⟨current, closed⟩, returned⟩
    rcases dropped with stale | other | waiting
    · rw [current] at stale
      cases stale
    · exact other closed
    · rw [returned] at waiting
      cases waiting

end Sys2Proof.Machine
end

section
/-! ## Frames that arrive

The destination a captured frame is given, the write it claims, and the end of a capture that finds none (R34, R35, R123,
R128). -/

set_option Elab.async false

namespace Sys2Proof.Machine
open State

/-! ### Destinations (R35) -/

theorem newDest_of_room {s : State} {j : Nat} {t : Tail} (tail : (s.job j).tail = some t) (room : t.fill < 4096) :
    s.newDest j = (s.updJob j fun x => { x with tail := some { t with fill := t.fill + 1 } }, some (t.extent, t.fill)) := by
  have kept : s.dropFullTail j = s := by
    rw [dropFullTail, tail]
    exact if_neg (Nat.not_le.2 room)
  rw [newDest, kept, reserveFill, tail]

theorem dropFullTail_of_none {s : State} {j : Nat} (tail : (s.job j).tail = none) : s.dropFullTail j = s := by
  rw [dropFullTail, tail]

/-- The state in which the head of the free list is given out (R100). -/
def extAllocated (s : State) (e : Nat) (rest : List Nat) : State :=
  ({ s.setExt e { s.ext e with state := .inUse, refs := 1 } with freeList := rest } : State).testLow

theorem newDest_of_free {s : State} {j e : Nat} {rest : List Nat} (tail : (s.job j).tail = none)
    (free : s.freeList = e :: rest) : s.newDest j =
      ((extAllocated s e rest).updJob j fun x => { x with tail := some { extent := e, fill := 1 } }, some (e, 0)) := by
  rw [newDest, dropFullTail_of_none tail, reserveFill, tail, allocate, free]
  rfl

theorem newDest_of_full {s : State} {j : Nat} (tail : (s.job j).tail = none) (full : s.freeList = []) :
    s.newDest j = (s, none) := by
  rw [newDest, dropFullTail_of_none tail, reserveFill, tail, allocate, full]

theorem ext_extAllocated (s : State) (e : Nat) (rest : List Nat) :
    (extAllocated s e rest).ext e = { s.ext e with state := .inUse, refs := 1 } := by
  rw [extAllocated, testLow_ext]
  exact (ext_setExt s e { s.ext e with state := .inUse, refs := 1 } :)

theorem ext_extAllocated_ne (s : State) {e x : Nat} (rest : List Nat) (other : x ≠ e) :
    (extAllocated s e rest).ext x = s.ext x := by
  rw [extAllocated, testLow_ext]
  exact (ext_setExt_ne s e { s.ext e with state := .inUse, refs := 1 } x other :)

/-! ### A frame presented (R34) -/

/-- The state in which a frame has its entry and its write is claimed. -/
def frameClaimed (s : State) (ch : Nat) (c : Capture) (data : Frame) (e f : Nat) : State :=
  (s.updPlacement ch fun p =>
    { p with inflight := p.inflight ++ [{ extent := e, frame := f, mode := arrivalMode c.ctx, data := data }] }).makeClaim
    { extent := e, frame := f, use := .capture ch c.job data }

section Present

variable {s : State} {ch : Nat} {c : Capture} (data : Frame)

theorem presentFrame_of_many (many : 4 ≤ (s.placement ch).inflight.length) : s.presentFrame ch c data = s := by
  unfold presentFrame
  exact if_pos many

variable (few : (s.placement ch).inflight.length < 4)
  (below : arrivalMode c.ctx = .overwrite ∨ (s.job c.job.idx).length + raising (s.placement ch).inflight < 16777215)

include few below

theorem presentFrame_of_dest {s1 : State} {e f : Nat} (dest : s.newDest c.job.idx = (s1, some (e, f))) :
    s.presentFrame ch c data = frameClaimed s1 ch c data e f := by
  unfold presentFrame
  dsimp only
  rw [if_neg (Nat.not_le.2 few), if_neg, dest]
  · rfl
  · rintro ⟨mode, reached⟩
    rcases below with overwrite | less
    · exact mode overwrite
    · exact Nat.not_le.2 less reached

theorem presentFrame_of_none {s1 : State} (dest : s.newDest c.job.idx = (s1, none)) :
    s.presentFrame ch c data = s1.abnormalEnd ch .storeFull := by
  unfold presentFrame
  dsimp only
  rw [if_neg (Nat.not_le.2 few), if_neg, dest]
  rintro ⟨mode, reached⟩
  rcases below with overwrite | less
  · exact mode overwrite
  · exact Nat.not_le.2 less reached

end Present

/-- What a frame given a destination leaves. -/
structure FrameTaken (s u : State) (ch : Nat) (entry : Entry) (claim : Claim) : Prop where
  placement : u.placement ch = { s.placement ch with inflight := (s.placement ch).inflight ++ [entry] }
  placements : ∀ k, k ≠ ch → u.placement k = s.placement k
  busy : s.port ≠ none → u.port = s.port ∧ u.waiting = s.waiting ++ [claim]
  free : s.port = none → s.waiting = [] → u.waiting = [] ∧ u.port = some { claim := claim }
  frame : u = { s with places := u.places, waiting := u.waiting, port := u.port, served := u.served }

theorem frameTaken_frameClaimed (s : State) {ch : Nat} (c : Capture) (data : Frame) (e f : Nat) (low : ch < 16) :
    FrameTaken s (frameClaimed s ch c data e f) ch
      { extent := e, frame := f, mode := arrivalMode c.ctx, data := data } ⟨e, f, .capture ch c.job data⟩ := by
  have placed : (s.updPlacement ch fun p => { p with
      inflight := p.inflight ++ [{ extent := e, frame := f, mode := arrivalMode c.ctx, data := data }] }).placement ch = _ :=
    placement_setPlacement _ _ _
  have others (k : Nat) (ne : k ≠ ch) : (s.updPlacement ch fun p => { p with
      inflight := p.inflight ++ [{ extent := e, frame := f, mode := arrivalMode c.ctx, data := data }] }).placement k =
      s.placement k := placement_setPlacement_ne _ _ _ _ ne
  have frame : (s.updPlacement ch fun p => { p with
      inflight := p.inflight ++ [{ extent := e, frame := f, mode := arrivalMode c.ctx, data := data }] }) = { s with
        places := (s.updPlacement ch fun p => { p with
          inflight := p.inflight ++ [{ extent := e, frame := f, mode := arrivalMode c.ctx, data := data }] }).places } := rfl
  unfold frameClaimed
  generalize (s.updPlacement ch fun p => { p with
      inflight := p.inflight ++ [{ extent := e, frame := f, mode := arrivalMode c.ctx, data := data }] }) = v
    at placed others frame
  have port : v.port = s.port := (congrArg State.port frame :)
  have waiting : v.waiting = s.waiting := (congrArg State.waiting frame :)
  refine ⟨?_, fun k ne => ?_, fun busy => ?_, fun free empty => ?_, ?_⟩
  · rw [makeClaim_placement, placed]
  · rw [makeClaim_placement, others k ne]
  · rw [makeClaim_of_busy (by rw [port]; exact busy)]
    exact ⟨port, by rw [waiting]⟩
  · rw [makeClaim_of_free (by rw [port]; exact free)]
    refine grantNext_of_single ?_ rfl low
    change v.waiting ++ [_] = [_]
    rw [waiting, empty]
    rfl
  · rw [makeClaim_frame]
    rw [frame]

/-! ### A capture that finds no destination (R128) -/

theorem binding_withdraw (s : State) (ch k : Nat) : ((s.withdraw ch).chan k).binding = (s.chan k).binding := rfl

/-- On a channel bound to its link a notice is no console notice. -/
theorem notices_placeNotice {s : State} {n : Notice} (bound : (s.chan n.chan).binding = .link) (b : Bool) :
    (s.placeNotice n b).notices = s.notices := by
  unfold placeNotice
  dsimp only
  split
  · rw [sendNotice_of_link (by rw [chan_setChan]; exact bound)]
    obtain ⟨chans, links, handed⟩ := handOver_setChan_frame s n.chan n.chan { s.chan n.chan with slot := some n } (.notice n)
    rw [handed]
  · split
    · rfl
    · rfl
  · rfl

/-- What the abnormal end of a capture leaves. -/
structure CaptureEnded (s u : State) (ch : Nat) (r : Ref) (cause : Cause) : Prop where
  idle : (u.chan ch).stream = .idle
  placement : u.placement ch = {}
  job : u.job r.idx = captureLeft (s.job r.idx)
  notices : u.notices = s.notices ++ [.captureEnded r cause]
  segs : u.segs = s.segs
  takes : u.takes = s.takes

theorem captureEnded_abnormalEnd {s : State} {ch : Nat} {job : Ref} {ctx : CapCtx} (cause : Cause)
    (fields : s.captureFields ch = some (job, ctx)) (bound : (s.chan ch).binding = .link)
    (room : s.notices.length < 32) : CaptureEnded s (s.abnormalEnd ch cause) ch job cause := by
  have ended := endCapture_eq fields
  have chan : (s.endCapture ch).chan ch = (s.chan ch).idled := by
    rw [ended]
    exact chan_updChan ((s.withdraw ch).setPlacement ch {}) ch Channel.idled
  have place : (s.endCapture ch).placement ch = {} := by
    rw [ended]
    exact (placement_setPlacement (s.withdraw ch) ch {} :)
  have left : (s.endCapture ch).job job.idx = captureLeft (s.job job.idx) := by
    rw [ended]
    exact job_setJob _ _ _
  have kept : (s.endCapture ch).notices = s.notices ∧ (s.endCapture ch).segs = s.segs ∧
      (s.endCapture ch).takes = s.takes := by
    rw [ended]
    exact ⟨rfl, rfl, rfl⟩
  obtain ⟨noticesKept, segs, takes⟩ := kept
  rw [abnormalEnd, fields]
  dsimp only
  generalize s.endCapture ch = v at chan place left noticesKept segs takes
  have at_ : (s.captureNotice ch job ctx.point cause .stopped).chan = ch := rfl
  generalize s.captureNotice ch job ctx.point cause .stopped = n at at_
  subst at_
  have notices := (notices_placeNotice (n := n) (by rw [chan]; exact bound) false).trans noticesKept
  refine ⟨?_, ?_, ?_, ?_, ?_, ?_⟩
  · rw [raise_chan]
    exact idle_placeNotice (by rw [chan]; rfl) false
  · rw [raise_placement, placeNotice_placement, place]
  · rw [raise_job, placeNotice_job, left]
  · rw [raise_of_room (by rw [notices]; exact room), notices]
  · rw [raise_segs, placeNotice_segs, segs]
  · rw [raise_takes, placeNotice_takes, takes]

/-! ### FRAME_ARRIVAL (R123) -/

/-- A capture with its frame timeout counter at 0. -/
def counterCleared (s : State) (ch : Nat) (c : Capture) : State :=
  s.setChan ch { s.chan ch with stream := .capture { c with counter := 0 } }

theorem exec_frameArrival {l : Fin 16} {data : Frame} {s : State} {c : Capture} (up : (s.link l).up = true)
    (bound : (s.chan l).binding = .link) (role : (s.link l).role = .reporter) (stream : (s.chan l).stream = .capture c)
    (running : c.running = true) :
    exec (.frameArrival l data) s = .next ((counterCleared s l c).presentFrame l c data) := by
  have reaches : ((s.link l).up && decide ((s.chan l).binding = .link) && decide ((s.link l).role = .reporter)) = true := by
    rw [up, bound, role]
    rfl
  refine congrArg Host.Outcome.next ((if_pos reaches).trans ?_)
  rw [frameArrived, captureOf_eq stream]
  dsimp only
  rw [if_pos running, updCapture_eq stream]
  rfl

/-- Settles O40. -/
theorem frameArrivalClaimsAWrite : Obligations.FrameArrivalClaimsAWrite := by
  unfold Obligations.FrameArrivalClaimsAWrite
  intro l data s c up bound role stream running
  have ran := exec_frameArrival (data := data) up bound role stream running
  have set : ChannelSetTo s (counterCleared s l c) l { s.chan l with stream := .capture { c with counter := 0 } } :=
    channelSetTo_setChan s l _
  have frame : counterCleared s l c = { s with chans := (counterCleared s l c).chans } := rfl
  generalize counterCleared s l c = v at ran set frame
  have placement (k : Nat) : v.placement k = s.placement k := (congrArg (fun u : State => u.placement k) frame :)
  have job (k : Nat) : v.job k = s.job k := (congrArg (fun u : State => u.job k) frame :)
  have ext (k : Nat) : v.ext k = s.ext k := (congrArg (fun u : State => u.ext k) frame :)
  have port : v.port = s.port := (congrArg State.port frame :)
  have waiting : v.waiting = s.waiting := (congrArg State.waiting frame :)
  have freeList : v.freeList = s.freeList := (congrArg State.freeList frame :)
  have notices : v.notices = s.notices := (congrArg State.notices frame :)
  obtain ⟨chan, chans, _⟩ := set
  refine ⟨fun many => ?_, fun few below => ?_⟩
  · rw [presentFrame_of_many data (by rw [placement]; exact many)] at ran
    exact ⟨v, ran, chan, chans, frame⟩
  rw [← placement] at few below
  rw [← job] at below
  refine ⟨fun t tail room => ?_, fun e rest tail free => ?_, fun tail full notRoom => ?_⟩
  · rw [presentFrame_of_dest data few below (newDest_of_room (by rw [job]; exact tail) room)] at ran
    have given : (v.updJob c.job.idx fun x => { x with tail := some { t with fill := t.fill + 1 } }) = { s with
        jobs := (v.updJob c.job.idx fun x => { x with tail := some { t with fill := t.fill + 1 } }).jobs
        chans := v.chans } := by
      rw [frame]
      rfl
    have tailed : (v.updJob c.job.idx fun x => { x with tail := some { t with fill := t.fill + 1 } }).job c.job.idx =
        { v.job c.job.idx with tail := some { t with fill := t.fill + 1 } } := job_setJob _ _ _
    have others (k : Nat) (ne : k ≠ c.job.idx) : (v.updJob c.job.idx fun x =>
        { x with tail := some { t with fill := t.fill + 1 } }).job k = v.job k := job_setJob_ne _ _ _ _ ne
    generalize (v.updJob c.job.idx fun x => { x with tail := some { t with fill := t.fill + 1 } }) = w
      at ran given tailed others
    have taken := frameTaken_frameClaimed w c data t.extent t.fill l.isLt
    generalize frameClaimed w l c data t.extent t.fill = u at ran taken
    have placed (k : Nat) : w.placement k = s.placement k := (congrArg (fun u : State => u.placement k) given :)
    have chanW (k : Nat) : w.chan k = v.chan k := (congrArg (fun u : State => u.chan k) given :)
    have chanU (k : Nat) : u.chan k = w.chan k := (congrArg (fun u : State => u.chan k) taken.frame :)
    have jobU (k : Nat) : u.job k = w.job k := (congrArg (fun u : State => u.job k) taken.frame :)
    have portW : w.port = s.port := (congrArg State.port given :)
    have waitingW : w.waiting = s.waiting := (congrArg State.waiting given :)
    refine ⟨u, ran, by rw [chanU, chanW, chan], by rw [taken.placement, placed], by rw [jobU, tailed, job],
      fun busy => ?_, fun free empty => taken.free (by rw [portW]; exact free) (by rw [waitingW]; exact empty),
      fun k ne => ⟨by rw [chanU, chanW, chans k ne], by rw [taken.placements k ne, placed]⟩,
      fun k ne => by rw [jobU, others k ne, job], ?_⟩
    · rw [← portW, ← waitingW]
      exact taken.busy (by rw [portW]; exact busy)
    · rw [taken.frame, given]
  · rw [presentFrame_of_dest data few below (newDest_of_free (by rw [job]; exact tail) (by rw [freeList]; exact free))] at ran
    have allocated : extAllocated v e rest = { v with
        exts := (extAllocated v e rest).exts, freeList := rest, lowArmed := (extAllocated v e rest).lowArmed
        notices := (extAllocated v e rest).notices, overflowed := (extAllocated v e rest).overflowed } := by
      unfold extAllocated
      rw [testLow_frame]
      rfl
    have extE := ext_extAllocated v e rest
    have extNe (x : Nat) (ne : x ≠ e) := ext_extAllocated_ne v rest ne
    generalize extAllocated v e rest = x at ran allocated extE extNe
    have tailed : (x.updJob c.job.idx fun y => { y with tail := some { extent := e, fill := 1 } }).job c.job.idx =
        { x.job c.job.idx with tail := some { extent := e, fill := 1 } } := job_setJob _ _ _
    have given : (x.updJob c.job.idx fun y => { y with tail := some { extent := e, fill := 1 } }) = { x with
        jobs := (x.updJob c.job.idx fun y => { y with tail := some { extent := e, fill := 1 } }).jobs } := rfl
    generalize (x.updJob c.job.idx fun y => { y with tail := some { extent := e, fill := 1 } }) = w
      at ran given tailed
    have taken := frameTaken_frameClaimed w c data e 0 l.isLt
    generalize frameClaimed w l c data e 0 = u at ran taken
    rw [allocated] at given
    have placed : w.placement l = v.placement l := (congrArg (fun u : State => u.placement l) given :)
    have extU (k : Nat) : u.ext k = x.ext k := (congrArg (fun u : State => u.ext k) taken.frame :).trans
      (congrArg (fun u : State => u.ext k) given :)
    have jobX : x.job c.job.idx = v.job c.job.idx := (congrArg (fun u : State => u.job c.job.idx) allocated :)
    have portW : w.port = v.port := (congrArg State.port given :)
    have waitingW : w.waiting = v.waiting := (congrArg State.waiting given :)
    refine ⟨u, ran, by rw [taken.placement, placed, placement], ?_, ?_, by rw [extU, extE, ext],
      fun k ne => by rw [extU, extNe k ne, ext], fun busy => ?_, ?_, ?_, ?_, ?_, ?_⟩
    · rw [show u.job c.job.idx = w.job c.job.idx from (congrArg (fun u : State => u.job c.job.idx) taken.frame :),
        tailed, jobX, job]
    · exact (congrArg State.freeList taken.frame :).trans (congrArg State.freeList given :)
    · rw [← port, ← waiting, ← portW, ← waitingW]
      exact taken.busy (by rw [portW, port]; exact busy)
    · exact ((congrArg State.mem taken.frame :).trans (congrArg State.mem given :)).trans (congrArg State.mem frame :)
    · exact ((congrArg State.segs taken.frame :).trans (congrArg State.segs given :)).trans (congrArg State.segs frame :)
    · exact ((congrArg State.cues taken.frame :).trans (congrArg State.cues given :)).trans (congrArg State.cues frame :)
    · exact ((congrArg State.takes taken.frame :).trans (congrArg State.takes given :)).trans (congrArg State.takes frame :)
    · exact ((congrArg State.links taken.frame :).trans (congrArg State.links given :)).trans (congrArg State.links frame :)
  · rw [presentFrame_of_none data few below (newDest_of_full (by rw [job]; exact tail) (by rw [freeList]; exact full))] at ran
    have fields : v.captureFields l = some (c.job, c.ctx) :=
      captureFields_capture (c := { c with counter := 0 }) (congrArg Channel.stream chan)
    have ended := captureEnded_abnormalEnd .storeFull fields (by rw [chan]; exact bound) (by rw [notices]; exact notRoom)
    exact ⟨_, ran, ended.idle, ended.placement, by rw [ended.job, job]; rfl, by rw [ended.notices, notices],
      ended.segs.trans (congrArg State.segs frame :), ended.takes.trans (congrArg State.takes frame :)⟩

end Sys2Proof.Machine
end

section
/-! ## Closing dictation

The four steps of CLOSE DICTATION: the release of the capture channel, the close or the deletion of the last take, the drop
of the tail extent, and the new state (R12, R13, R79). -/

set_option Elab.async false

namespace Sys2Proof.Machine
open State

/-! ### Changes of the channels only -/

/-- A change that touches nothing but the channels, their claims and their messages. -/
def ChannelsMoved (s u : State) : Prop :=
  u = { s with
    chans := u.chans, waiting := u.waiting, reserved := u.reserved, port := u.port, links := u.links
    notices := u.notices, overflowed := u.overflowed }

theorem ChannelsMoved.trans {s u v : State} (first : ChannelsMoved s u) (second : ChannelsMoved u v) :
    ChannelsMoved s v := by
  unfold ChannelsMoved at *
  rw [second, first]

theorem channelsMoved_refl (s : State) : ChannelsMoved s s := rfl

theorem channelsMoved_placeNotice (s : State) (n : Notice) (b : Bool) : ChannelsMoved s (s.placeNotice n b) := by
  unfold ChannelsMoved
  rw [placeNotice_frame]

theorem channelsMoved_stopStream (s : State) (ch : Nat) : ChannelsMoved s (s.stopStream ch) := rfl

/-- A channel stopped for a deleted take keeps every take. -/
theorem channelsMoved_revokeOn (t : Ref) (s : State) (ch : Nat) : ChannelsMoved s (revokeOn t false s ch) := by
  by_cases loads : (s.chan ch).loaded = some t
  · obtain ⟨p, play, take⟩ := (loaded_eq_some_iff _ _).1 loads
    rw [revokeOn_of_loaded play take]
    exact (channelsMoved_stopStream s ch).trans (channelsMoved_placeNotice _ _ _)
  · rw [revokeOn_of_not_loaded loads]
    exact channelsMoved_refl s

theorem channelsMoved_revokeLoaded (s : State) (t : Ref) : ChannelsMoved s (s.revokeLoaded t false) := by
  unfold revokeLoaded
  generalize List.range 16 = l
  induction l generalizing s with
  | nil => exact channelsMoved_refl s
  | cons c rest ih => exact (channelsMoved_revokeOn t s c).trans (ih _)

theorem idle_revokeLoaded {s : State} {t : Ref} {k : Nat} (low : k < 16) (loads : (s.chan k).loaded = some t) (b : Bool) :
    ((s.revokeLoaded t b).chan k).stream = .idle := by
  have mem : k ∈ List.range 16 := List.mem_range.2 low
  unfold revokeLoaded
  generalize List.range 16 = l at mem
  exact idle_foldl_revokeOn b mem loads

theorem chan_revokeLoaded_of_not_loaded {s : State} {t : Ref} {k : Nat} (other : (s.chan k).loaded ≠ some t) (b : Bool) :
    (s.revokeLoaded t b).chan k = s.chan k := by
  unfold revokeLoaded
  generalize List.range 16 = l
  exact chan_foldl_revokeOn_of_not_loaded b l other

/-! ### The capture channel released (R12) -/

/-- What the release of a job's capture channel leaves. -/
structure ChannelReleased (s u : State) (p : Party) (r : Ref) : Prop where
  frame : u = { s with
    jobs := u.jobs, chans := u.chans, places := u.places, waiting := u.waiting, reserved := u.reserved, port := u.port
    links := u.links, notices := u.notices, overflowed := u.overflowed }
  job : ∀ k, ∃ ch state, u.job k = { s.job k with chan := ch, state := state }
  jobs : (∀ ch x, (s.job r.idx).chan = some ch → s.captureFields ch = some x → x.1.idx = r.idx) →
    ∀ k, k ≠ r.idx → u.job k = s.job k
  idle : ∀ ch x, (s.job r.idx).state = .live → (s.job r.idx).chan = some ch → s.captureFields ch = some x →
    (u.chan ch).stream = .idle ∧ (u.chan ch).suspended = false ∧ u.placement ch = {} ∧
    (p = .console → (s.chan ch).slot = none → (u.chan ch).slot = some
      { chan := ch, cause := .halt, action := .stopped, job := x.1, pos := s.anchorPos x.1.idx x.2.point * 64 }) ∧
    (p ≠ .console → (u.chan ch).slot = (s.chan ch).slot)
  plays : ∀ ch q, (s.chan ch).stream = .play q → (u.chan ch).stream = .play q

theorem channelReleased_refl {s : State} {p : Party} {r : Ref}
    (nothing : ∀ ch x, (s.job r.idx).state = .live → (s.job r.idx).chan = some ch → s.captureFields ch ≠ some x) :
    ChannelReleased s s p r where
  frame := rfl
  job := fun k => ⟨(s.job k).chan, (s.job k).state, rfl⟩
  jobs := fun _ _ _ => rfl
  idle := fun ch x live attached fields => absurd fields (nothing ch x live attached)
  plays := fun _ _ stream => stream

section Ended

variable {s : State} {ch : Nat} {job : Ref} {ctx : CapCtx} (fields : s.captureFields ch = some (job, ctx))

include fields

theorem chan_endCapture : (s.endCapture ch).chan ch = (s.chan ch).idled := by
  rw [endCapture_eq fields]
  exact chan_updChan ((s.withdraw ch).setPlacement ch {}) ch Channel.idled

theorem chan_endCapture_ne {k : Nat} (other : k ≠ ch) : (s.endCapture ch).chan k = s.chan k := by
  rw [endCapture_eq fields]
  exact chan_updChan_ne ((s.withdraw ch).setPlacement ch {}) other Channel.idled

theorem placement_endCapture : (s.endCapture ch).placement ch = {} := by
  rw [endCapture_eq fields]
  exact (placement_setPlacement (s.withdraw ch) ch {} :)

theorem job_endCapture : (s.endCapture ch).job job.idx = captureLeft (s.job job.idx) := by
  rw [endCapture_eq fields]
  exact job_setJob _ _ _

theorem job_endCapture_ne {k : Nat} (other : k ≠ job.idx) : (s.endCapture ch).job k = s.job k := by
  rw [endCapture_eq fields]
  exact job_setJob_ne _ _ _ _ other

theorem endCapture_frame : s.endCapture ch = { s with
    jobs := (s.endCapture ch).jobs, chans := (s.endCapture ch).chans, places := (s.endCapture ch).places
    waiting := (s.endCapture ch).waiting, reserved := (s.endCapture ch).reserved, port := (s.endCapture ch).port } := by
  rw [endCapture_eq fields]
  rfl

theorem not_play_of_captureFields (q : Play) : (s.chan ch).stream ≠ .play q := by
  intro play
  rw [captureFields, play] at fields
  cases fields

end Ended

/-- The channel of a capture that has ended, with or without its notice. -/
theorem channelReleased_of_fields {s u : State} {p : Party} {r job : Ref} {ctx : CapCtx} {ch : Nat}
    (attached : (s.job r.idx).chan = some ch) (fields : s.captureFields ch = some (job, ctx))
    (moved : ChannelsMoved (s.endCapture ch) u)
    (idle : (u.chan ch).stream = .idle ∧ (u.chan ch).suspended = false)
    (others : ∀ k, k ≠ ch → u.chan k = (s.endCapture ch).chan k)
    (noticed : p = .console → (s.chan ch).slot = none → (u.chan ch).slot = some
      { chan := ch, cause := .halt, action := .stopped, job := job, pos := s.anchorPos job.idx ctx.point * 64 })
    (silent : p ≠ .console → (u.chan ch).slot = (s.chan ch).slot) : ChannelReleased s u p r := by
  have jobU (k : Nat) : u.job k = (s.endCapture ch).job k := (congrArg (fun v : State => v.job k) moved :)
  refine ⟨?_, fun k => ?_, fun own k ne => ?_, fun c x live attached' fields' => ?_, fun c q play => ?_⟩
  · rw [moved, endCapture_frame fields]
  · rw [jobU]
    by_cases same : k = job.idx
    · rw [same, job_endCapture fields]
      exact ⟨_, _, rfl⟩
    · rw [job_endCapture_ne fields same]
      exact ⟨(s.job k).chan, (s.job k).state, rfl⟩
  · rw [jobU]
    have here : job.idx = r.idx := own ch (job, ctx) attached fields
    exact job_endCapture_ne fields (by rw [here]; exact ne)
  · obtain rfl : ch = c := Option.some.inj (attached.symm.trans attached')
    obtain rfl : (job, ctx) = x := Option.some.inj (fields.symm.trans fields')
    refine ⟨idle.1, idle.2, ?_, noticed, silent⟩
    exact (congrArg (fun v : State => v.placement ch) moved :).trans (placement_endCapture fields)
  · have other : c ≠ ch := fun same => not_play_of_captureFields fields q (same ▸ play)
    rw [others c other, chan_endCapture_ne fields other]
    exact play

/-- A notice that suspends nothing changes only the slots of its channel. -/
theorem chan_placeNotice_false (s : State) (n : Notice) :
    ∃ slot second, (s.placeNotice n false).chan n.chan = { s.chan n.chan with slot := slot, second := second } := by
  unfold placeNotice
  dsimp only
  split
  · rw [sendNotice_chan, chan_setChan]
    exact ⟨_, _, rfl⟩
  · exact ⟨_, _, chan_setChan s n.chan _⟩
  · exact ⟨_, _, chan_setChan s n.chan _⟩

theorem endCapture_of_none {s : State} {ch : Nat} (fields : s.captureFields ch = none) : s.endCapture ch = s := by
  rw [endCapture, fields]

/-- A release without a notice (R12). -/
theorem channelReleased_endCapture {s : State} {p : Party} {r : Ref} {ch : Nat} (attached : (s.job r.idx).chan = some ch)
    (quiet : ∀ x, s.captureFields ch = some x → p ≠ .console) : ChannelReleased s (s.endCapture ch) p r := by
  cases fields : s.captureFields ch with
  | none =>
    rw [endCapture_of_none fields]
    refine channelReleased_refl fun c x _ attached' => ?_
    obtain rfl : ch = c := Option.some.inj (attached.symm.trans attached')
    rw [fields]
    exact Option.some_ne_none x |>.symm
  | some x =>
    have chan := chan_endCapture fields
    exact channelReleased_of_fields attached fields (channelsMoved_refl _) (by rw [chan]; exact ⟨rfl, rfl⟩)
      (fun _ _ => rfl) (fun console => absurd console (quiet x fields)) fun _ => by rw [chan]; rfl

/-- A release with the notice HALT (R12). -/
theorem channelReleased_noticed {s : State} {r job : Ref} {ctx : CapCtx} {ch : Nat}
    (attached : (s.job r.idx).chan = some ch) (fields : s.captureFields ch = some (job, ctx)) :
    ChannelReleased s ((s.endCapture ch).placeNotice (s.captureNotice ch job ctx.point .halt .stopped) false) .console r := by
  have chan := chan_endCapture fields
  obtain ⟨slot, second, noticed⟩ := chan_placeNotice_false (s.endCapture ch) (s.captureNotice ch job ctx.point .halt .stopped)
  have at_ : (s.captureNotice ch job ctx.point .halt .stopped).chan = ch := rfl
  rw [at_, chan] at noticed
  refine channelReleased_of_fields attached fields (channelsMoved_placeNotice _ _ _)
    (by rw [noticed]; exact ⟨rfl, rfl⟩) (fun k ne => chan_placeNotice_ne _ _ _ ne) (fun _ empty => ?_)
    fun other => absurd rfl other
  exact slot_placeNotice (n := s.captureNotice ch job ctx.point .halt .stopped) (by rw [at_, chan]; exact empty) false

theorem channelReleased_releaseForClose (s : State) (p : Party) (r : Ref) :
    ChannelReleased s (s.releaseForClose p r) p r := by
  unfold releaseForClose
  split
  · next ch live attached =>
    split
    · next job ctx fields => exact channelReleased_noticed attached fields
    · next noticed =>
      exact channelReleased_endCapture attached fun x fields console => noticed x.1 x.2 fields console
  · next unattached =>
    exact channelReleased_refl fun ch x live attached => absurd attached (unattached ch live)

/-! ### Positions and takes in a state that keeps them -/

/-- Two states with the same cues, segments and takes, and jobs that agree in their lists and lengths. -/
structure TakesAgree (s u : State) (j : Nat) : Prop where
  cues : u.cues = s.cues
  segs : u.segs = s.segs
  takes : u.takes = s.takes
  head : (u.job j).takeHead = (s.job j).takeHead
  segHead : ∀ k, (u.job k).segHead = (s.job k).segHead
  length : ∀ k, (u.job k).length = (s.job k).length

namespace TakesAgree

variable {s u : State} {j : Nat}

theorem take (agree : TakesAgree s u j) (k : Nat) : u.take k = s.take k := by
  rw [State.take, State.take, agree.takes]

theorem lastTake (agree : TakesAgree s u j) : u.lastTake j = s.lastTake j := by
  rw [State.lastTake, State.lastTake, jobTakes_congr agree.take agree.head]

theorem cuePos (agree : TakesAgree s u j) (i : Nat) : u.cuePos i = s.cuePos i :=
  cuePos_congr (by rw [State.cue, State.cue, agree.cues]) agree.segs agree.segHead agree.length

theorem takeEnd (agree : TakesAgree s u j) (b : TakeBody) : u.takeEnd b = s.takeEnd b := by
  unfold State.takeEnd
  cases b.next with
  | none => exact agree.length _
  | some n =>
    dsimp only
    rw [agree.take]
    cases (s.take n.idx).body with
    | none => exact agree.length _
    | some c => exact takeStart_congr agree.cuePos c

theorem takeFrames (agree : TakesAgree s u j) (b : TakeBody) : u.takeFrames b = s.takeFrames b := by
  rw [State.takeFrames, State.takeFrames, agree.takeEnd, takeStart_congr agree.cuePos]

end TakesAgree

theorem ChannelReleased.agree {s u : State} {p : Party} {r : Ref} (released : ChannelReleased s u p r) (j : Nat) :
    TakesAgree s u j := by
  have job (k : Nat) : (u.job k).takeHead = (s.job k).takeHead ∧ (u.job k).segHead = (s.job k).segHead ∧
      (u.job k).length = (s.job k).length := by
    obtain ⟨ch, state, same⟩ := released.job k
    rw [same]
    exact ⟨rfl, rfl, rfl⟩
  exact ⟨(congrArg State.cues released.frame :), (congrArg State.segs released.frame :),
    (congrArg State.takes released.frame :), (job j).1, fun k => (job k).2.1, fun k => (job k).2.2⟩

/-! ### The tail extent dropped, and the new state (R13) -/

theorem job_dropTail (s : State) (j : Nat) : (s.dropTail j).job j = { s.job j with tail := none } := by
  unfold dropTail
  split
  · next tail => rw [← tail]
  · rw [refDown_job]
    exact job_setJob _ _ _

theorem job_dropTail_ne (s : State) {j k : Nat} (other : k ≠ j) : (s.dropTail j).job k = s.job k := by
  unfold dropTail
  split
  · rfl
  · rw [refDown_job]
    exact job_setJob_ne _ _ _ _ other

theorem dropTail_frame (s : State) (j : Nat) : s.dropTail j = { s with
    jobs := (s.dropTail j).jobs, exts := (s.dropTail j).exts, freeList := (s.dropTail j).freeList
    scrubList := (s.dropTail j).scrubList, served := (s.dropTail j).served, waiting := (s.dropTail j).waiting
    port := (s.dropTail j).port, lowArmed := (s.dropTail j).lowArmed, notices := (s.dropTail j).notices
    overflowed := (s.dropTail j).overflowed } := by
  unfold dropTail
  split
  · rfl
  · rw [refDown_frame]
    rfl

/-- What the last two steps of CLOSE DICTATION leave. -/
structure JobClosed (s u : State) (r : Ref) : Prop where
  frame : u = { s with
    jobs := u.jobs, exts := u.exts, freeList := u.freeList, scrubList := u.scrubList, served := u.served
    waiting := u.waiting, port := u.port, lowArmed := u.lowArmed, notices := u.notices, overflowed := u.overflowed }
  job : u.job r.idx = { s.job r.idx with
    tail := none, chan := none, state := if u.allReturned r.idx then .complete else .closed }
  jobs : ∀ k, k ≠ r.idx → u.job k = s.job k
  raised : u.allReturned r.idx = true → ∃ v : State, u = v.raise (.jobComplete r)

theorem jobClosed_dropTail_closeState (s : State) (r : Ref) : JobClosed s ((s.dropTail r.idx).closeState r) r := by
  have job := job_dropTail s r.idx
  have jobs (k : Nat) (ne : k ≠ r.idx) := job_dropTail_ne s (j := r.idx) ne
  have frame := dropTail_frame s r.idx
  generalize s.dropTail r.idx = v at job jobs frame
  have take (u : State) (same : u.takes = v.takes) (k : Nat) : u.take k = v.take k := by
    rw [State.take, State.take, same]
  unfold closeState
  by_cases returned : v.allReturned r.idx = true
  · rw [if_pos returned]
    have set : (v.updJob r.idx fun j => { j with state := .complete, chan := none }).job r.idx =
        { v.job r.idx with state := .complete, chan := none } := job_setJob _ _ _
    have kept (k : Nat) (ne : k ≠ r.idx) : (v.updJob r.idx fun j => { j with state := .complete, chan := none }).job k =
        v.job k := job_setJob_ne _ _ _ _ ne
    have given : (v.updJob r.idx fun j => { j with state := .complete, chan := none }) = { v with
      jobs := (v.updJob r.idx fun j => { j with state := .complete, chan := none }).jobs } := rfl
    generalize (v.updJob r.idx fun j => { j with state := .complete, chan := none }) = w at set kept given
    have same : (w.raise (.jobComplete r)).allReturned r.idx = true := by
      rw [allReturned_congr (s := v) (take _ ((raise_takes w _).trans (congrArg State.takes given :)))]
      · exact returned
      · rw [raise_job, set]
    refine ⟨?_, ?_, fun k ne => ?_, fun _ => ⟨w, rfl⟩⟩
    · rw [raise_frame, given, frame]
    · rw [same, raise_job, set, job]
      rfl
    · rw [raise_job, kept k ne, jobs k ne]
  · rw [if_neg returned]
    have set : (v.updJob r.idx fun j => { j with state := .closed, chan := none }).job r.idx =
        { v.job r.idx with state := .closed, chan := none } := job_setJob _ _ _
    have kept (k : Nat) (ne : k ≠ r.idx) : (v.updJob r.idx fun j => { j with state := .closed, chan := none }).job k =
        v.job k := job_setJob_ne _ _ _ _ ne
    have given : (v.updJob r.idx fun j => { j with state := .closed, chan := none }) = { v with
      jobs := (v.updJob r.idx fun j => { j with state := .closed, chan := none }).jobs } := rfl
    generalize (v.updJob r.idx fun j => { j with state := .closed, chan := none }) = w at set kept given
    have same : w.allReturned r.idx = v.allReturned r.idx :=
      allReturned_congr (s := v) (take _ (congrArg State.takes given :)) (by rw [set])
    refine ⟨?_, ?_, fun k ne => ?_, fun all => absurd (same ▸ all) returned⟩
    · rw [given, frame]
    · rw [set, job, same, if_neg returned]
    · rw [kept k ne, jobs k ne]

/-! ### The last take closed (R79) -/

theorem queueKey_eq_of {s u : State} {k : Nat} (take : u.take k = s.take k)
    (job : ∀ j, (u.job j).cls = (s.job j).cls ∧ (u.job j).due = (s.job j).due) : u.queueKey k = s.queueKey k := by
  unfold queueKey
  rw [take]
  cases (s.take k).body with
  | none => rfl
  | some b =>
    dsimp only
    rw [(job b.job.idx).1, (job b.job.idx).2]

/-- A queue in order. -/
def Ordered (s : State) : Prop := s.ready.Pairwise fun x y => keyBefore (s.queueKey x) (s.queueKey y) = true

theorem ordered_congr {s u : State} (ready : u.ready = s.ready) (key : ∀ k, u.queueKey k = s.queueKey k)
    (ordered : Ordered s) : Ordered u := by
  unfold Ordered at *
  rw [ready]
  exact ordered.imp fun {x y} before => by rw [key, key]; exact before

/-- What the close of an OPEN last take leaves of the queue and of the take. -/
structure TakeReadied (s u : State) (i : Nat) (b : TakeBody) : Prop where
  queued : i ∈ u.ready
  others : u.ready.filter (fun k => decide (k ≠ i)) = s.ready.filter fun k => decide (k ≠ i)
  ordered : Ordered s → Ordered u
  body : (u.take i).body = some
    { b with state := .ready, seq := if i ∈ s.ready ∨ b.seq ≠ none then b.seq else some s.readiness }

theorem queueKey_updTakeBody_state {s : State} {i : Nat} {b : TakeBody} (body : (s.take i).body = some b) (x : TakeState)
    (k : Nat) : (s.updTakeBody i fun b => { b with state := x }).queueKey k = s.queueKey k := by
  by_cases same : k = i
  · rw [same, queueKey_of_body body, queueKey_of_body (body_updTakeBody body _)]
    rfl
  · exact queueKey_congr (take_updTakeBody_ne s same _) rfl

theorem takeReadied_closeTake {s : State} {i : Nat} {b : TakeBody} (body : (s.take i).body = some b)
    (opened : b.state = .opened) : TakeReadied s (s.closeTake i) i b := by
  have closed : s.closeTake i = (s.updTakeBody i fun b => { b with state := .ready }).enterQueue i := by
    rw [closeTake, body]
    dsimp only
    rw [opened]
  have changed := body_updTakeBody body fun b => { b with state := .ready }
  have key := queueKey_updTakeBody_state body .ready
  rw [closed]
  generalize readied : (s.updTakeBody i fun b => { b with state := .ready }) = v at changed key
  have ready : v.ready = s.ready := by rw [← readied]; rfl
  have readiness : v.readiness = s.readiness := by rw [← readied]; rfl
  by_cases queued : i ∈ v.ready
  · rw [enterQueue_of_mem queued]
    refine ⟨queued, by rw [ready], ordered_congr ready key, ?_⟩
    rw [changed, if_pos (Or.inl (ready ▸ queued))]
  · refine ⟨mem_ready_enterQueue v i, ?_, fun ordered => ?_, ?_⟩
    · have same : (fun k => decide (k ≠ i)) = fun k => k != i := funext fun k => by simp [bne, Bool.beq_eq_decide_eq]
      rw [ready_enterQueue changed queued, same, filter_insertByKey queued, ← ready,
        List.filter_eq_self.2 fun k mem => by simpa using ne_of_mem_of_not_mem mem queued]
    · exact pairwise_enterQueue changed queued (ordered_congr ready key ordered)
    · rw [body_enterQueue_of_absent changed queued, readiness]
      cases seq : b.seq with
      | some q => rw [if_pos (Or.inr (Option.some_ne_none q))]; rfl
      | none => rw [if_neg (by rintro (mem | h); exacts [queued (ready ▸ mem), h rfl])]; rfl

/-- What the close of a last take with frames leaves (R79). -/
theorem closeLastTake_of_frames {s : State} {j i : Nat} {b : TakeBody} (last : s.lastTake j = some (i, b))
    (frames : 0 < s.takeFrames b) : s.closeLastTake j = s.closeTake i := by
  rw [closeLastTake, last]
  exact if_pos frames

/-! ### The last take deleted (R79) -/

theorem closeLastTake_of_empty {s : State} {j i : Nat} {b : TakeBody} (last : s.lastTake j = some (i, b))
    (empty : s.takeFrames b = 0) : s.closeLastTake j =
      ((((s.leaveQueue i).freeHolder i b).unlinkLast j i).freeStart b).freeTake i := by
  rw [closeLastTake, last]
  exact if_neg (by omega)

theorem closeLastTake_of_none {s : State} {j : Nat} (last : s.lastTake j = none) : s.closeLastTake j = s := by
  rw [closeLastTake, last]

/-- What the end of a typist's hold of a deleted take leaves. -/
structure HolderFreed (s u : State) (l : Nat) (b : TakeBody) : Prop where
  frame : u = { s with
    holds := u.holds, chans := u.chans, waiting := u.waiting, reserved := u.reserved, port := u.port
    links := u.links, notices := u.notices, overflowed := u.overflowed }
  holds : b.state ≠ .following → u.holds = s.holds
  hold : ∀ n, b.state = .following → b.typist = some n → u.hold n = s.hold n - 1
  stopped : ∀ n, b.state = .following → b.typist = some n → ∀ ch p, ch < 16 → (s.chan ch).stream = .play p →
    p.take = s.takeRef l → (u.chan ch).stream = .idle
  others : ∀ k, (s.chan k).loaded = none → u.chan k = s.chan k

theorem freeHolder_of_typist {s : State} {l n : Nat} {b : TakeBody} (following : b.state = .following)
    (typist : b.typist = some n) : s.freeHolder l b = (s.setHold n (s.hold n - 1)).revokeLoaded (s.takeRef l) false := by
  rw [freeHolder, following, typist]

theorem freeHolder_of_none {s : State} {l : Nat} {b : TakeBody} (free : b.state ≠ .following ∨ b.typist = none) :
    s.freeHolder l b = s := by
  unfold freeHolder
  split
  · next following typist =>
    rcases free with other | absent
    · exact absurd following other
    · rw [typist] at absent
      cases absent
  · rfl

theorem holderFreed_freeHolder (s : State) (l : Nat) (b : TakeBody) : HolderFreed s (s.freeHolder l b) l b := by
  by_cases held : b.state = .following ∧ b.typist ≠ none
  · obtain ⟨following, typist⟩ := held
    obtain ⟨n, typist⟩ := Option.ne_none_iff_exists'.1 typist
    rw [freeHolder_of_typist following typist]
    have lowered : (s.setHold n (s.hold n - 1)).hold n = s.hold n - 1 := hold_setHold s n _
    have given : s.setHold n (s.hold n - 1) = { s with holds := (s.setHold n (s.hold n - 1)).holds } := rfl
    generalize s.setHold n (s.hold n - 1) = v at lowered given
    have chan (k : Nat) : v.chan k = s.chan k := (congrArg (fun v : State => v.chan k) given :)
    have moved := channelsMoved_revokeLoaded v (s.takeRef l)
    have stopped (k : Nat) (low : k < 16) (loads : (v.chan k).loaded = some (s.takeRef l)) :=
      idle_revokeLoaded low loads false
    have kept (k : Nat) (other : (v.chan k).loaded ≠ some (s.takeRef l)) := chan_revokeLoaded_of_not_loaded other false
    generalize v.revokeLoaded (s.takeRef l) false = u at moved stopped kept
    have holds : u.hold n = v.hold n := (congrArg (fun v : State => v.hold n) moved :)
    refine ⟨?_, fun other => absurd following other, fun m _ typist' => ?_, fun m _ _ ch p low play loaded => ?_,
      fun k idle => ?_⟩
    · rw [moved, given]
    · obtain rfl : n = m := Option.some.inj (typist.symm.trans typist')
      rw [holds, lowered]
    · exact stopped ch low ((loaded_eq_some_iff _ _).2 ⟨p, by rw [chan]; exact play, loaded⟩)
    · rw [kept k (by rw [chan, idle]; exact (Option.some_ne_none _).symm), chan]
  · rw [freeHolder_of_none (by tauto)]
    exact ⟨rfl, fun _ => rfl, fun n following typist => absurd ⟨following, by rw [typist]; simp⟩ held,
      fun n following typist => absurd ⟨following, by rw [typist]; simp⟩ held, fun _ _ => rfl⟩

/-- A take without its place in its list. -/
def TakeBody.unchained (b : TakeBody) : TakeBody := { b with next := none }

/-- What the unlinking of a job's last take leaves. -/
structure LastUnlinked (s u : State) (j : Nat) : Prop where
  issue : ∀ k, (u.take k).issue = (s.take k).issue
  body : ∀ k, (u.take k).body.map TakeBody.unchained = (s.take k).body.map TakeBody.unchained
  job : ∃ head, u.job j = { s.job j with takeHead := head, takeCount := (s.job j).takeCount - 1 }
  jobs : ∀ k, k ≠ j → u.job k = s.job k
  frame : u = { s with takes := u.takes, jobs := u.jobs }

/-- A take count lowered after a change of the takes. -/
theorem lastUnlinked_of_takes {s v : State} (j : Nat) (issue : ∀ k, (v.take k).issue = (s.take k).issue)
    (body : ∀ k, (v.take k).body.map TakeBody.unchained = (s.take k).body.map TakeBody.unchained)
    (job : ∃ head, v.job j = { s.job j with takeHead := head }) (jobs : ∀ k, k ≠ j → v.job k = s.job k)
    (frame : v = { s with takes := v.takes, jobs := v.jobs }) :
    LastUnlinked s (v.updJob j fun x => { x with takeCount := x.takeCount - 1 }) j := by
  obtain ⟨head, job⟩ := job
  refine ⟨issue, body, ⟨head, ?_⟩, fun k ne => ?_, ?_⟩
  · refine (job_setJob _ _ _).trans ?_
    rw [job]
  · exact (job_setJob_ne _ _ _ _ ne).trans (jobs k ne)
  · rw [frame]
    rfl

theorem lastUnlinked_unlinkLast (s : State) (j l : Nat) : LastUnlinked s (s.unlinkLast j l) j := by
  unfold unlinkLast
  dsimp only
  split
  · next p _ =>
    refine lastUnlinked_of_takes j (fun k => ?_) (fun k => ?_) ⟨(s.job j).takeHead, rfl⟩ (fun k _ => rfl) rfl
    · by_cases same : k = p
      · rw [same, updTakeBody, take_setTake]
      · rw [take_updTakeBody_ne s same]
    · by_cases same : k = p
      · rw [same, updTakeBody, take_setTake, Option.map_map]
        rfl
      · rw [take_updTakeBody_ne s same]
  · exact lastUnlinked_of_takes j (fun k => rfl) (fun k => rfl) ⟨none, job_setJob _ _ _⟩
      (fun k ne => job_setJob_ne _ _ _ _ ne) rfl

/-- What the freeing of a deleted take's TAKE cue leaves. -/
structure StartFreed (s u : State) (j : Nat) (b : TakeBody) : Prop where
  freed : ∀ c, b.start = some c → u.cue c.idx = { issue := (s.cue c.idx).issue + 1, body := none } ∧
    u.cueFree = s.cueFree + 1
  kept : b.start = none → u.cues = s.cues
  segs : SameSegs s u
  job : ∀ k, ∃ first, u.job k = { s.job k with firstCue := first }
  jobs : (∀ c, b.start = some c → s.cueJob c.idx = j) → ∀ k, k ≠ j → u.job k = s.job k
  frame : u = { s with cues := u.cues, cueFree := u.cueFree, jobs := u.jobs, segs := u.segs }

theorem job_unlinkCue_ne (s : State) {i k : Nat} (other : k ≠ s.cueJob i) : (s.unlinkCue i).job k = s.job k := by
  cases body : (s.cue i).body with
  | none => rw [unlinkCue, body]
  | some b =>
    rw [cueJob_of_body body] at other
    rw [unlinkCue, body]
    dsimp only
    rw [refreshParts_job, job_orderCues_ne _ _ other]

theorem startFreed_freeStart (s : State) (j : Nat) (b : TakeBody) : StartFreed s (s.freeStart b) j b := by
  cases start : b.start with
  | none =>
    rw [freeStart, start]
    exact ⟨fun c h => (by rw [start] at h; cases h), fun _ => rfl, SameSegs.refl s, fun k => ⟨(s.job k).firstCue, rfl⟩,
      fun _ _ _ => rfl, rfl⟩
  | some c =>
    have relinked := cuesRelinked_unlinkCue s c.idx
    have other (k : Nat) (ne : k ≠ s.cueJob c.idx) := job_unlinkCue_ne s ne
    rw [freeStart, start]
    dsimp only
    generalize s.unlinkCue c.idx = v at relinked other
    refine ⟨fun d h => ?_, fun h => (by rw [start] at h; cases h),
      SameSegs.trans relinked.segs (SameSegs.of_segs rfl), relinked.job, fun own k ne => ?_, ?_⟩
    · obtain rfl : c = d := Option.some.inj (start.symm.trans h)
      rw [cue_freeCue, relinked.cues.issue]
      exact ⟨rfl, congrArg (· + 1) (congrArg State.cueFree relinked.frame :)⟩
    · exact other k (by rw [own c start]; exact ne)
    · rw [relinked.frame]
      rfl

/-- What the deletion of a last take without frames leaves (R79). -/
structure LastDeleted (s u : State) (j i : Nat) (b : TakeBody) : Prop where
  freed : u.take i = { issue := (s.take i).issue + 1, body := none }
  takeFree : u.takeFree = s.takeFree + 1
  left : i ∉ u.ready
  others : ∀ k, k ≠ i → (u.take k).body.map TakeBody.unchained = (s.take k).body.map TakeBody.unchained
  cue : ∀ c, b.start = some c → u.cue c.idx = { issue := (s.cue c.idx).issue + 1, body := none } ∧
    u.cueFree = s.cueFree + 1
  cues : b.start = none → u.cues = s.cues
  holds : b.state ≠ .following → u.holds = s.holds
  hold : ∀ n, b.state = .following → b.typist = some n → u.hold n = s.hold n - 1
  stopped : ∀ n, b.state = .following → b.typist = some n → ∀ ch p, ch < 16 → (s.chan ch).stream = .play p →
    p.take = s.takeRef i → (u.chan ch).stream = .idle
  chans : ∀ k, (s.chan k).loaded = none → u.chan k = s.chan k
  segs : SameSegs s u
  job : ∃ first head, u.job j = { s.job j with
    firstCue := first, takeHead := head, takeCount := (s.job j).takeCount - 1 }
  jobs : (∀ c, b.start = some c → s.cueJob c.idx = j) → ∀ k, k ≠ j → u.job k = s.job k
  places : u.places = s.places

theorem lastDeleted_closeLastTake {s : State} {j i : Nat} {b : TakeBody} (last : s.lastTake j = some (i, b))
    (empty : s.takeFrames b = 0) : LastDeleted s (s.closeLastTake j) j i b := by
  rw [closeLastTake_of_empty last empty]
  have holder := holderFreed_freeHolder (s.leaveQueue i) i b
  generalize (s.leaveQueue i).freeHolder i b = v at holder
  have unlinked := lastUnlinked_unlinkLast v j i
  generalize v.unlinkLast j i = w at unlinked
  have start := startFreed_freeStart w j b
  generalize w.freeStart b = x at start
  have takeV (k : Nat) : v.take k = s.take k := (congrArg (fun u : State => u.take k) holder.frame :)
  have takeX (k : Nat) : x.take k = w.take k := (congrArg (fun u : State => u.take k) start.frame :)
  have cueW (k : Nat) : w.cue k = s.cue k := (congrArg (fun u : State => u.cue k) unlinked.frame :).trans
    (congrArg (fun u : State => u.cue k) holder.frame :)
  have jobV (k : Nat) : v.job k = s.job k := (congrArg (fun u : State => u.job k) holder.frame :)
  have chanX (k : Nat) : x.chan k = v.chan k := (congrArg (fun u : State => u.chan k) start.frame :).trans
    (congrArg (fun u : State => u.chan k) unlinked.frame :)
  have free (k : Nat) (ne : k ≠ i) : (x.freeTake i).take k = x.take k := (takeKept_freeTake x ne).take
  have cueJob (c : Nat) : w.cueJob c = s.cueJob c := by rw [State.cueJob, State.cueJob, cueW]
  have cuesW : w.cues = s.cues := (congrArg State.cues unlinked.frame :).trans (congrArg State.cues holder.frame :)
  have cueFreeW : w.cueFree = s.cueFree := (congrArg State.cueFree unlinked.frame :).trans
    (congrArg State.cueFree holder.frame :)
  have holdsX : x.holds = v.holds := (congrArg State.holds start.frame :).trans (congrArg State.holds unlinked.frame :)
  have segsW : w.segs = s.segs := (congrArg State.segs unlinked.frame :).trans (congrArg State.segs holder.frame :)
  have takeFreeX : x.takeFree = s.takeFree := (congrArg State.takeFree start.frame :).trans
    ((congrArg State.takeFree unlinked.frame :).trans (congrArg State.takeFree holder.frame :))
  have placesX : x.places = s.places := (congrArg State.places start.frame :).trans
    ((congrArg State.places unlinked.frame :).trans (congrArg State.places holder.frame :))
  have jobU (k : Nat) : (x.freeTake i).job k = x.job k := rfl
  refine ⟨?_, ?_, not_mem_ready_freeTake x i, fun k ne => ?_, fun c at_ => ?_, fun none => ?_, fun other => ?_,
    fun n following typist => ?_, fun n following typist ch p low play loaded => ?_, fun k idle => ?_, ?_, ?_,
    fun own k ne => ?_, placesX⟩
  · rw [take_freeTake, takeX, unlinked.issue, takeV]
  · exact congrArg (· + 1) takeFreeX
  · rw [free k ne, takeX, unlinked.body, takeV]
  · obtain ⟨freed, room⟩ := start.freed c at_
    rw [cueW] at freed
    rw [cueFreeW] at room
    exact ⟨freed, room⟩
  · exact (start.kept none).trans cuesW
  · exact holdsX.trans (holder.holds other)
  · have lowered := holder.hold n following typist
    rw [State.hold, ← holdsX] at lowered
    exact lowered
  · exact (congrArg Channel.stream (chanX ch)).trans (holder.stopped n following typist ch p low play loaded)
  · exact (chanX k).trans (holder.others k idle)
  · exact SameSegs.trans (SameSegs.of_segs segsW) (SameSegs.trans start.segs (SameSegs.of_segs rfl))
  · obtain ⟨first, jobX⟩ := start.job j
    obtain ⟨head, jobW⟩ := unlinked.job
    exact ⟨first, head, by rw [jobU, jobX, jobW, jobV]⟩
  · rw [jobU, start.jobs (fun c at_ => by rw [cueJob]; exact own c at_) k ne, unlinked.jobs k ne, jobV]

/-! ### CLOSE DICTATION (R12, R13) -/

theorem exec_closeDictation (p : Port) (r : Ref) (s : State) :
    exec (.closeDictation p r) s = serve p (.closeDictation r) s fun p s =>
      checked s
        (jobChecks s r ++
          [(!p.owns (s.job r.idx), .notPermitted),
            (decide ((s.job r.idx).state ≠ .live) && decide ((s.job r.idx).state ≠ .setAside), .state),
            ((s.job r.idx).held, .held), (decide (p ≠ .console) && s.captureBusy (s.job r.idx).chan, .busy)])
        (closedDictation s p r) :=
  rfl

/-- What the close or the deletion of the last take leaves, whichever it is. -/
structure LastSettled (s u : State) (j : Nat) : Prop where
  job : ∃ first head count, u.job j = { s.job j with firstCue := first, takeHead := head, takeCount := count }
  jobs : (∀ x ∈ s.jobTakes j, ∀ c, x.2.start = some c → s.cueJob c.idx = j) → ∀ k, k ≠ j → u.job k = s.job k
  segs : SameSegs s u
  chans : ∀ k, (s.chan k).loaded = none → u.chan k = s.chan k
  places : u.places = s.places

theorem lastSettled_closeLastTake (s : State) (j : Nat) : LastSettled s (s.closeLastTake j) j := by
  cases last : s.lastTake j with
  | none =>
    rw [closeLastTake_of_none last]
    exact ⟨⟨_, _, _, rfl⟩, fun _ _ _ => rfl, SameSegs.refl s, fun _ _ => rfl, rfl⟩
  | some x =>
    obtain ⟨i, b⟩ := x
    by_cases empty : s.takeFrames b = 0
    · have deleted := lastDeleted_closeLastTake last empty
      obtain ⟨first, head, job⟩ := deleted.job
      exact ⟨⟨first, head, _, job⟩, fun own => deleted.jobs fun c at_ => own (i, b) (List.mem_of_getLast? last) c at_,
        deleted.segs, deleted.chans, deleted.places⟩
    · have only := (takeClosed_closeTake (body_of_lastTake last)).only
      rw [closeLastTake_of_frames last (by omega)]
      have job (k : Nat) : (s.closeTake i).job k = s.job k := (congrArg (fun u : State => u.job k) only :)
      exact ⟨⟨_, _, _, job j⟩, fun _ k _ => job k, SameSegs.of_segs (congrArg State.segs only :),
        fun k _ => (congrArg (fun u : State => u.chan k) only :), (congrArg State.places only :)⟩

/-- The checks of CLOSE DICTATION, all passed (R12). -/
theorem closeChecks_pass {s : State} {r : Ref} {who : Party} (current : s.jobCurrent r = true)
    (owns : who.owns (s.job r.idx) = true) (live : (s.job r.idx).state = .live ∨ (s.job r.idx).state = .setAside)
    (free : (s.job r.idx).held = false) (may : who = .console ∨ s.captureBusy (s.job r.idx).chan = false) :
    firstFailing (jobChecks s r ++
      [(!who.owns (s.job r.idx), .notPermitted),
        (decide ((s.job r.idx).state ≠ .live) && decide ((s.job r.idx).state ≠ .setAside), .state),
        ((s.job r.idx).held, .held), (decide (who ≠ .console) && s.captureBusy (s.job r.idx).chan, .busy)]) = none := by
  have state : (decide ((s.job r.idx).state ≠ .live) && decide ((s.job r.idx).state ≠ .setAside)) = false := by
    rcases live with state | state
    · rw [state]; rfl
    · rw [state]; rfl
  have idle : (decide (who ≠ .console) && s.captureBusy (s.job r.idx).chan) = false := by
    rcases may with console | idle
    · simp [console]
    · rw [idle, Bool.and_false]
  rw [firstFailing_jobChecks current]
  simp only [owns, state, free, idle, firstFailing, Bool.not_true]
  rfl

theorem not_loaded_of_idle {c : Channel} (idle : c.stream = .idle) : c.loaded = none := by
  unfold Channel.loaded
  rw [idle]

section Steps

variable {s a w u : State} {who : Party} {r : Ref} (released : ChannelReleased s a who r) (closed : JobClosed w u r)

include released closed

/-- A last take with frames, closed (R79). -/
theorem closed_of_frames {i : Nat} {b : TakeBody} (body : (s.take i).body = some b) (step : w = a.closeTake i) :
    u.takeFree = s.takeFree ∧ u.cues = s.cues ∧ u.holds = s.holds ∧ (∀ k, k ≠ i → u.take k = s.take k) ∧
      (b.state = .opened → i ∈ u.ready ∧
        u.ready.filter (fun k => decide (k ≠ i)) = s.ready.filter (fun k => decide (k ≠ i)) ∧ (Ordered s → Ordered u) ∧
        (u.take i).body = some
          { b with state := .ready, seq := if i ∈ s.ready ∨ b.seq ≠ none then b.seq else some s.readiness }) ∧
      (b.state = .following → u.ready = s.ready ∧ (u.take i).body = some { b with state := .claimed }) := by
  have agree := released.agree r.idx
  have body' : (a.take i).body = some b := by rw [agree.take]; exact body
  have taken := takeClosed_closeTake body'
  rw [← step] at taken
  have readyA : a.ready = s.ready := (congrArg State.ready released.frame :)
  have readinessA : a.readiness = s.readiness := (congrArg State.readiness released.frame :)
  have readyU : u.ready = w.ready := (congrArg State.ready closed.frame :)
  have takeU (k : Nat) : u.take k = w.take k := (congrArg (fun u : State => u.take k) closed.frame :)
  have jobW (k : Nat) : w.job k = a.job k := (congrArg (fun u : State => u.job k) taken.only :)
  have keyA (k : Nat) : a.queueKey k = s.queueKey k := by
    refine queueKey_eq_of (agree.take k) fun j => ?_
    obtain ⟨ch, state, job⟩ := released.job j
    rw [job]
    exact ⟨rfl, rfl⟩
  have keyU (k : Nat) : u.queueKey k = w.queueKey k := by
    refine queueKey_eq_of (takeU k) fun j => ?_
    by_cases same : j = r.idx
    · rw [same, closed.job]
      exact ⟨rfl, rfl⟩
    · rw [closed.jobs j same]
      exact ⟨rfl, rfl⟩
  refine ⟨?_, ?_, ?_, fun k ne => ?_, fun opened => ?_, fun following => ?_⟩
  · exact (congrArg State.takeFree closed.frame :).trans
      ((congrArg State.takeFree taken.only :).trans (congrArg State.takeFree released.frame :))
  · exact (congrArg State.cues closed.frame :).trans ((congrArg State.cues taken.only :).trans agree.cues)
  · exact (congrArg State.holds closed.frame :).trans
      ((congrArg State.holds taken.only :).trans (congrArg State.holds released.frame :))
  · rw [takeU, (taken.others k ne).take, agree.take]
  · have readied := takeReadied_closeTake body' opened
    rw [← step] at readied
    rw [readyU, takeU, ← readyA, ← readinessA]
    exact ⟨readied.queued, readied.others,
      fun ordered => ordered_congr readyU keyU (readied.ordered (ordered_congr readyA keyA ordered)), readied.body⟩
  · have claimed : w = a.updTakeBody i fun b => { b with state := .claimed } := by
      rw [step, closeTake, body']
      dsimp only
      rw [following]
    rw [readyU, takeU, claimed]
    exact ⟨readyA, body_updTakeBody body' _⟩

/-- A last take without frames, deleted (R79). -/
theorem closed_of_empty {i : Nat} {b : TakeBody} (deleted : LastDeleted a w r.idx i b) :
    u.take i = { issue := (s.take i).issue + 1, body := none } ∧ u.takeFree = s.takeFree + 1 ∧ i ∉ u.ready ∧
      (u.job r.idx).takeCount = (s.job r.idx).takeCount - 1 ∧
      (∀ k, k ≠ i → (u.take k).body.map (fun x => { x with next := none }) =
        (s.take k).body.map fun x => { x with next := none }) ∧
      (∀ c, b.start = some c → u.cue c.idx = { issue := (s.cue c.idx).issue + 1, body := none } ∧
        u.cueFree = s.cueFree + 1) ∧
      (b.start = none → u.cues = s.cues) ∧ (b.state ≠ .following → u.holds = s.holds) ∧
      ∀ n, b.state = .following → b.typist = some n → u.hold n = s.hold n - 1 ∧
        ∀ ch p, ch < 16 → (s.chan ch).stream = .play p → p.take = s.takeRef i → (u.chan ch).stream = .idle := by
  have agree := released.agree r.idx
  have takeU (k : Nat) : u.take k = w.take k := (congrArg (fun u : State => u.take k) closed.frame :)
  have cueU (k : Nat) : u.cue k = w.cue k := (congrArg (fun u : State => u.cue k) closed.frame :)
  have cueA (k : Nat) : a.cue k = s.cue k := (congrArg (fun u : State => u.cue k) released.frame :)
  have holdA (k : Nat) : a.hold k = s.hold k := (congrArg (fun u : State => u.hold k) released.frame :)
  have takeFreeA : a.takeFree = s.takeFree := (congrArg State.takeFree released.frame :)
  have cueFreeA : a.cueFree = s.cueFree := (congrArg State.cueFree released.frame :)
  have refA : a.takeRef i = s.takeRef i := by rw [takeRef, takeRef, agree.take]
  obtain ⟨ch, state, jobA⟩ := released.job r.idx
  obtain ⟨first, head, jobW⟩ := deleted.job
  refine ⟨by rw [takeU, deleted.freed, agree.take], ?_, ?_, by rw [closed.job, jobW, jobA], fun k ne => ?_, fun c at_ => ?_,
    fun none => ?_, fun other => ?_, fun n following typist => ⟨?_, fun ch p low play loaded => ?_⟩⟩
  · exact (congrArg State.takeFree closed.frame :).trans (deleted.takeFree.trans (by rw [takeFreeA]))
  · rw [show u.ready = w.ready from (congrArg State.ready closed.frame :)]
    exact deleted.left
  · rw [takeU]
    exact (deleted.others k ne).trans (by rw [agree.take]; rfl)
  · obtain ⟨freed, room⟩ := deleted.cue c at_
    exact ⟨by rw [cueU, freed, cueA], (congrArg State.cueFree closed.frame :).trans (room.trans (by rw [cueFreeA]))⟩
  · exact (congrArg State.cues closed.frame :).trans ((deleted.cues none).trans agree.cues)
  · exact (congrArg State.holds closed.frame :).trans ((deleted.holds other).trans (congrArg State.holds released.frame :))
  · rw [show u.hold n = w.hold n from (congrArg (fun u : State => u.hold n) closed.frame :),
      deleted.hold n following typist, holdA]
  · rw [show u.chan ch = w.chan ch from (congrArg (fun u : State => u.chan ch) closed.frame :)]
    exact deleted.stopped n following typist ch p low (released.plays ch p play) (by rw [refA]; exact loaded)

end Steps

/-- Settles O19, step by step. -/
theorem closeDictationCloses : Obligations.CloseDictationCloses := by
  unfold Obligations.CloseDictationCloses
  intro p r s who tag routed current owns live free may
  have released := channelReleased_releaseForClose s who r
  have agree := released.agree r.idx
  have settled := lastSettled_closeLastTake (s.releaseForClose who r) r.idx
  have closed := jobClosed_dropTail_closeState ((s.releaseForClose who r).closeLastTake r.idx) r
  have framed (i : Nat) (b : TakeBody) (last : s.lastTake r.idx = some (i, b)) (frames : 0 < s.takeFrames b) :=
    closeLastTake_of_frames (agree.lastTake.trans last) (by rw [agree.takeFrames]; exact frames)
  have emptied (i : Nat) (b : TakeBody) (last : s.lastTake r.idx = some (i, b)) (empty : s.takeFrames b = 0) :=
    lastDeleted_closeLastTake (agree.lastTake.trans last) (by rw [agree.takeFrames]; exact empty)
  refine ⟨(((s.releaseForClose who r).closeLastTake r.idx).dropTail r.idx).closeState r, ?_, ?_⟩
  · rw [exec_closeDictation]
    exact serve_passing routed rfl (closeChecks_pass current owns live free may) rfl
  generalize (((s.releaseForClose who r).closeLastTake r.idx).dropTail r.idx).closeState r = u at closed
  generalize (s.releaseForClose who r).closeLastTake r.idx = w at settled closed framed emptied
  generalize s.releaseForClose who r = a at released agree settled framed emptied
  obtain ⟨ch', state', jobA⟩ := released.job r.idx
  obtain ⟨first, head, count, jobW⟩ := settled.job
  have segsU : u.segs = w.segs := (congrArg State.segs closed.frame :)
  have segs : SameSegs s u := SameSegs.trans (SameSegs.of_segs agree.segs) (settled.segs.trans (SameSegs.of_segs segsU))
  have chanU (k : Nat) : u.chan k = w.chan k := (congrArg (fun u : State => u.chan k) closed.frame :)
  refine ⟨by rw [closed.job], by rw [closed.job], by rw [closed.job], by rw [closed.job, jobW, jobA],
    by rw [closed.job, jobW, jobA], fun own starts k ne => ?_, segs.body, closed.raised, fun ch x isLive attached fields => ?_,
    fun i b last frames => closed_of_frames released closed (body_of_lastTake last) (framed i b last frames),
    fun i b last empty => closed_of_empty released closed (emptied i b last empty)⟩
  · rw [closed.jobs k ne, settled.jobs (fun x mem c at_ => ?_) k ne, released.jobs own k ne]
    rw [jobTakes_congr agree.take agree.head] at mem
    rw [cueJob, show a.cue c.idx = s.cue c.idx from (congrArg (fun u : State => u.cue c.idx) released.frame :)]
    exact starts x mem c at_
  · obtain ⟨idle, awake, placement, noticed, silent⟩ := released.idle ch x isLive attached fields
    have same : u.chan ch = a.chan ch := (chanU ch).trans (settled.chans ch (not_loaded_of_idle idle))
    rw [same]
    refine ⟨idle, awake, ?_, noticed, silent⟩
    rw [show u.placement ch = w.placement ch from (congrArg (fun u : State => u.placement ch) closed.frame :),
      State.placement, settled.places]
    exact placement

end Sys2Proof.Machine
end

section
/-! ## Ranges

What a split leaves (R31, R33), the parts that SEAL RANGE and PACE RANGE write, and the reads they withdraw (R45 to R47,
R154). -/

set_option Elab.async false

namespace Sys2Proof.Machine
open State

/-! ### A segment split (R33) -/

/-- The reference of the record that a split takes. -/
def splitRef (s : State) : Ref := ⟨s.lowestFreeSeg, (s.seg s.lowestFreeSeg).issue⟩

/-- The state in which the two parts of a split segment stand, before the anchors move. -/
def segParted (s : State) (i k : Nat) (g : SegBody) : State :=
  (s.newSeg { g with first := g.first + k, count := g.count - k, cue := none }).1.updSegBody i fun b =>
    { b with count := k, next := some (splitRef s) }

/-- The state in which the anchors have moved (R31). -/
def anchorsSplit (s : State) (i k : Nat) (g : SegBody) : State :=
  ((segParted s i k g).mapCueAnchors (splitAnchor i k (splitRef s))).mapPoints (splitAnchor i k (splitRef s))

theorem splitSeg_of_none {s : State} {i : Nat} (free : (s.seg i).body = none) (k : Nat) : s.splitSeg i k = s := by
  rw [splitSeg, free]

theorem splitSeg_of_body {s : State} {i : Nat} {g : SegBody} (body : (s.seg i).body = some g) (k : Nat) :
    s.splitSeg i k = ((anchorsSplit s i k g).refreshParts g.job.idx).refUp g.extent := by
  have ref : (s.newSeg { g with first := g.first + k, count := g.count - k, cue := none }).1.segRef s.lowestFreeSeg =
      splitRef s := by
    exact (congrArg (fun x : Seg => (⟨s.lowestFreeSeg, x.issue⟩ : Ref)) (seg_setSeg s s.lowestFreeSeg
      { s.seg s.lowestFreeSeg with body := some { g with first := g.first + k, count := g.count - k, cue := none } }) :)
  rw [splitSeg, body]
  dsimp only
  rw [show (s.newSeg { g with first := g.first + k, count := g.count - k, cue := none }).2 = s.lowestFreeSeg from rfl, ref]
  rfl

theorem seg_segParted {s : State} {i : Nat} {g : SegBody} (body : (s.seg i).body = some g) (k : Nat)
    (apart : i ≠ s.lowestFreeSeg) :
    (segParted s i k g).seg i = { s.seg i with body := some { g with count := k, next := some (splitRef s) } } := by
  have here : (s.newSeg { g with first := g.first + k, count := g.count - k, cue := none }).1.seg i = s.seg i :=
    seg_setSeg_ne s _ _ _ apart
  rw [segParted, updSegBody, seg_setSeg, here, body]
  rfl

theorem seg_segParted_new (s : State) {i : Nat} (k : Nat) (g : SegBody) (apart : i ≠ s.lowestFreeSeg) :
    (segParted s i k g).seg s.lowestFreeSeg = { s.seg s.lowestFreeSeg with
      body := some { g with first := g.first + k, count := g.count - k, cue := none } } := by
  rw [segParted, updSegBody, seg_setSeg_ne _ _ _ _ (Ne.symm apart)]
  exact seg_setSeg s _ _

theorem seg_segParted_ne (s : State) {i m : Nat} (k : Nat) (g : SegBody) (other : m ≠ i) (old : m ≠ s.lowestFreeSeg) :
    (segParted s i k g).seg m = s.seg m := by
  rw [segParted, updSegBody, seg_setSeg_ne _ _ _ _ other]
  exact seg_setSeg_ne s _ _ _ old

theorem segParted_frame (s : State) (i k : Nat) (g : SegBody) :
    segParted s i k g = { s with segs := (segParted s i k g).segs, segFree := s.segFree - 1 } := rfl

theorem Stream.mapPoint_mapPoint (f h : Anchor → Anchor) (x : Stream) : (x.mapPoint f).mapPoint h = x.mapPoint (h ∘ f) := by
  cases x <;> rfl

/-- A cue without its anchor. -/
def CueBody.unanchored (b : CueBody) : CueBody := { b with anchor := .jobEnd }

/-- A change of the segments that moves the anchors on them: nothing else of a cue, of a channel or of a job changes. -/
structure AnchorsMoved (s u : State) : Prop where
  frame : u = { s with
    segs := u.segs, segFree := u.segFree, cues := u.cues, chans := u.chans, places := u.places, exts := u.exts }
  cues : Table.wf ({} : Cue) s.cues = true → Table.wf ({} : Cue) u.cues = true ∧
    ∀ i, (u.cue i).body.map CueBody.unanchored = (s.cue i).body.map CueBody.unanchored
  chans : Table.wf ({} : Channel) s.chans = true → Table.wf ({} : Channel) u.chans = true ∧
    ∀ ch, ∃ f, (u.chan ch).stream = (s.chan ch).stream.mapPoint f

theorem Stream.mapPoint_id (x : Stream) : x.mapPoint id = x := by
  cases x <;> rfl

theorem AnchorsMoved.refl (s : State) : AnchorsMoved s s :=
  ⟨rfl, fun wf => ⟨wf, fun _ => rfl⟩, fun wf => ⟨wf, fun _ => ⟨id, (Stream.mapPoint_id _).symm⟩⟩⟩

theorem AnchorsMoved.trans {s u v : State} (first : AnchorsMoved s u) (second : AnchorsMoved u v) : AnchorsMoved s v := by
  refine ⟨?_, fun wf => ?_, fun wf => ?_⟩
  · rw [second.frame, first.frame]
  · obtain ⟨wfU, kept⟩ := first.cues wf
    obtain ⟨wfV, kept'⟩ := second.cues wfU
    exact ⟨wfV, fun i => (kept' i).trans (kept i)⟩
  · obtain ⟨wfU, moved⟩ := first.chans wf
    obtain ⟨wfV, moved'⟩ := second.chans wfU
    refine ⟨wfV, fun ch => ?_⟩
    obtain ⟨f, stream⟩ := moved ch
    obtain ⟨h, stream'⟩ := moved' ch
    exact ⟨h ∘ f, by rw [stream', stream, Stream.mapPoint_mapPoint]⟩

/-- A cue whose anchor a split moves. -/
def Cue.movedBy (f : Anchor → Anchor) (c : Cue) : Cue := { c with body := c.body.map fun b => { b with anchor := f b.anchor } }

theorem cue_mapCueAnchors {s : State} (wf : Table.wf ({} : Cue) s.cues = true) (f : Anchor → Anchor) (m : Nat) :
    (s.mapCueAnchors f).cue m = (s.cue m).movedBy f :=
  Table.get_mapListed _ _ rfl m s.cues 0 wf

theorem chan_mapPoints {s : State} (wf : Table.wf ({} : Channel) s.chans = true) (f : Anchor → Anchor) (ch : Nat) :
    (s.mapPoints f).chan ch = { s.chan ch with stream := (s.chan ch).stream.mapPoint f } :=
  Table.get_mapListed _ _ rfl ch s.chans 0 wf

theorem cues_splitSeg {s : State} {i : Nat} {g : SegBody} (body : (s.seg i).body = some g) (k : Nat) :
    (s.splitSeg i k).cues = (s.mapCueAnchors (splitAnchor i k (splitRef s))).cues := by
  rw [splitSeg_of_body body, refUp_cues, refreshParts_cues]
  rfl

theorem chans_splitSeg {s : State} {i : Nat} {g : SegBody} (body : (s.seg i).body = some g) (k : Nat) :
    (s.splitSeg i k).chans = (s.mapPoints (splitAnchor i k (splitRef s))).chans := by
  rw [splitSeg_of_body body, refUp_chans, refreshParts_chans]
  rfl

theorem anchorsSplit_frame (s : State) (i k : Nat) (g : SegBody) : anchorsSplit s i k g = { s with
    segs := (anchorsSplit s i k g).segs, segFree := (anchorsSplit s i k g).segFree, cues := (anchorsSplit s i k g).cues
    chans := (anchorsSplit s i k g).chans, places := (anchorsSplit s i k g).places } := by
  have parted := segParted_frame s i k g
  unfold anchorsSplit
  generalize segParted s i k g = t at parted
  generalize splitAnchor i k (splitRef s) = f
  have cues := mapCueAnchors_frame t f
  generalize t.mapCueAnchors f = u at cues
  have points := mapPoints_frame u f
  generalize u.mapPoints f = v at points
  rw [points, cues, parted]

theorem splitSeg_frame (s : State) (i k : Nat) : s.splitSeg i k = { s with
    segs := (s.splitSeg i k).segs, segFree := (s.splitSeg i k).segFree, cues := (s.splitSeg i k).cues
    chans := (s.splitSeg i k).chans, places := (s.splitSeg i k).places, exts := (s.splitSeg i k).exts } := by
  rcases Option.eq_none_or_eq_some (s.seg i).body with free | ⟨g, body⟩
  · have same := splitSeg_of_none free k
    generalize s.splitSeg i k = u at same
    rw [same]
  · have moved := anchorsSplit_frame s i k g
    have refreshed := refreshParts_frame (anchorsSplit s i k g) g.job.idx
    have split := splitSeg_of_body body k
    generalize s.splitSeg i k = u at split
    generalize anchorsSplit s i k g = v at moved refreshed split
    generalize v.refreshParts g.job.idx = w at refreshed split
    have counted := refUp_frame w g.extent
    generalize w.refUp g.extent = x at counted split
    rw [split, counted, refreshed, moved]

theorem anchorsMoved_splitSeg (s : State) (i k : Nat) : AnchorsMoved s (s.splitSeg i k) := by
  cases body : (s.seg i).body with
  | none =>
    rw [splitSeg_of_none body]
    exact AnchorsMoved.refl s
  | some g =>
    have cues := cues_splitSeg body k
    have chans := chans_splitSeg body k
    refine ⟨splitSeg_frame s i k, fun wf => ⟨?_, fun m => ?_⟩, fun wf => ⟨?_, fun ch => ?_⟩⟩
    · rw [cues]
      exact Table.wf_mapListed _ _ _ wf
    · rw [State.cue, cues]
      rw [show Table.get {} (s.mapCueAnchors (splitAnchor i k (splitRef s))).cues m = _ from cue_mapCueAnchors wf _ m,
        Cue.movedBy, Option.map_map]
      rfl
    · rw [chans]
      exact Table.wf_mapListed _ _ _ wf
    · rw [State.chan, chans]
      exact ⟨_, congrArg Channel.stream (chan_mapPoints wf (splitAnchor i k (splitRef s)) ch)⟩

/-! ### A split where it is needed (R45) -/

theorem splitIf_eq (s : State) (j p : Nat) (e : RangeEdit) : s.splitIf j p e = (match locateIn (s.jobSegs j) p with
    | some (i, g, k) => if 0 < k ∧ e.holds g = false then s.splitSeg i k else s
    | none => s) := by
  unfold splitIf splitNeeded splitAt locate
  cases located : locateIn (s.jobSegs j) p with
  | none => rfl
  | some x =>
    obtain ⟨i, g, k⟩ := x
    by_cases inside : 0 < k <;> cases holds : e.holds g <;> simp [inside]

theorem anchorsMoved_splitIf (s : State) (j p : Nat) (e : RangeEdit) : AnchorsMoved s (s.splitIf j p e) := by
  rw [splitIf_eq]
  cases locateIn (s.jobSegs j) p with
  | none => exact AnchorsMoved.refl s
  | some x =>
    dsimp only
    split
    · exact anchorsMoved_splitSeg s _ _
    · exact AnchorsMoved.refl s

/-! ### What a split changes, field by field (R31, R33) -/

theorem splitAnchor_eq (i k : Nat) (n : Ref) (a : Anchor) : splitAnchor i k n a = (match a with
    | .frame q o => if q.idx = i ∧ k ≤ o then .frame n (o - k) else .frame q o
    | .jobEnd => .jobEnd) := by
  cases a <;> rfl

/-- A segment of a state with a free record divided at an offset. -/
theorem splitSeg_facts {s : State} (canon : Canonical s) {i : Nat} {g : SegBody} (body : (s.seg i).body = some g) (k : Nat) :
    (∃ x, (s.splitSeg i k).seg i =
      { s.seg i with body := some { g with count := k, next := some (splitRef s), cue := x } }) ∧
    (∃ y, (s.splitSeg i k).seg s.lowestFreeSeg = { s.seg s.lowestFreeSeg with
      body := some { g with first := g.first + k, count := g.count - k, cue := y } }) ∧
    (∀ m, m ≠ i → m ≠ s.lowestFreeSeg →
      ((s.splitSeg i k).seg m).body.map SegBody.uncued = (s.seg m).body.map SegBody.uncued) ∧
    (s.splitSeg i k).segFree = s.segFree - 1 ∧
    (s.splitSeg i k).ext g.extent = { s.ext g.extent with refs := (s.ext g.extent).refs + 1 } ∧
    ∀ e, e ≠ g.extent → (s.splitSeg i k).ext e = s.ext e := by
  have apart : i ≠ s.lowestFreeSeg := by
    rintro rfl
    rw [(seg_lowestFreeSeg canon).1] at body
    cases body
  have here := seg_segParted body k apart
  have new := seg_segParted_new s k g apart
  have others (m : Nat) (ne : m ≠ i) (old : m ≠ s.lowestFreeSeg) := seg_segParted_ne s k g ne old
  have seg (m : Nat) : (anchorsSplit s i k g).seg m = (segParted s i k g).seg m := rfl
  have segFree : (anchorsSplit s i k g).segFree = s.segFree - 1 := rfl
  have ext (e : Nat) : (anchorsSplit s i k g).ext e = s.ext e := rfl
  have same := sameSegs_refreshParts (anchorsSplit s i k g) g.job.idx
  have frame := refreshParts_frame (anchorsSplit s i k g) g.job.idx
  rw [splitSeg_of_body body]
  generalize (anchorsSplit s i k g).refreshParts g.job.idx = w at same frame
  generalize anchorsSplit s i k g = v at seg segFree ext same frame
  rw [← seg] at here new
  have extW (e : Nat) : w.ext e = s.ext e := (congrArg (fun u : State => u.ext e) frame :).trans (ext e)
  obtain ⟨x, partI⟩ := same.seg_of (by rw [here])
  obtain ⟨y, partN⟩ := same.seg_of (by rw [new])
  refine ⟨⟨x, by rw [refUp_seg, partI, here]⟩, ⟨y, by rw [refUp_seg, partN, new]⟩, fun m ne old => ?_, ?_, ?_, fun e ne => ?_⟩
  · rw [refUp_seg, same.body, seg, others m ne old]
  · rw [refUp_segFree]
    exact (congrArg State.segFree frame :).trans segFree
  · rw [← extW]
    exact ext_setExt w _ _
  · rw [← extW]
    exact ext_setExt_ne w _ _ _ ne

/-! ### The parts written (R45, R46) -/

theorem mem_segsWithin {s : State} {j a b i : Nat} {g : SegBody} :
    (i, g) ∈ s.segsWithin j a b ↔ ∃ p, (i, g, p) ∈ withStarts 0 (s.jobSegs j) ∧ a ≤ p ∧ p + g.count ≤ b := by
  simp only [segsWithin, List.mem_map, List.mem_filter, Bool.and_eq_true, decide_eq_true_eq, Prod.exists, Prod.mk.injEq]
  constructor
  · rintro ⟨i', g', p, ⟨mem, low, high⟩, rfl, rfl⟩
    exact ⟨p, mem, low, high⟩
  · rintro ⟨p, mem, low, high⟩
    exact ⟨i, g, p, ⟨mem, low, high⟩, rfl, rfl⟩

theorem seg_foldl_write {write : SegBody → SegBody} (again : ∀ b, write (write b) = write b) (l : List (Nat × SegBody))
    (s : State) (i : Nat) : ((l.foldl (fun t x => t.updSegBody x.1 write) s).seg i) =
      if ∃ x ∈ l, x.1 = i then { s.seg i with body := (s.seg i).body.map write } else s.seg i := by
  induction l generalizing s with
  | nil => simp
  | cons x rest ih =>
    rw [List.foldl_cons, ih]
    by_cases same : i = x.1
    · subst same
      have here : ∃ y ∈ x :: rest, y.1 = x.1 := ⟨x, List.mem_cons_self, rfl⟩
      have twice : write ∘ write = write := funext again
      rw [if_pos here, updSegBody, seg_setSeg, Option.map_map, twice]
      split <;> rfl
    · rw [updSegBody, seg_setSeg_ne _ _ _ _ same]
      simp only [List.mem_cons, exists_eq_or_imp, Ne.symm same, false_or]

theorem foldl_write_frame (write : SegBody → SegBody) (l : List (Nat × SegBody)) (s : State) :
    l.foldl (fun t x => t.updSegBody x.1 write) s = { s with
      segs := (l.foldl (fun t x => t.updSegBody x.1 write) s).segs } := by
  induction l generalizing s with
  | nil => rfl
  | cons x rest ih =>
    rw [List.foldl_cons, ih]
    rfl

/-- The state in which a range's splits are made. -/
def rangeSplit (s : State) (j a b : Nat) (e : RangeEdit) : State := (s.splitIf j a e).splitIf j b e

theorem anchorsMoved_rangeSplit (s : State) (j a b : Nat) (e : RangeEdit) : AnchorsMoved s (rangeSplit s j a b e) :=
  (anchorsMoved_splitIf s j a e).trans (anchorsMoved_splitIf _ j b e)

theorem writeRange_frame (s : State) (j a b : Nat) (e : RangeEdit) :
    s.writeRange j a b e = { rangeSplit s j a b e with segs := (s.writeRange j a b e).segs } :=
  foldl_write_frame e.write _ _

/-- What a range writes: its value on every segment wholly within it, and nothing on the others. -/
theorem seg_writeRange {e : RangeEdit} (again : ∀ b, e.write (e.write b) = e.write b) (s : State) (j a b i : Nat) :
    ((∃ g, (i, g) ∈ (rangeSplit s j a b e).segsWithin j a b) → (s.writeRange j a b e).seg i =
      { (rangeSplit s j a b e).seg i with body := ((rangeSplit s j a b e).seg i).body.map e.write }) ∧
    ((∀ g, (i, g) ∉ (rangeSplit s j a b e).segsWithin j a b) →
      (s.writeRange j a b e).seg i = (rangeSplit s j a b e).seg i) := by
  have written : (s.writeRange j a b e).seg i = _ :=
    seg_foldl_write again ((rangeSplit s j a b e).segsWithin j a b) (rangeSplit s j a b e) i
  refine ⟨fun ⟨g, mem⟩ => ?_, fun none => ?_⟩
  · rw [written, if_pos ⟨(i, g), mem, rfl⟩]
  · rw [written, if_neg]
    rintro ⟨⟨k, g⟩, mem, rfl⟩
    exact none g mem

/-- A job of one segment needs no split for a range of its whole length. -/
theorem rangeSplit_of_whole {s : State} {j i b : Nat} {g : SegBody} (e : RangeEdit) (whole : s.jobSegs j = [(i, g)])
    (length : b = g.count) (some : 0 < b) : rangeSplit s j 0 b e = s := by
  have first : s.splitIf j 0 e = s := by
    rw [splitIf_eq, whole, locateIn, if_pos (by omega)]
    exact if_neg fun h => absurd h.1 (by omega)
  have last : s.splitIf j b e = s := by
    rw [splitIf_eq, whole, locateIn, if_neg (by omega)]
    rfl
  rw [rangeSplit, first, last]

theorem segsWithin_of_whole {s : State} {j i b : Nat} {g : SegBody} (whole : s.jobSegs j = [(i, g)])
    (length : b = g.count) : s.segsWithin j 0 b = [(i, g)] := by
  rw [segsWithin, whole]
  simp [withStarts, length]

/-! ### Taint (R28, R99) -/

theorem ext_foldl_taint (l : List (Nat × SegBody)) (s : State) (e : Nat) :
    (l.foldl (fun t x => t.taintExt x.2.extent) s).ext e =
      if ∃ x ∈ l, x.2.extent = e then { s.ext e with taint := true } else s.ext e := by
  induction l generalizing s with
  | nil => simp
  | cons x rest ih =>
    rw [List.foldl_cons, ih]
    by_cases same : e = x.2.extent
    · subst same
      have here : ∃ y ∈ x :: rest, y.2.extent = x.2.extent := ⟨x, List.mem_cons_self, rfl⟩
      rw [if_pos here, taintExt, ext_setExt]
      split <;> rfl
    · rw [taintExt, ext_setExt_ne _ _ _ _ same]
      simp only [List.mem_cons, exists_eq_or_imp, Ne.symm same, false_or]

theorem foldl_taint_frame (l : List (Nat × SegBody)) (s : State) :
    l.foldl (fun t x => t.taintExt x.2.extent) s = { s with
      exts := (l.foldl (fun t x => t.taintExt x.2.extent) s).exts } := by
  induction l generalizing s with
  | nil => rfl
  | cons x rest ih =>
    rw [List.foldl_cons, ih]
    rfl

/-- A segment without its SEAL part. -/
def SegBody.unsealed (b : SegBody) : SegBody := { b with sealPart := none }

theorem withStarts_map_unsealed (p : Nat) (l : List (Nat × SegBody)) :
    withStarts p (l.map (Prod.map id SegBody.unsealed)) =
      (withStarts p l).map fun x => (x.1, x.2.1.unsealed, x.2.2) := by
  induction l generalizing p with
  | nil => rfl
  | cons x rest ih => exact congrArg (_ :: ·) (ih _)

theorem exists_withStarts_iff {l : List (Nat × SegBody)} {i p : Nat} (n x : Nat) :
    (∃ g, (i, g, p) ∈ withStarts 0 l ∧ g.count = n ∧ g.extent = x) ↔
      ∃ g, (i, g, p) ∈ withStarts 0 (l.map (Prod.map id SegBody.unsealed)) ∧ g.count = n ∧ g.extent = x := by
  rw [withStarts_map_unsealed]
  constructor
  · rintro ⟨g, mem, count, extent⟩
    exact ⟨g.unsealed, List.mem_map.2 ⟨(i, g, p), mem, rfl⟩, count, extent⟩
  · rintro ⟨g, mem, count, extent⟩
    obtain ⟨⟨k, h, q⟩, mem', same⟩ := List.mem_map.1 mem
    obtain ⟨rfl, rfl, rfl⟩ : k = i ∧ h.unsealed = g ∧ q = p := by simpa using same
    exact ⟨h, mem', count, extent⟩

/-- The extents of the segments wholly within a range are the same before and after SEAL is written. -/
theorem exists_segsWithin_congr {s u : State} {j : Nat}
    (body : ∀ i, (u.seg i).body.map SegBody.unsealed = (s.seg i).body.map SegBody.unsealed)
    (head : (u.job j).segHead = (s.job j).segHead) (a b x : Nat) :
    (∃ y ∈ u.segsWithin j a b, y.2.extent = x) ↔ ∃ y ∈ s.segsWithin j a b, y.2.extent = x := by
  have lists : (u.jobSegs j).map (Prod.map id SegBody.unsealed) = (s.jobSegs j).map (Prod.map id SegBody.unsealed) := by
    rw [jobSegs, jobSegs, head]
    exact segsFrom_map_congr (view := SegBody.unsealed) (fun _ _ alike => (congrArg SegBody.next alike :)) body _ _
  have within (t : State) : (∃ y ∈ t.segsWithin j a b, y.2.extent = x) ↔
      ∃ i p n, a ≤ p ∧ p + n ≤ b ∧ ∃ g, (i, g, p) ∈ withStarts 0 (t.jobSegs j) ∧ g.count = n ∧ g.extent = x := by
    constructor
    · rintro ⟨⟨i, g⟩, mem, extent⟩
      obtain ⟨p, mem, low, high⟩ := mem_segsWithin.1 mem
      exact ⟨i, p, g.count, low, high, g, mem, rfl, extent⟩
    · rintro ⟨i, p, n, low, high, g, mem, rfl, extent⟩
      exact ⟨(i, g), mem_segsWithin.2 ⟨p, mem, low, high⟩, extent⟩
  rw [within u, within s]
  refine exists₃_congr fun i p n => and_congr_right fun _ => and_congr_right fun _ => ?_
  rw [exists_withStarts_iff (l := u.jobSegs j), lists, ← exists_withStarts_iff]

/-! ### Reads withdrawn (R47, R154) -/

/-- A play of a sealed job is to choose its frame again. -/
def Stream.rechosen (r : Ref) (waits : Bool) : Stream → Stream
  | .play p => .play (if p.job = r ∧ waits = true then { p with read := none } else p)
  | .readback b => .readback { b with read := if b.job = r ∧ waits = true then none else b.read }
  | x => x

/-- A stream that reads a job. -/
def Stream.Reads (r : Ref) (x : Stream) : Prop := (∃ p, x = .play p ∧ p.job = r) ∨ ∃ b, x = .readback b ∧ b.job = r

/-- What the withdrawal of a channel's waiting read leaves. -/
structure ReadWithdrawn (r : Ref) (s u : State) (ch : Nat) : Prop where
  frame : u = { s with chans := u.chans, waiting := u.waiting, reserved := u.reserved, port := u.port }
  others : ∀ k, k ≠ ch → u.chan k = s.chan k
  stream : (u.chan ch).stream = (s.chan ch).stream.rechosen r (s.readWaiting ch)
  waiting : ∀ w, w ∈ u.waiting ↔ w ∈ s.waiting ∧ (w.use.chan? = some ch → ¬(s.chan ch).stream.Reads r)

theorem readWaiting_iff (s : State) (ch : Nat) : s.readWaiting ch = true ↔ ∃ w ∈ s.waiting, w.use.chan? = some ch := by
  simp [readWaiting]

theorem mem_waiting_withdraw (s : State) (ch : Nat) (w : Claim) :
    w ∈ (s.withdraw ch).waiting ↔ w ∈ s.waiting ∧ w.use.chan? ≠ some ch := by
  change w ∈ s.waiting.filter (fun c => c.use.chan? != some ch) ↔ _
  simp [List.mem_filter]

/-- Nothing is withdrawn from a channel that reads another job, or that waits for nothing. -/
theorem readWithdrawn_refl {r : Ref} {s : State} {ch : Nat}
    (same : (s.chan ch).stream.rechosen r (s.readWaiting ch) = (s.chan ch).stream)
    (nothing : (s.chan ch).stream.Reads r → s.readWaiting ch = false) : ReadWithdrawn r s s ch := by
  refine ⟨rfl, fun _ _ => rfl, same.symm, fun w => (and_iff_left_of_imp fun mem own reads => ?_).symm⟩
  have waits := (readWaiting_iff s ch).2 ⟨w, mem, own⟩
  rw [nothing reads] at waits
  cases waits

/-- A read withdrawn for its frame to be chosen again. -/
theorem readWithdrawn_setChan {r : Ref} {s : State} {ch : Nat} (x : Channel) (reads : (s.chan ch).stream.Reads r)
    (stream : x.stream = (s.chan ch).stream.rechosen r (s.readWaiting ch)) :
    ReadWithdrawn r s ((s.withdraw ch).setChan ch x) ch := by
  refine ⟨rfl, fun k ne => chan_setChan_ne (s.withdraw ch) _ _ _ ne, ?_, fun w => ?_⟩
  · rw [chan_setChan]
    exact stream
  · refine (mem_waiting_withdraw s ch w).trans (and_congr_right fun _ => ?_)
    exact ⟨fun other own => absurd own other, fun free own => free own reads⟩

theorem readWithdrawn_withdrawWaitingRead (r : Ref) (s : State) (ch : Nat) :
    ReadWithdrawn r s (withdrawWaitingRead r s ch) ch := by
  unfold withdrawWaitingRead
  split
  · next p play =>
    by_cases chosen : p.job = r ∧ s.readWaiting ch = true
    · rw [if_pos chosen, updPlay_eq (p := p) (by exact play)]
      refine readWithdrawn_setChan _ (Or.inl ⟨p, play, chosen.1⟩) ?_
      rw [play, Stream.rechosen, if_pos chosen]
    · rw [if_neg chosen]
      refine readWithdrawn_refl (by rw [play, Stream.rechosen, if_neg chosen]) ?_
      rintro (⟨q, stream, job⟩ | ⟨b, stream, job⟩)
      · obtain rfl : p = q := Stream.play.inj (play.symm.trans stream)
        exact Bool.eq_false_iff.2 fun waits => chosen ⟨job, waits⟩
      · cases play.symm.trans stream
  · next b readback =>
    by_cases chosen : b.job = r ∧ s.readWaiting ch = true
    · rw [if_pos chosen, updReadback_eq (r := b) (by exact readback)]
      refine readWithdrawn_setChan _ (Or.inr ⟨b, readback, chosen.1⟩) ?_
      rw [readback, Stream.rechosen, if_pos chosen]
    · rw [if_neg chosen]
      refine readWithdrawn_refl (by rw [readback, Stream.rechosen, if_neg chosen]) ?_
      rintro (⟨q, stream, job⟩ | ⟨c, stream, job⟩)
      · cases readback.symm.trans stream
      · obtain rfl : b = c := Stream.readback.inj (readback.symm.trans stream)
        exact Bool.eq_false_iff.2 fun waits => chosen ⟨job, waits⟩
  all_goals
    next other =>
      refine readWithdrawn_refl (by simp only [other, Stream.rechosen]) ?_
      rintro (⟨q, stream, -⟩ | ⟨c, stream, -⟩) <;> cases other.symm.trans stream

/-- What the withdrawals on a list of channels leave. -/
structure ReadsWithdrawn (r : Ref) (s u : State) (cs : List Nat) : Prop where
  frame : u = { s with chans := u.chans, waiting := u.waiting, reserved := u.reserved, port := u.port }
  others : ∀ k, k ∉ cs → u.chan k = s.chan k
  streams : ∀ ch ∈ cs, (u.chan ch).stream = (s.chan ch).stream.rechosen r (s.readWaiting ch)
  waiting : ∀ w, w ∈ u.waiting ↔ w ∈ s.waiting ∧ ∀ ch ∈ cs, w.use.chan? = some ch → ¬(s.chan ch).stream.Reads r

theorem readsWithdrawn_foldl (r : Ref) {cs : List Nat} (distinct : cs.Nodup) (s : State) :
    ReadsWithdrawn r s (cs.foldl (withdrawWaitingRead r) s) cs := by
  induction cs generalizing s with
  | nil => exact ⟨rfl, fun _ _ => rfl, fun _ mem => absurd mem List.not_mem_nil, fun w => by simp⟩
  | cons c rest ih =>
    obtain ⟨absent, distinct⟩ := List.nodup_cons.1 distinct
    have first := readWithdrawn_withdrawWaitingRead r s c
    rw [List.foldl_cons]
    generalize withdrawWaitingRead r s c = t at first
    have later := ih distinct t
    generalize rest.foldl (withdrawWaitingRead r) t = u at later
    have apart (ch : Nat) (mem : ch ∈ rest) : ch ≠ c := ne_of_mem_of_not_mem mem absent
    have waits (ch : Nat) (ne : ch ≠ c) : t.readWaiting ch = s.readWaiting ch := by
      refine Bool.eq_iff_iff.2 ?_
      rw [readWaiting_iff, readWaiting_iff]
      constructor
      · rintro ⟨w, mem, own⟩
        exact ⟨w, ((first.waiting w).1 mem).1, own⟩
      · rintro ⟨w, mem, own⟩
        exact ⟨w, (first.waiting w).2 ⟨mem, fun same => absurd (Option.some.inj (own.symm.trans same)) ne⟩, own⟩
    refine ⟨?_, fun k out => ?_, fun ch mem => ?_, fun w => ?_⟩
    · rw [later.frame, first.frame]
    · rw [List.mem_cons, not_or] at out
      rw [later.others k out.2, first.others k out.1]
    · rcases List.mem_cons.1 mem with rfl | mem
      · rw [later.others _ absent, first.stream]
      · rw [later.streams ch mem, first.others ch (apart ch mem), waits ch (apart ch mem)]
    · rw [later.waiting, first.waiting, and_assoc, List.forall_mem_cons]
      refine and_congr_right fun _ => and_congr_right fun _ => forall₂_congr fun ch mem => ?_
      rw [first.others ch (apart ch mem)]

end Sys2Proof.Machine
end

section
/-! ## Ranges: SEAL RANGE and PACE RANGE

What the two commands write and withdraw (R45 to R47, R154). -/

set_option Elab.async false

namespace Sys2Proof.Machine
open State

theorem exec_sealRange (r : Ref) (a b c : Nat) (s : State) :
    exec (.sealRange r a b c) s = serve .console (.sealRange r a b c) s fun _ s =>
      checked s ((decide (3 < c), .range) :: rangeChecks s r a b (sealEdit c)) (sealedRange s r a b c) := rfl

theorem exec_paceRange (r : Ref) (a b : Nat) (x : Option Nat) (s : State) :
    exec (.paceRange r a b x) s = serve .console (.paceRange r a b x) s fun _ s =>
      checked s ((paceOut x, .range) :: rangeChecks s r a b (paceEdit x)) (pacedRange s r a b x) := rfl

theorem firstFailing_rangeChecks {s : State} {r : Ref} {a b : Nat} {e : RangeEdit} (current : s.jobCurrent r = true)
    (active : (s.job r.idx).state ≠ .retiring) (free : (s.job r.idx).held = false)
    (quiet : (s.job r.idx).exportBusy = false) (some : a < b) (inside : b ≤ (s.job r.idx).length)
    (fresh : s.rangeHolds r.idx a b e = false) (room : s.splitsNeeded r.idx a b e ≤ s.segFree) :
    firstFailing (rangeChecks s r a b e) = none := by
  rw [rangeChecks, firstFailing_jobChecks current]
  simp [active, free, quiet, fresh, Nat.not_le.2 some, Nat.not_lt.2 inside, Nat.not_lt.2 room]

theorem paceOut_eq_false {x : Option Nat} (within : ∀ y, x = some y → 32 ≤ y ∧ y ≤ 128) : paceOut x = false := by
  cases x with
  | none => rfl
  | some y =>
    obtain ⟨low, high⟩ := within y rfl
    simp [paceOut, low, high]

theorem sealEdit_write_write (c : Nat) (b : SegBody) : (sealEdit c).write ((sealEdit c).write b) = (sealEdit c).write b := rfl

theorem paceEdit_write_write (x : Option Nat) (b : SegBody) :
    (paceEdit x).write ((paceEdit x).write b) = (paceEdit x).write b := rfl

/-! ### The state after the splits -/

section Split
variable (s : State) (j a b : Nat) (e : RangeEdit)

theorem rangeSplit_frame : rangeSplit s j a b e = { s with
    segs := (rangeSplit s j a b e).segs, segFree := (rangeSplit s j a b e).segFree
    cues := (rangeSplit s j a b e).cues, chans := (rangeSplit s j a b e).chans
    places := (rangeSplit s j a b e).places, exts := (rangeSplit s j a b e).exts } :=
  (anchorsMoved_rangeSplit s j a b e).frame

/-- The fields that no range changes: the jobs, the takes, the ready queue, the links, the notices and the count of free
cues. -/
structure RangeKept (s u : State) : Prop where
  jobs : u.jobs = s.jobs
  takes : u.takes = s.takes
  ready : u.ready = s.ready
  links : u.links = s.links
  notices : u.notices = s.notices
  cueFree : u.cueFree = s.cueFree

theorem rangeKept_rangeSplit : RangeKept s (rangeSplit s j a b e) := by
  have frame := rangeSplit_frame s j a b e
  generalize rangeSplit s j a b e = v at frame
  constructor <;> rw [frame]

theorem rangeKept_writeRange : RangeKept s (s.writeRange j a b e) := by
  have kept := rangeKept_rangeSplit s j a b e
  have frame := writeRange_frame s j a b e
  generalize rangeSplit s j a b e = v at frame kept
  generalize s.writeRange j a b e = w at frame
  obtain ⟨jobs, takes, ready, links, notices, cueFree⟩ := kept
  rw [frame]
  exact ⟨jobs, takes, ready, links, notices, cueFree⟩

/-- The parts a range writes, segment by segment. -/
theorem seg_writeRange_of_within {i p : Nat} {g : SegBody} (again : ∀ b, e.write (e.write b) = e.write b)
    (mem : (i, g, p) ∈ withStarts 0 ((rangeSplit s j a b e).jobSegs j)) (low : a ≤ p) (high : p + g.count ≤ b) :
    (s.writeRange j a b e).seg i =
      { (rangeSplit s j a b e).seg i with body := ((rangeSplit s j a b e).seg i).body.map e.write } :=
  (seg_writeRange again s j a b i).1 ⟨g, mem_segsWithin.2 ⟨p, mem, low, high⟩⟩

theorem seg_writeRange_of_outside {i : Nat} (again : ∀ b, e.write (e.write b) = e.write b)
    (outside : ∀ g p, (i, g, p) ∈ withStarts 0 ((rangeSplit s j a b e).jobSegs j) → ¬(a ≤ p ∧ p + g.count ≤ b)) :
    (s.writeRange j a b e).seg i = (rangeSplit s j a b e).seg i := by
  refine (seg_writeRange again s j a b i).2 fun g mem => ?_
  obtain ⟨p, mem, low, high⟩ := mem_segsWithin.1 mem
  exact outside g p mem ⟨low, high⟩

/-- A range that is the whole of a job of one segment is written without a split. -/
theorem seg_writeRange_of_whole {i : Nat} {g : SegBody} (again : ∀ b, e.write (e.write b) = e.write b)
    (whole : s.jobSegs j = [(i, g)]) (length : b = g.count) (some : 0 < b) :
    (s.writeRange j 0 b e).seg i = { s.seg i with body := .some (e.write g) } ∧
      ∀ k, k ≠ i → (s.writeRange j 0 b e).seg k = s.seg k := by
  have same := rangeSplit_of_whole e whole length some
  have within := segsWithin_of_whole whole length
  have written (k : Nat) := seg_writeRange again s j 0 b k
  rw [same, within] at written
  have body : (s.seg i).body = .some g := (head_of_segsFrom whole).1
  refine ⟨?_, fun k ne => (written k).2 fun h mem => ne ?_⟩
  · rw [(written i).1 ⟨g, List.mem_cons_self⟩, body]
    rfl
  · exact congrArg Prod.fst (List.mem_singleton.1 mem)

end Split

/-! ### SEAL RANGE -/

/-- The state in which SEAL is written and the extents of the sealed segments are tainted (R45, R28). -/
def rangeSealed (s : State) (j a b c : Nat) : State :=
  if c = 0 then s.writeRange j a b (sealEdit c)
  else ((s.writeRange j a b (sealEdit c)).segsWithin j a b).foldl (fun t x => t.taintExt x.2.extent)
    (s.writeRange j a b (sealEdit c))

theorem sealedRange_eq (s : State) (r : Ref) (a b c : Nat) :
    sealedRange s r a b c = done ((List.range 16).foldl (withdrawWaitingRead r) (rangeSealed s r.idx a b c)) := rfl

theorem rangeSealed_frame (s : State) (j a b c : Nat) : rangeSealed s j a b c =
    { rangeSplit s j a b (sealEdit c) with
      segs := (s.writeRange j a b (sealEdit c)).segs, exts := (rangeSealed s j a b c).exts } := by
  have written := writeRange_frame s j a b (sealEdit c)
  unfold rangeSealed
  generalize s.writeRange j a b (sealEdit c) = w at written
  split
  · rw [written]
  · rw [foldl_taint_frame, written]

/-- Before the taint, a range written leaves the segments as they are up to their SEAL parts. -/
theorem unsealed_writeRange (s : State) (j a b c i : Nat) :
    ((s.writeRange j a b (sealEdit c)).seg i).body.map SegBody.unsealed =
      ((rangeSplit s j a b (sealEdit c)).seg i).body.map SegBody.unsealed := by
  obtain ⟨inside, outside⟩ := seg_writeRange (sealEdit_write_write c) s j a b i
  by_cases within : ∃ g, (i, g) ∈ (rangeSplit s j a b (sealEdit c)).segsWithin j a b
  · rw [inside within]
    exact Option.map_map _ _ _
  · rw [outside (not_exists.1 within)]

theorem ext_rangeSealed (s : State) (j a b c x : Nat) :
    (rangeSealed s j a b c).ext x =
      if c ≠ 0 ∧ ∃ y ∈ (rangeSplit s j a b (sealEdit c)).segsWithin j a b, y.2.extent = x then
        { (rangeSplit s j a b (sealEdit c)).ext x with taint := true }
      else (rangeSplit s j a b (sealEdit c)).ext x := by
  have written := writeRange_frame s j a b (sealEdit c)
  have body := unsealed_writeRange s j a b c
  unfold rangeSealed
  generalize s.writeRange j a b (sealEdit c) = w at written body
  generalize rangeSplit s j a b (sealEdit c) = v at written body
  have ext : w.ext x = v.ext x := (congrArg (fun u : State => u.ext x) written :)
  have job : (w.job j).segHead = (v.job j).segHead := (congrArg (fun u : State => (u.job j).segHead) written :)
  have same := exists_segsWithin_congr body job a b x
  by_cases clear : c = 0
  · rw [if_pos clear, if_neg (fun h => h.1 clear), ext]
  · rw [if_neg clear, ext_foldl_taint, ext]
    exact if_congr (same.trans (and_iff_right clear).symm) rfl rfl

theorem taint_of_sealed {s : State} {j a b c i p : Nat} {g : SegBody} (sealed_ : c ≠ 0)
    (mem : (i, g, p) ∈ withStarts 0 ((rangeSplit s j a b (sealEdit c)).jobSegs j)) (low : a ≤ p) (high : p + g.count ≤ b) :
    ((rangeSealed s j a b c).ext g.extent).taint = true := by
  rw [ext_rangeSealed, if_pos ⟨sealed_, (i, g), mem_segsWithin.2 ⟨p, mem, low, high⟩, rfl⟩]

theorem ext_rangeSealed_of_outside {s : State} {j a b c x : Nat}
    (outside : c = 0 ∨ ∀ i g p, (i, g, p) ∈ withStarts 0 ((rangeSplit s j a b (sealEdit c)).jobSegs j) → a ≤ p →
      p + g.count ≤ b → g.extent ≠ x) :
    (rangeSealed s j a b c).ext x = (rangeSplit s j a b (sealEdit c)).ext x := by
  rw [ext_rangeSealed, if_neg]
  rintro ⟨sealed_, ⟨i, g⟩, mem, extent⟩
  obtain ⟨p, mem, low, high⟩ := mem_segsWithin.1 mem
  rcases outside with clear | outside
  · exact sealed_ clear
  · exact outside i g p mem low high extent

/-! ### The streams and the claims of a sealed job -/

theorem Stream.reads_mapPoint (r : Ref) (f : Anchor → Anchor) (x : Stream) : (x.mapPoint f).Reads r ↔ x.Reads r := by
  cases x <;> simp [Stream.Reads, Stream.mapPoint]

theorem Stream.not_reads_iff (r : Ref) (x : Stream) :
    ¬x.Reads r ↔ (∀ p, x = .play p → p.job ≠ r) ∧ ∀ b, x = .readback b → b.job ≠ r := by
  simp [Stream.Reads, not_or]

/-- What the withdrawals of a sealed job's reads leave, after splits that moved the capture points. -/
theorem rechosen_of_anchorsMoved {s v w u : State} {r : Ref} (moved : AnchorsMoved s v)
    (chansWf : Table.wf ({} : Channel) s.chans = true) (chans : w.chans = v.chans) (waiting : w.waiting = s.waiting)
    (withdrawn : ReadsWithdrawn r w u (List.range 16)) :
    (∀ ch p, ch < 16 → (s.chan ch).stream = .play p → (u.chan ch).stream =
      .play (if p.job = r ∧ s.readWaiting ch = true then { p with read := none } else p)) ∧
    (∀ ch x, ch < 16 → (s.chan ch).stream = .readback x → ∃ ctx, (u.chan ch).stream =
      .readback { x with parked := ctx, read := if x.job = r ∧ s.readWaiting ch = true then none else x.read }) ∧
    ∀ c, c ∈ u.waiting ↔ c ∈ s.waiting ∧ ∀ ch, ch < 16 → c.use.chan? = some ch →
      (∀ p, (s.chan ch).stream = .play p → p.job ≠ r) ∧ ∀ x, (s.chan ch).stream = .readback x → x.job ≠ r := by
  obtain ⟨-, points⟩ := moved.chans chansWf
  have stream (ch : Nat) : ∃ f, (w.chan ch).stream = (s.chan ch).stream.mapPoint f := by
    obtain ⟨f, moved⟩ := points ch
    exact ⟨f, by rw [← moved, State.chan, State.chan, chans]⟩
  have waits (ch : Nat) : w.readWaiting ch = s.readWaiting ch := by
    rw [readWaiting, readWaiting, waiting]
  have left (ch : Nat) (inside : ch < 16) := withdrawn.streams ch (List.mem_range.2 inside)
  refine ⟨fun ch p inside play => ?_, fun ch x inside readback => ?_, fun c => ?_⟩
  · obtain ⟨f, moved⟩ := stream ch
    rw [left ch inside, moved, play, waits]
    rfl
  · obtain ⟨f, moved⟩ := stream ch
    rw [left ch inside, moved, readback, waits]
    exact ⟨_, rfl⟩
  · rw [withdrawn.waiting, waiting]
    refine and_congr_right fun _ => forall_congr' fun ch => ?_
    obtain ⟨f, moved⟩ := stream ch
    rw [moved, Stream.reads_mapPoint, Stream.not_reads_iff, List.mem_range]

/-! ### The statement -/

/-- The state that SEAL RANGE leaves (R45, R47, R154). -/
def rangeWithdrawn (s : State) (r : Ref) (a b c : Nat) : State :=
  (List.range 16).foldl (withdrawWaitingRead r) (rangeSealed s r.idx a b c)

theorem readsWithdrawn_rangeWithdrawn (s : State) (r : Ref) (a b c : Nat) :
    ReadsWithdrawn r (rangeSealed s r.idx a b c) (rangeWithdrawn s r a b c) (List.range 16) :=
  readsWithdrawn_foldl r List.nodup_range _

theorem rangeWithdrawn_frame (s : State) (r : Ref) (a b c : Nat) : rangeWithdrawn s r a b c =
    { rangeSplit s r.idx a b (sealEdit c) with
      segs := (s.writeRange r.idx a b (sealEdit c)).segs, exts := (rangeSealed s r.idx a b c).exts
      chans := (rangeWithdrawn s r a b c).chans, waiting := (rangeWithdrawn s r a b c).waiting
      reserved := (rangeWithdrawn s r a b c).reserved, port := (rangeWithdrawn s r a b c).port } := by
  have withdrawn := (readsWithdrawn_rangeWithdrawn s r a b c).frame
  have written := rangeSealed_frame s r.idx a b c
  generalize rangeWithdrawn s r a b c = u at withdrawn
  generalize rangeSealed s r.idx a b c = w at written withdrawn
  rw [withdrawn, written]

theorem rangeKept_rangeWithdrawn (s : State) (r : Ref) (a b c : Nat) : RangeKept s (rangeWithdrawn s r a b c) := by
  have kept := rangeKept_rangeSplit s r.idx a b (sealEdit c)
  have frame := rangeWithdrawn_frame s r a b c
  generalize rangeSplit s r.idx a b (sealEdit c) = v at frame kept
  generalize rangeWithdrawn s r a b c = w at frame
  obtain ⟨jobs, takes, ready, links, notices, cueFree⟩ := kept
  rw [frame]
  exact ⟨jobs, takes, ready, links, notices, cueFree⟩

/-- What SEAL RANGE leaves as the splits, the writing and the taint left it. -/
theorem rangeWithdrawn_fields (s : State) (r : Ref) (a b c : Nat) :
    (rangeWithdrawn s r a b c).segFree = (rangeSplit s r.idx a b (sealEdit c)).segFree ∧
    (rangeWithdrawn s r a b c).cues = (rangeSplit s r.idx a b (sealEdit c)).cues ∧
    (∀ i, (rangeWithdrawn s r a b c).seg i = (s.writeRange r.idx a b (sealEdit c)).seg i) ∧
    ∀ x, (rangeWithdrawn s r a b c).ext x = (rangeSealed s r.idx a b c).ext x := by
  have frame := rangeWithdrawn_frame s r a b c
  generalize rangeWithdrawn s r a b c = w at frame
  generalize rangeSplit s r.idx a b (sealEdit c) = v at frame
  generalize s.writeRange r.idx a b (sealEdit c) = y at frame
  generalize rangeSealed s r.idx a b c = z at frame
  rw [frame]
  exact ⟨rfl, rfl, fun _ => rfl, fun _ => rfl⟩

/-- What the withdrawals of SEAL RANGE leave of the streams and of the claims. -/
theorem streams_rangeWithdrawn {s : State} (canon : Canonical s) (r : Ref) (a b c : Nat) :
    (∀ ch p, ch < 16 → (s.chan ch).stream = .play p → ((rangeWithdrawn s r a b c).chan ch).stream =
      .play (if p.job = r ∧ s.readWaiting ch = true then { p with read := none } else p)) ∧
    (∀ ch x, ch < 16 → (s.chan ch).stream = .readback x → ∃ ctx, ((rangeWithdrawn s r a b c).chan ch).stream =
      .readback { x with parked := ctx, read := if x.job = r ∧ s.readWaiting ch = true then none else x.read }) ∧
    ∀ y, y ∈ (rangeWithdrawn s r a b c).waiting ↔ y ∈ s.waiting ∧ ∀ ch, ch < 16 → y.use.chan? = some ch →
      (∀ p, (s.chan ch).stream = .play p → p.job ≠ r) ∧ ∀ x, (s.chan ch).stream = .readback x → x.job ≠ r := by
  obtain ⟨-, -, -, -, -, -, -, -, chans, -⟩ := canon
  have moved := anchorsMoved_rangeSplit s r.idx a b (sealEdit c)
  have split := rangeSplit_frame s r.idx a b (sealEdit c)
  have written := rangeSealed_frame s r.idx a b c
  have withdrawn := readsWithdrawn_rangeWithdrawn s r a b c
  generalize rangeWithdrawn s r a b c = u at withdrawn
  generalize rangeSealed s r.idx a b c = w at withdrawn written
  generalize rangeSplit s r.idx a b (sealEdit c) = v at moved split written
  exact rechosen_of_anchorsMoved moved chans (by rw [written]) (by rw [written, split]) withdrawn

theorem exec_sealRange_of_passing {r : Ref} {a b c : Nat} {s : State} {who : Party} {tag : Byte}
    (routed : s.routed .console (.sealRange r a b c) = some (who, tag)) (known : c ≤ 3)
    (passes : firstFailing (rangeChecks s r a b (sealEdit c)) = none) :
    exec (.sealRange r a b c) s =
      .next ((rangeWithdrawn s r a b c).reply .console (.sealRange r a b c) tag .done {}) := by
  rw [exec_sealRange]
  refine serve_passing routed rfl ?_ (sealedRange_eq s r a b c)
  rw [firstFailing_cons, if_neg (by simpa using known), passes]

theorem exec_paceRange_of_passing {r : Ref} {a b : Nat} {x : Option Nat} {s : State} {who : Party} {tag : Byte}
    (routed : s.routed .console (.paceRange r a b x) = some (who, tag)) (within : ∀ y, x = some y → 32 ≤ y ∧ y ≤ 128)
    (passes : firstFailing (rangeChecks s r a b (paceEdit x)) = none) :
    exec (.paceRange r a b x) s =
      .next ((s.writeRange r.idx a b (paceEdit x)).reply .console (.paceRange r a b x) tag .done {}) := by
  rw [exec_paceRange]
  refine serve_passing routed rfl ?_ rfl
  rw [firstFailing_cons, if_neg (by rw [paceOut_eq_false within]; exact Bool.false_ne_true), passes]

/-- A capture point moved by a split (R31). -/
theorem stream_splitSeg_of_capture {s : State} (canon : Canonical s) {i : Nat} {g : SegBody}
    (body : (s.seg i).body = some g) (k ch : Nat) {c : Capture} (capture : (s.chan ch).stream = .capture c) :
    ((s.splitSeg i k).chan ch).stream =
      .capture { c with ctx := { c.ctx with point := splitAnchor i k (splitRef s) c.ctx.point } } := by
  obtain ⟨-, -, -, -, -, -, -, -, chans, -⟩ := canon
  rw [State.chan, chans_splitSeg body]
  exact (congrArg Channel.stream (chan_mapPoints chans _ ch)).trans (by rw [capture]; rfl)

/-- A cue's anchor moved by a split (R31). -/
theorem cueBody_splitSeg {s : State} (canon : Canonical s) {i : Nat} {g : SegBody} (body : (s.seg i).body = some g)
    (k m : Nat) : ((s.splitSeg i k).cue m).body =
      (s.cue m).body.map fun b => { b with anchor := splitAnchor i k (splitRef s) b.anchor } := by
  obtain ⟨-, -, -, -, cues, -⟩ := canon
  rw [State.cue, cues_splitSeg body]
  exact congrArg Cue.body (cue_mapCueAnchors cues _ m)

/-- Settles O27: the parts that SEAL RANGE and PACE RANGE write, the reads they withdraw, where a split is made, and what a
split changes. -/
theorem rangesWriteParts : Obligations.RangesWriteParts := by
  unfold Obligations.RangesWriteParts
  refine ⟨fun r a b c s who tag routed current active free quiet known some inside fresh room => ?_,
    fun r a b x s who tag routed current active free quiet within some inside fresh room => ?_, splitIf_eq,
    fun s i k g n canon body _ _ at_ => ?_⟩
  · have passes := firstFailing_rangeChecks current active free quiet some inside fresh room
    have moved := anchorsMoved_rangeSplit s r.idx a b (sealEdit c)
    have again := sealEdit_write_write c
    obtain ⟨jobs, takes, ready, links, notices, cueFree⟩ := rangeKept_rangeWithdrawn s r a b c
    obtain ⟨segFree, cues, seg, ext⟩ := rangeWithdrawn_fields s r a b c
    refine ⟨_, rangeSplit s r.idx a b (sealEdit c), exec_sealRange_of_passing routed known passes, rfl, jobs, takes, ready,
      links, notices, cueFree, segFree, cues, fun i g p mem low high => ⟨?_, fun sealed_ => ?_⟩, fun i outside => ?_,
      fun x outside => ?_, fun canon => ⟨fun i => ?_, streams_rangeWithdrawn canon r a b c⟩,
      fun i g whole start length => ?_⟩
    · exact (seg i).trans (seg_writeRange_of_within s r.idx a b (sealEdit c) again mem low high)
    · rw [ext]
      exact taint_of_sealed sealed_ mem low high
    · exact (seg i).trans (seg_writeRange_of_outside s r.idx a b (sealEdit c) again outside)
    · rw [ext]
      exact ext_rangeSealed_of_outside outside
    · obtain ⟨-, -, -, -, wf, -⟩ := canon
      rw [State.cue, cues]
      exact (moved.cues wf).2 i
    · subst start
      obtain ⟨here, others⟩ := seg_writeRange_of_whole s r.idx b (sealEdit c) again whole length some
      refine ⟨(seg i).trans here, fun k ne => (seg k).trans (others k ne), fun sealed_ => ?_⟩
      have same := rangeSplit_of_whole (sealEdit c) whole length some
      rw [ext, ext_rangeSealed, same, segsWithin_of_whole whole length, if_pos ⟨sealed_, (i, g), List.mem_cons_self, rfl⟩]
  · have passes := firstFailing_rangeChecks current active free quiet some inside fresh room
    have moved := anchorsMoved_rangeSplit s r.idx a b (paceEdit x)
    have frame := writeRange_frame s r.idx a b (paceEdit x)
    have again := paceEdit_write_write x
    obtain ⟨jobs, takes, ready, links, notices, cueFree⟩ := rangeKept_writeRange s r.idx a b (paceEdit x)
    refine ⟨_, rangeSplit s r.idx a b (paceEdit x), exec_paceRange_of_passing routed within passes, rfl, jobs, takes, ready,
      links, notices, cueFree, frame,
      fun i g p mem low high => seg_writeRange_of_within s r.idx a b (paceEdit x) again mem low high,
      fun i outside => seg_writeRange_of_outside s r.idx a b (paceEdit x) again outside, fun canon i => ?_,
      fun i g whole start length => ?_⟩
    · obtain ⟨-, -, -, -, wf, -⟩ := canon
      have cues : (s.writeRange r.idx a b (paceEdit x)).cues = (rangeSplit s r.idx a b (paceEdit x)).cues :=
        (congrArg State.cues frame :)
      rw [State.cue, cues]
      exact (moved.cues wf).2 i
    · subst start
      obtain ⟨here, others⟩ := seg_writeRange_of_whole s r.idx b (paceEdit x) again whole length some
      have same := rangeSplit_of_whole (paceEdit x) whole length some
      have exts : (s.writeRange r.idx 0 b (paceEdit x)).exts = (rangeSplit s r.idx 0 b (paceEdit x)).exts :=
        (congrArg State.exts frame :)
      exact ⟨here, others, exts.trans (congrArg State.exts same)⟩
  · subst at_
    obtain ⟨⟨x, head⟩, ⟨y, tail⟩, others, segFree, ext, exts⟩ := splitSeg_facts canon body k
    have frame := splitSeg_frame s i k
    have points (ch : Nat) {c : Capture} (capture : (s.chan ch).stream = .capture c) :=
      stream_splitSeg_of_capture canon body k ch capture
    have cues := cueBody_splitSeg canon body k
    simp only [splitAnchor_eq] at points cues
    exact ⟨_, x, y, rfl, head, tail, others, segFree, ext, exts, cues, fun ch c capture => points ch capture,
      (congrArg State.jobs frame :), (congrArg State.takes frame :), (congrArg State.ready frame :),
      (congrArg State.links frame :), (congrArg State.waiting frame :)⟩

end Sys2Proof.Machine
end

section
/-! ## Station messages

Every request reads back from its bytes (section 12.3), the judgement of an envelope (R205), and what arrives at a link or at
the console port (R186 to R188, R195). -/

set_option Elab.async false

namespace Sys2Proof.Machine
open State

/-! ### A request reads back from its bytes -/

/-- Optional parts read back when each part reads back from its presence bit. -/
theorem Reads.partsOf {α : Type} {width parts : Nat} {l : List (Option (List Byte))} {f : Nat → Reader α} {x : α}
    (len : l.length = parts) (room : 2 ^ parts ≤ 256 ^ width)
    (each : ∀ w, (∀ i o, l[i]? = some o → w.testBit i = o.isSome) → Reads (f w) (l.map fun o => o.getD []).flatten x) :
    Reads (Reader.presence width parts >>= f) (partsBytes width l) x := by
  have inside := presence_lt l
  rw [len] at inside
  rw [parts_eq]
  exact .bind (.presence width parts _ (inside.trans_le room) inside) (each _ (presence_bit l))

/-- The operands of SET JOB ATTRIBUTES read back. -/
theorem Reads.attributes (r : Ref) (a : JobAttrs) (fits : a.fits = true) :
    Reads (do
      let w ← Reader.presence 1 4
      return Request.setJobAttributes r
        { docket := ← Reader.part w 0 (Reader.bits 4 32), cls := ← Reader.part w 1 (Reader.num 1)
          due := ← Reader.part w 2 (Reader.bits 2 16), follow := ← Reader.part w 3 (Reader.num 1) })
      (partsBytes 1 [a.docket.map fun d => toBytes 4 d.toNat, a.cls.map (toBytes 1),
        a.due.map fun u => toBytes 2 u.toNat, a.follow.map (toBytes 1)]) (.setJobAttributes r a) := by
  obtain ⟨cls, follow⟩ := Bool.and_eq_true_iff.1 fits
  refine .partsOf rfl (by decide) fun w present => ?_
  exact .bind (.partOpt _ _ ((present 0 _ rfl).trans Option.isSome_map) fun x _ => .bits 4 32 x (by decide)) <|
    .bind (.partOpt _ _ ((present 1 _ rfl).trans Option.isSome_map) (getFits1 cls)) <|
    .bind (.partOpt _ _ ((present 2 _ rfl).trans Option.isSome_map) fun x _ => .bits 2 16 x (by decide)) <|
    .bind (.partOpt _ _ ((present 3 _ rfl).trans Option.isSome_map) (getFits1 follow)) (.pure _)

/-- The fields of SET PROFILE read back. -/
theorem Reads.profileFields (p t : Nat) (f : ProfileFields) (fits : f.fits = true) :
    Reads (do
      let w ← Reader.presence 1 4
      return Request.setProfile p t
        { rate := ← Reader.part w 0 (Reader.num 1), backstep := ← Reader.part w 1 (Reader.num 1)
          sealAct := ← Reader.part w 2 (Reader.num 1), pace := ← Reader.part w 3 (Reader.num 1) })
      (partsBytes 1 [f.rate.map (toBytes 1), f.backstep.map (toBytes 1), f.sealAct.map (toBytes 1), f.pace.map (toBytes 1)])
      (.setProfile p t f) := by
  simp only [ProfileFields.fits, Bool.and_eq_true] at fits
  obtain ⟨⟨⟨rate, backstep⟩, sealAct⟩, pace⟩ := fits
  refine .partsOf rfl (by decide) fun w present => ?_
  exact .bind (.partOpt _ _ ((present 0 _ rfl).trans Option.isSome_map) (getFits1 rate)) <|
    .bind (.partOpt _ _ ((present 1 _ rfl).trans Option.isSome_map) (getFits1 backstep)) <|
    .bind (.partOpt _ _ ((present 2 _ rfl).trans Option.isSome_map) (getFits1 sealAct)) <|
    .bind (.partOpt _ _ ((present 3 _ rfl).trans Option.isSome_map) (getFits1 pace)) (.pure _)

/-- The enables of CAPTURE SETUP share a byte. -/
theorem Reads.enables (a b : Nat) (r c n : Bool) :
    Reads (do
      let w ← Reader.num 1
      return Request.captureSetup a b (w.testBit 0) (w.testBit 1) (w.testBit 2))
      (toBytes 1 (bit r + 2 * bit c + 4 * bit n)) (.captureSetup a b r c n) := by
  have word : ∀ r c n : Bool, bit r + 2 * bit c + 4 * bit n < 256 ∧ (bit r + 2 * bit c + 4 * bit n).testBit 0 = r ∧
      (bit r + 2 * bit c + 4 * bit n).testBit 1 = c ∧ (bit r + 2 * bit c + 4 * bit n).testBit 2 = n := by decide
  obtain ⟨room, reload, chain, notify⟩ := word r c n
  refine .last (.num 1 _ room) ?_
  rw [reload, chain, notify]
  exact .pure _

/-- A capture mode reads back. -/
theorem Reads.captureMode (m : ModeRequest) (fits : m.fits = true) :
    Reads (Reader.request console 64) (operandBytes (.setCaptureMode m)) (.setCaptureMode m) := by
  cases m with
  | append => exact .last (.oneOf rfl (by decide) (.pure _)) (.pure _)
  | insert p => exact .last (.oneOf rfl (by decide) (.last (.num 3 p (fits3_lt fits)) (.pure _))) (.pure _)
  | overwrite p => exact .last (.oneOf rfl (by decide) (.last (.num 3 p (fits3_lt fits)) (.pure _))) (.pure _)

/-- The rate of PACE RANGE, or CLEAR, reads back. -/
theorem Reads.pace (r : Ref) (a b : Nat) (x : Option Nat) (fits : (Request.paceRange r a b x).wf = true) (console : Bool) :
    Reads (Reader.request console 18) (operandBytes (.paceRange r a b x)) (.paceRange r a b x) := by
  simp only [Request.wf, Bool.and_eq_true] at fits
  obtain ⟨⟨⟨ref, first⟩, last⟩, rate⟩ := fits
  cases x with
  | none =>
    simp only [operandBytes, List.append_assoc]
    exact .bind (.ref r ref) (.bind (.num 3 a (fits3_lt first)) (.bind (.num 3 b (fits3_lt last))
      (.last (.oneOf (a := []) rfl (by decide) (.pure _)) (.pure _))))
  | some y =>
    simp only [operandBytes, List.append_assoc]
    exact .bind (.ref r ref) (.bind (.num 3 a (fits3_lt first)) (.bind (.num 3 b (fits3_lt last))
      (.last (.oneOf rfl (by decide) (.map _ (.num 1 y (fits1_lt rate)))) (.pure _))))

/-- The role of CONFIGURE STATION reads back with the operands the role has. -/
theorem Reads.role (l r p c : Nat) (e : Byte) (fits : (Request.configureStation l r p c e).wf = true)
    (vacant : r = 0 → p = 0 ∧ c = 0 ∧ e = 0) (reporter : r = 1 → c = 0 ∧ e = 0) (console : Bool) :
    Reads (Reader.request console 96) (operandBytes (.configureStation l r p c e)) (.configureStation l r p c e) := by
  simp only [Request.wf, Bool.and_eq_true, decide_eq_true_eq] at fits
  obtain ⟨⟨⟨link, known⟩, person⟩, clearance⟩ := fits
  simp only [operandBytes, List.append_assoc]
  obtain rfl | rfl | rfl : r = 0 ∨ r = 1 ∨ r = 2 := by omega
  · obtain ⟨rfl, rfl, rfl⟩ := vacant rfl
    exact .bind (.num 1 l (fits1_lt link)) (.oneOf rfl (by decide) (.pure _))
  · obtain ⟨rfl, rfl⟩ := reporter rfl
    exact .bind (.num 1 l (fits1_lt link)) (.oneOf rfl (by decide) (.last (.num 1 p (fits1_lt person)) (.pure _)))
  · refine .bind (.num 1 l (fits1_lt link)) (.oneOf rfl (by decide) ?_)
    exact .bind (.num 1 p (fits1_lt person)) (.bind (.num 1 c (fits1_lt clearance)) (.last (.byte e) (.pure _)))

/-- Every request of its port's form reads back from its operands, with the operands its role has for CONFIGURE STATION
(section 12.3). -/
theorem reads_request {console : Bool} {r : Request} (form : fitsPort console r = true) (fits : r.wf = true)
    (role : ∀ l p c x, (r = .configureStation l 0 p c x → p = 0 ∧ c = 0 ∧ x = 0) ∧
      (r = .configureStation l 1 p c x → c = 0 ∧ x = 0)) :
    Reads (Reader.request console (requestKind r)) (operandBytes r) r := by
  cases r with
  | attach r | detach r | closeDictation r | readJob r | hold r | unhold r | release r | readSegment r | removeCue r
  | readCue r | lastCue r | returnTake r | revoke r | readTake r | loadTake r =>
    exact .last (.ref r fits) (.pure _)
  | retiringStatus | claimNext | heldTakes | format | readPool | record | pause | readbackEnd | play | halt | returnPlay
  | readNotice | warmReset =>
    exact .pure _
  | sealMode n | pedalMask n | readLink n | exportStop n | acknowledgeNotice n => exact .last (.num 1 n (fits1_lt fits)) (.pure _)
  | queueEntry n | setPoolThreshold n | readExtent n => exact .last (.num 2 n (fits2_lt fits)) (.pure _)
  | rewind n | forward n => exact .last (.num 3 n (fits3_lt fits)) (.pure _)
  | bindChannel a b | setFrameTimeout a b | bulkRead a b =>
    obtain ⟨first, second⟩ := Bool.and_eq_true_iff.1 fits
    exact .bind (.num 1 a (fits1_lt first)) (.last (.num 1 b (fits1_lt second)) (.pure _))
  | readProfiles c | readChannel c =>
    exact .last (.consoleOnly console c _ (eq_of_beq form) (getFits1 fits)) (.pure _)
  | openJob d c u =>
    simp only [operandBytes, List.append_assoc]
    exact .bind (.bits 4 32 d (by decide)) (.bind (.num 1 c (fits1_lt fits)) (.last (.bits 2 16 u (by decide)) (.pure _)))
  | createJob n d c u f =>
    simp only [Request.wf, Bool.and_eq_true] at fits
    obtain ⟨⟨reporter, cls⟩, follow⟩ := fits
    simp only [operandBytes, List.append_assoc]
    exact .bind (.num 1 n (fits1_lt reporter)) (.bind (.bits 4 32 d (by decide)) (.bind (.num 1 c (fits1_lt cls))
      (.bind (.bits 2 16 u (by decide)) (.last (.num 1 f (fits1_lt follow)) (.pure _)))))
  | setJobAttributes r a =>
    obtain ⟨ref, attrs⟩ := Bool.and_eq_true_iff.1 fits
    exact .bind (.ref r ref) (.attributes r a attrs)
  | findJob n x m =>
    simp only [operandBytes, List.append_assoc]
    exact .bind (.num 2 n (fits2_lt fits)) (.bind (.key x) (.last (.key m) (.pure _)))
  | sealRange r a b c =>
    simp only [Request.wf, Bool.and_eq_true] at fits
    obtain ⟨⟨⟨ref, first⟩, last⟩, cls⟩ := fits
    simp only [operandBytes, List.append_assoc]
    exact .bind (.ref r ref) (.bind (.num 3 a (fits3_lt first)) (.bind (.num 3 b (fits3_lt last))
      (.last (.num 1 c (fits1_lt cls)) (.pure _))))
  | paceRange r a b x => exact .pace r a b x fits console
  | placeCue k l p =>
    obtain ⟨kind, place⟩ := Bool.and_eq_true_iff.1 fits
    simp only [operandBytes, List.append_assoc]
    exact .bind (.num 1 k (fits1_lt kind)) (.bind (.bits 2 16 l (by decide)) (.last (.placeOf p place) (.pure _)))
  | cueAt x => exact .last (.boundOf console x (eq_of_beq form) fits) (.pure _)
  | findCue x d p m t =>
    simp only [Request.wf, Bool.and_eq_true] at fits
    obtain ⟨⟨bound, dir⟩, start⟩ := fits
    simp only [operandBytes, List.append_assoc]
    refine .bind (.boundOf console x (eq_of_beq form) bound) (.bind (.num 1 d (fits1_lt dir))
      (.bind (.bits 3 20 p (by decide)) (.bind (.bits 3 20 m (by decide)) (.last (.opt t _ ?_) (.pure _)))))
    rintro y rfl
    exact .ref y start
  | assign r n =>
    obtain ⟨ref, typist⟩ := Bool.and_eq_true_iff.1 fits
    exact .bind (.ref r ref) (.last (.num 1 n (fits1_lt typist)) (.pure _))
  | rework r n =>
    obtain ⟨ref, typist⟩ := Bool.and_eq_true_iff.1 fits
    exact .bind (.ref r ref) (.last (.opt n _ (getFits1 typist)) (.pure _))
  | setBankMap a b c d =>
    simp only [Request.wf, Bool.and_eq_true] at fits
    obtain ⟨⟨⟨w0, w1⟩, w2⟩, w3⟩ := fits
    simp only [operandBytes, List.append_assoc]
    exact .bind (.window a w0) (.bind (.window b w1) (.bind (.window c w2) (.last (.window d w3) (.pure _))))
  | setBulkPriority a b c d e =>
    simp only [Request.wf, Bool.and_eq_true] at fits
    obtain ⟨⟨⟨⟨f0, f1⟩, f2⟩, f3⟩, f4⟩ := fits
    simp only [operandBytes, List.append_assoc]
    exact .bind (.num 1 a (fits1_lt f0)) (.bind (.num 1 b (fits1_lt f1)) (.bind (.num 1 c (fits1_lt f2))
      (.bind (.num 1 d (fits1_lt f3)) (.last (.num 1 e (fits1_lt f4)) (.pure _)))))
  | setCaptureMode m => exact .captureMode m fits
  | captureSetup a b r c n =>
    obtain ⟨remaining, base⟩ := Bool.and_eq_true_iff.1 fits
    simp only [operandBytes, List.append_assoc]
    exact .bind (.num 3 a (fits3_lt remaining)) (.bind (.num 3 b (fits3_lt base)) (.enables a b r c n))
  | readback l t => exact .bind (.bits 2 16 l (by decide)) (.last (.cueOrPosOf t fits) (.pure _))
  | jump t => exact .last (.cueOrPosOf t fits) (.pure _)
  | playSetup d => exact .last (.setup d fits) (.pure _)
  | setProfile p t f =>
    simp only [Request.wf, Bool.and_eq_true] at fits
    obtain ⟨⟨profile, timing⟩, fields⟩ := fits
    simp only [operandBytes, List.append_assoc]
    exact .bind (.num 1 p (fits1_lt profile)) (.bind (.num 1 t (fits1_lt timing)) (.profileFields p t f fields))
  | exportJob r a b c =>
    simp only [Request.wf, Bool.and_eq_true] at fits
    obtain ⟨⟨⟨ref, f0⟩, f1⟩, f2⟩ := fits
    simp only [operandBytes, List.append_assoc]
    exact .bind (.ref r ref) (.bind (.num 1 a (fits1_lt f0)) (.bind (.num 1 b (fits1_lt f1))
      (.last (.num 1 c (fits1_lt f2)) (.pure _))))
  | configureStation l r p c e =>
    refine .role l r p c e fits ?_ ?_ console
    · rintro rfl
      exact (role l p c e).1 rfl
    · rintro rfl
      exact (role l p c e).2 rfl

/-! ### The length of a request -/

theorem length_partsBytes_le {width n : Nat} {l : List (Option (List Byte))}
    (each : ∀ bytes, some bytes ∈ l → bytes.length ≤ n) : (partsBytes width l).length ≤ width + n * l.length := by
  have parts : (l.filterMap id).flatten.length ≤ n * l.length := by
    induction l with
    | nil => simp
    | cons o rest ih =>
      have later := ih fun bytes mem => each bytes (List.mem_cons_of_mem o mem)
      cases o with
      | none => simp only [List.filterMap_cons_none (f := id) rfl, List.length_cons]; linarith
      | some bytes =>
        have first := each bytes List.mem_cons_self
        simp only [List.filterMap_cons_some (f := id) rfl, List.flatten_cons, List.length_append, List.length_cons]
        linarith
  rw [partsBytes, List.length_append, toBytes_length]
  omega

@[simp] theorem length_refBytes (r : Ref) : (refBytes r).length = 3 := by
  simp [refBytes, toBytes_length]

@[simp] theorem length_keyBytes (k : JobKey) : (keyBytes k).length = 8 := by
  simp [keyBytes, toBytes_length]

@[simp] theorem length_windowBytes (w : WindowSpec) : (windowBytes w).length = 3 := by
  simp [windowBytes, toBytes_length]

theorem length_boundBytes_le (x : Option (Ref × Nat)) : (boundBytes x).length ≤ 6 := by
  cases x <;> simp [boundBytes, toBytes_length]

theorem length_cueOrPosBytes_le (x : CueOrPos) : (cueOrPosBytes x).length ≤ 4 := by
  cases x <;> simp [cueOrPosBytes, toBytes_length]

theorem length_placeBytes_le (p : Place) : (placeBytes p).length ≤ 7 := by
  cases p <;> simp [placeBytes, toBytes_length]

theorem length_optionalBytes_le {o : Option (List Byte)} {n : Nat} (small : ∀ bytes, o = some bytes → bytes.length ≤ n) :
    (optionalBytes o).length ≤ 1 + n := by
  refine (length_partsBytes_le (n := n) fun bytes mem => small bytes (List.mem_singleton.1 mem).symm).trans ?_
  simp

theorem length_playSetupBytes_le (d : PlaySetup) : (playSetupBytes d).length ≤ 56 := by
  refine length_partsBytes_le (n := 6) fun bytes mem => ?_
  simp only [List.mem_cons, List.not_mem_nil, or_false, @eq_comm _ (some bytes), Option.map_eq_some_iff] at mem
  rcases mem with ⟨x, -, rfl⟩ | ⟨x, -, rfl⟩ | ⟨x, -, rfl⟩ | ⟨x, -, rfl⟩ | ⟨x, -, rfl⟩ | ⟨x, -, rfl⟩ | ⟨x, -, rfl⟩ |
    ⟨x, -, rfl⟩ | ⟨x, -, rfl⟩ <;> simp [toBytes_length]

/-- A request is far shorter than the length field counts. -/
theorem length_operandBytes_le (r : Request) : (operandBytes r).length ≤ 60 := by
  cases r with
  | setJobAttributes r a =>
    have parts : (partsBytes 1 [a.docket.map fun d => toBytes 4 d.toNat, a.cls.map (toBytes 1),
        a.due.map fun u => toBytes 2 u.toNat, a.follow.map (toBytes 1)]).length ≤ 17 := by
      refine length_partsBytes_le (n := 4) fun bytes mem => ?_
      simp only [List.mem_cons, List.not_mem_nil, or_false, @eq_comm _ (some bytes), Option.map_eq_some_iff] at mem
      rcases mem with ⟨x, -, rfl⟩ | ⟨x, -, rfl⟩ | ⟨x, -, rfl⟩ | ⟨x, -, rfl⟩ <;> simp [toBytes_length]
    simp only [operandBytes, List.length_append, length_refBytes]
    omega
  | setProfile p t f =>
    have parts : (partsBytes 1 [f.rate.map (toBytes 1), f.backstep.map (toBytes 1), f.sealAct.map (toBytes 1),
        f.pace.map (toBytes 1)]).length ≤ 5 := by
      refine length_partsBytes_le (n := 1) fun bytes mem => ?_
      simp only [List.mem_cons, List.not_mem_nil, or_false, @eq_comm _ (some bytes), Option.map_eq_some_iff] at mem
      rcases mem with ⟨x, -, rfl⟩ | ⟨x, -, rfl⟩ | ⟨x, -, rfl⟩ | ⟨x, -, rfl⟩ <;> simp [toBytes_length]
    simp only [operandBytes, List.length_append, toBytes_length]
    omega
  | findCue x d p m t =>
    have bound := length_boundBytes_le x
    have start : (optionalBytes (t.map refBytes)).length ≤ 1 + 3 := length_optionalBytes_le fun bytes some_ => by
      obtain ⟨y, -, rfl⟩ := Option.map_eq_some_iff.1 some_
      exact (length_refBytes y).le
    simp only [operandBytes, List.length_append, toBytes_length]
    omega
  | rework r n =>
    have typist : (optionalBytes (n.map (toBytes 1))).length ≤ 1 + 1 := length_optionalBytes_le fun bytes some_ => by
      obtain ⟨y, -, rfl⟩ := Option.map_eq_some_iff.1 some_
      exact (toBytes_length 1 y).le
    simp only [operandBytes, List.length_append, length_refBytes]
    omega
  | paceRange r a b x => cases x <;> simp [operandBytes, toBytes_length]
  | setCaptureMode m => cases m <;> simp [operandBytes, toBytes_length]
  | readProfiles c | readChannel c => cases c <;> simp [operandBytes, toBytes_length]
  | cueAt x => exact (length_boundBytes_le x).trans (by decide)
  | placeCue k l p =>
    have place := length_placeBytes_le p
    simp only [operandBytes, List.length_append, toBytes_length]
    omega
  | readback l t =>
    have target := length_cueOrPosBytes_le t
    simp only [operandBytes, List.length_append, toBytes_length]
    omega
  | jump t => exact (length_cueOrPosBytes_le t).trans (by decide)
  | playSetup d => exact (length_playSetupBytes_le d).trans (by decide)
  | configureStation l r p c e =>
    simp only [operandBytes, List.length_append, toBytes_length]
    split
    · simp
    · split <;> simp [toBytes_length]
  | attach r | detach r | closeDictation r | readJob r | hold r | unhold r | release r | readSegment r | removeCue r
  | readCue r | lastCue r | returnTake r | revoke r | readTake r | loadTake r =>
    exact (length_refBytes r).trans_le (by decide)
  | retiringStatus | claimNext | heldTakes | format | readPool | record | pause | readbackEnd | play | halt | returnPlay
  | readNotice | warmReset =>
    exact Nat.zero_le 60
  | sealMode | pedalMask | readLink | exportStop | acknowledgeNotice | queueEntry | setPoolThreshold | readExtent | rewind
  | forward | bindChannel | setFrameTimeout | bulkRead | openJob | createJob | findJob | sealRange | assign | setBankMap
  | setBulkPriority | captureSetup | exportJob =>
    simp [operandBytes, toBytes_length]

/-! ### A kind that no request has -/

/-- A request of every kind. -/
def oneOfEachKind : List Request :=
  [.openJob 0 0 0, .createJob 0 0 0 0 0, .attach ⟨0, 0⟩, .detach ⟨0, 0⟩, .closeDictation ⟨0, 0⟩, .setJobAttributes ⟨0, 0⟩ {},
    .readJob ⟨0, 0⟩, .findJob 0 ⟨0, 0, 0, 0, 0⟩ ⟨0, 0, 0, 0, 0⟩, .hold ⟨0, 0⟩, .unhold ⟨0, 0⟩, .release ⟨0, 0⟩,
    .retiringStatus, .readSegment ⟨0, 0⟩, .sealRange ⟨0, 0⟩ 0 0 0, .paceRange ⟨0, 0⟩ 0 0 none, .placeCue 0 0 (.atChannel ⟨0, 0⟩),
    .removeCue ⟨0, 0⟩, .readCue ⟨0, 0⟩, .cueAt none, .lastCue ⟨0, 0⟩, .findCue none 0 0 0 none, .claimNext, .assign ⟨0, 0⟩ 0,
    .returnTake ⟨0, 0⟩, .revoke ⟨0, 0⟩, .rework ⟨0, 0⟩ none, .readTake ⟨0, 0⟩, .heldTakes, .queueEntry 0,
    .setBankMap ⟨0, 0, 0⟩ ⟨0, 0, 0⟩ ⟨0, 0, 0⟩ ⟨0, 0, 0⟩, .format, .setPoolThreshold 0, .setBulkPriority 0 0 0 0 0,
    .readExtent 0, .readPool, .setCaptureMode .append, .sealMode 0, .captureSetup 0 0 false false false, .record, .pause,
    .readback 0 (.pos 0), .readbackEnd, .play, .loadTake ⟨0, 0⟩, .halt, .rewind 0, .forward 0, .jump (.pos 0), .returnPlay,
    .playSetup {}, .setProfile 0 0 {}, .readProfiles none, .bindChannel 0 0, .setFrameTimeout 0 0, .readChannel none,
    .exportJob ⟨0, 0⟩ 0 0 0, .exportStop 0, .configureStation 0 0 0 0 0, .readLink 0, .pedalMask 0, .readNotice,
    .acknowledgeNotice 0, .bulkRead 0 0, .warmReset]

theorem kinds_oneOfEachKind : oneOfEachKind.map requestKind =
    [1, 2, 3, 4, 5, 6, 7, 8, 9, 10, 11, 12, 16, 17, 18, 24, 25, 26, 27, 28, 29, 32, 33, 34, 35, 36, 37, 38, 39, 48, 49, 50, 51,
      52, 53, 64, 65, 66, 67, 68, 69, 70, 72, 73, 74, 75, 76, 77, 78, 79, 80, 81, 88, 89, 90, 91, 92, 96, 97, 98, 104, 105, 106,
      107] := rfl

/-- A kind byte that no request has spells none. -/
theorem request_of_unknown {console : Bool} {k : Nat} (unknown : ∀ r, requestKind r ≠ k) (ops : List Byte) :
    Reader.request console k ops = none := by
  have unlisted : k ∉ oneOfEachKind.map requestKind := fun listed => by
    obtain ⟨r, -, kind⟩ := List.mem_map.1 listed
    exact unknown r kind
  clear unknown
  rw [kinds_oneOfEachKind] at unlisted
  simp only [List.mem_cons, List.not_mem_nil, or_false, not_or] at unlisted
  unfold Reader.request
  split
  case h_65 => rfl
  all_goals omega

theorem parseRequest_of_unknown {console : Bool} {k : Nat} (unknown : ∀ r, requestKind r ≠ k) (ops : List Byte) :
    parseRequest console k ops = none := by
  rw [parseRequest, request_of_unknown unknown]

/-! ### The judgement of an envelope (R205) -/

section Judgement
variable (console : Bool) {e : Envelope}

theorem judge_of_request (kind : e.kind.toNat = 2) :
    judge console e = if e.length.toNat = e.body.length then judgeRequest console e.body else judgeCut e.body :=
  if_pos kind

theorem judge_of_disagrees (kind : e.kind.toNat ≠ 2) (length : e.length.toNat ≠ e.body.length) : judge console e = .discard := by
  rw [judge, if_neg kind, if_pos length]

/-- An envelope that is no request, by its kind. -/
theorem judge_of_agrees (kind : e.kind.toNat ≠ 2) (length : e.length.toNat = e.body.length) :
    judge console e =
      if e.kind.toNat = 1 then judgeFrame e.body
      else if e.kind.toNat = 5 then (if e.body.length = 0 then .message .noticeAck else .discard)
      else if e.kind.toNat = 6 then judgePedal e.body
      else .discard := by
  rw [judge, if_neg kind, if_neg (not_not.2 length)]

theorem judgePedal_of_length {body : List Byte} (length : body.length ≠ 2) : judgePedal body = .discard := by
  unfold judgePedal
  split
  · exact absurd rfl length
  · rfl

theorem judgePedal_pair (c a : Byte) :
    judgePedal [c, a] =
      if c.toNat ∈ [1, 2, 3, 4] ∧ a.toNat ∈ [1, 2] then .message (.pedal c.toNat (decide (a.toNat = 1))) else .discard := by
  refine if_congr ?_ rfl rfl
  simp only [List.mem_cons, List.not_mem_nil, or_false]
  omega

theorem Inbound.frame_ne_request (data : Frame) (tag : Byte) (r : Request) : Inbound.frame data ≠ .request tag r := nofun

/-- A verdict that is no request and no answer MALFORMED. -/
def Verdict.Other (v : Verdict) : Prop := v = .discard ∨ ∃ m, v = .message m ∧ ∀ tag r, m ≠ .request tag r

theorem Verdict.other_ite {p : Prop} [Decidable p] {v w : Verdict} (first : v.Other) (second : w.Other) :
    (if p then v else w).Other := by
  split
  · exact first
  · exact second

theorem Verdict.other_discard : Verdict.discard.Other := .inl rfl

theorem Verdict.other_frame (data : Frame) : (Verdict.message (.frame data)).Other :=
  .inr ⟨.frame data, rfl, Inbound.frame_ne_request data⟩

theorem Verdict.other_noticeAck : (Verdict.message .noticeAck).Other := .inr ⟨.noticeAck, rfl, fun _ _ => Inbound.noConfusion⟩

theorem Verdict.other_pedal (c : Nat) (x : Bool) : (Verdict.message (.pedal c x)).Other := .inr ⟨.pedal c x, rfl, fun _ _ => Inbound.noConfusion⟩

theorem other_judgePedal (body : List Byte) : (judgePedal body).Other := by
  unfold judgePedal
  split
  · exact Verdict.other_ite (Verdict.other_pedal _ _) Verdict.other_discard
  · exact Verdict.other_discard

/-- Only an envelope of kind REQUEST spells a request or is answered MALFORMED. -/
theorem other_judge (kind : e.kind.toNat ≠ 2) : (judge console e).Other := by
  by_cases length : e.length.toNat = e.body.length
  · rw [judge_of_agrees console kind length]
    exact Verdict.other_ite (Verdict.other_ite (Verdict.other_frame _) Verdict.other_discard) <|
      Verdict.other_ite (Verdict.other_ite Verdict.other_noticeAck Verdict.other_discard) <|
      Verdict.other_ite (other_judgePedal e.body) Verdict.other_discard
  · rw [judge_of_disagrees console kind length]
    exact Verdict.other_discard

end Judgement

/-- The envelope of a request is judged to be that request. -/
theorem judge_requestEnvelope {console : Bool} {tag : Byte} {r : Request} (reads : Reads
    (Reader.request console (requestKind r)) (operandBytes r) r) :
    judge console (requestEnvelope tag r) = .message (.request tag r) := by
  have short := length_operandBytes_le r
  have byte : requestKind r < 256 := by cases r <;> simp [requestKind]
  have kind : toBytes 1 (requestKind r) = [BitVec.ofNat 8 (requestKind r)] := rfl
  have length : (requestEnvelope tag r).length.toNat = (requestEnvelope tag r).body.length := by
    simp only [requestEnvelope, List.length_append, toBytes_length, List.length_singleton, BitVec.toNat_ofNat]
    omega
  rw [judge_of_request console rfl, if_pos length]
  change (match parseRequest console (BitVec.ofNat 8 (requestKind r)).toNat (operandBytes r) with
    | some r => Verdict.message (.request tag r)
    | none => .malformed (BitVec.ofNat 8 (requestKind r)).toNat tag) = _
  rw [BitVec.toNat_ofNat, Nat.mod_eq_of_lt byte, reads.parse]

/-! ### The command that an envelope is -/

theorem envelopeCommand_of_message {p : Port} {e : Envelope} {m : Inbound} (judged : judge p.isConsole e = .message m) :
    envelopeCommand p e = messageCommand p m := by
  rw [envelopeCommand, judged]

theorem envelopeCommand_of_malformed {p : Port} {e : Envelope} {k : Nat} {t : Byte}
    (judged : judge p.isConsole e = .malformed k t) : envelopeCommand p e = some (.malformedMessage p e) := by
  rw [envelopeCommand, judged]

theorem envelopeCommand_of_discard {p : Port} {e : Envelope} (judged : judge p.isConsole e = .discard) :
    envelopeCommand p e = none := by
  rw [envelopeCommand, judged]

/-- The console port takes requests only (R195). -/
theorem messageCommand_console {m : Inbound} (other : ∀ tag r, m ≠ .request tag r) : messageCommand .console m = none := by
  cases m with
  | request tag r => exact absurd rfl (other tag r)
  | frame | noticeAck | pedal => rfl

theorem pedalCommand_eq (l : Fin 16) (c : Nat) (x : Bool) : pedalCommand l c x = (match c, x with
    | 1, true => .recordPress l
    | 1, false => .recordRelease l
    | 2, true => .playPress l
    | 2, false => .playRelease l
    | 3, true => .rewindPress l
    | 3, false => .shuttleRelease l .rewind
    | _, true => .forwardPress l
    | _, false => .shuttleRelease l .forward) := by
  by_cases record : c = 1
  · subst record
    cases x <;> rfl
  by_cases play : c = 2
  · subst play
    cases x <;> rfl
  by_cases rewind : c = 3
  · subst rewind
    cases x <;> rfl
  rw [pedalCommand, if_neg record, if_neg play, if_neg rewind]
  cases x <;> simp

/-! ### What arrives -/

theorem exec_inboundRequest (l : Fin 16) (tag : Byte) (r : Request) (s : State) :
    exec (.inboundRequest l tag r) s = .next (if s.hears l then s.takeInbound l tag r else s) := rfl

theorem exec_malformedMessage_station (l : Fin 16) (e : Envelope) (s : State) :
    exec (.malformedMessage (.station l) e) s =
      .next (if s.hears l then s.answerMalformed (.station l) (judge false e) else s) := rfl

theorem exec_malformedMessage_console (e : Envelope) (s : State) :
    exec (.malformedMessage .console e) s = .next (s.answerMalformed .console (judge true e)) := rfl

theorem hears_iff (s : State) (l : Nat) : s.hears l = true ↔ (s.link l).up = true ∧ (s.chan l).binding = .link := by
  simp [hears]

theorem hears_eq_false {s : State} {l : Nat} (deaf : (s.link l).up = false ∨ (s.chan l).binding = .bulk) :
    s.hears l = false := by
  rcases deaf with down | bulk
  · simp [hears, down]
  · simp [hears, bulk]

/-- A message handed to a link that hears. -/
theorem linkSetTo_handOver {s : State} {l : Nat} (hears : s.hears l = true) (m : LinkMsg) :
    LinkSetTo s (s.handOver l m) l { s.link l with unsent := (s.link l).unsent ++ [m] } := by
  rw [handOver, if_pos (show ((s.link l).up && decide ((s.chan l).binding = .link)) = true from hears), updLink_eq]
  exact linkSetTo_setLink s l _

/-- A request taken from a link that hears (R186). -/
theorem linkSetTo_takeInbound {s : State} {l : Nat} (hears : s.hears l = true) (tag : Byte) (r : Request) :
    LinkSetTo s (s.takeInbound l tag r) l (
      if fitsPort false r = false then
        { s.link l with unsent := (s.link l).unsent ++ [.reply (requestKind r) tag .malformed {}] }
      else if allowedTo r (s.link l).role = false then
        { s.link l with unsent := (s.link l).unsent ++ [.reply (requestKind r) tag .notPermitted {}] }
      else if (s.link l).outstanding ≠ none then
        { s.link l with unsent := (s.link l).unsent ++ [.reply (requestKind r) tag .busy {}] }
      else { s.link l with outstanding := some ⟨r, tag, (s.link l).role, (s.link l).person⟩ }) := by
  have refused (c : ReplyCode) := linkSetTo_handOver hears (.reply (requestKind r) tag c {})
  rw [takeInbound]
  cases fits : fitsPort false r with
  | false => exact refused .malformed
  | true =>
    cases allowed : allowedTo r (s.link l).role with
    | false => exact refused .notPermitted
    | true =>
      cases waiting : (s.link l).outstanding with
      | some o => exact refused .busy
      | none =>
        simp only [Bool.not_true, firstFailing_pass, Option.isSome_none, firstFailing_nil]
        rw [updLink_eq]
        exact linkSetTo_setLink s l _

/-- The kinds a station of a role may send, and one of no role none (R186, R188). -/
theorem allowedTo_iff (r : Request) : allowedTo r .vacant = false ∧
    (allowedTo r .reporter = true ↔ match r with
      | .openJob .. | .attach .. | .detach .. | .closeDictation .. | .readJob .. | .findJob .. | .release ..
      | .readSegment .. | .placeCue .. | .removeCue .. | .readCue .. | .cueAt .. | .lastCue .. | .findCue .. | .readTake ..
      | .setCaptureMode .. | .sealMode .. | .captureSetup .. | .record | .pause | .readback .. | .readbackEnd | .play
      | .readChannel .. | .setProfile .. | .readProfiles .. | .pedalMask .. => True
      | _ => False) ∧
    (allowedTo r .typist = true ↔ match r with
      | .readJob .. | .readSegment .. | .placeCue .. | .removeCue .. | .readCue .. | .cueAt .. | .lastCue .. | .findCue ..
      | .readTake .. | .claimNext | .returnTake .. | .heldTakes | .play | .pause | .loadTake .. | .halt | .rewind ..
      | .forward .. | .jump .. | .returnPlay | .playSetup .. | .readChannel .. | .setProfile .. | .readProfiles ..
      | .pedalMask .. => True
      | _ => False) := by
  refine ⟨rfl, ?_, ?_⟩ <;> cases r <;> simp [allowedTo, stationRoles]

/-! ### The statement -/

/-- The judgement of an envelope of kind REQUEST, by its body and its length field. -/
theorem judge_request_facts (console : Bool) {e : Envelope} (kind : e.kind.toNat = 2) :
    (∀ k t ops, e.length.toNat = e.body.length → e.body = k :: t :: ops → judge console e =
      match parseRequest console k.toNat ops with
      | some r => .message (.request t r)
      | none => .malformed k.toNat t) ∧
    (∀ k, e.length.toNat = e.body.length → e.body = [k] → judge console e = .malformed 0 0) ∧
    (∀ k t ops, e.length.toNat ≠ e.body.length → e.body = k :: t :: ops → judge console e = .malformed k.toNat t) ∧
    (∀ k, e.length.toNat ≠ e.body.length → e.body = [k] → judge console e = .discard) ∧
    (e.body = [] → judge console e = .discard) := by
  rw [judge_of_request console kind]
  refine ⟨fun k t ops length body => ?_, fun k length body => ?_, fun k t ops length body => ?_, fun k length body => ?_,
    fun body => ?_⟩
  · rw [if_pos length, body]
    rfl
  · rw [if_pos length, body]
    rfl
  · rw [if_neg length, body]
    rfl
  · rw [if_neg length, body]
    rfl
  · rw [body]
    exact ite_self _

/-- The judgement of an envelope that is no REQUEST, by its kind. -/
theorem judge_other_facts (console : Bool) {e : Envelope} (kind : e.kind.toNat ≠ 2) :
    (e.length.toNat ≠ e.body.length ∨ e.kind.toNat ∉ [1, 5, 6] → judge console e = .discard) ∧
    (e.length.toNat = e.body.length → e.kind.toNat = 1 →
      judge console e = if e.body.length = 66 then .message (.frame (frameOf (e.body.drop 2))) else .discard) ∧
    (e.length.toNat = e.body.length → e.kind.toNat = 5 →
      judge console e = if e.body = [] then .message .noticeAck else .discard) ∧
    (∀ c a, e.length.toNat = e.body.length → e.kind.toNat = 6 → e.body = [c, a] → judge console e =
      if c.toNat ∈ [1, 2, 3, 4] ∧ a.toNat ∈ [1, 2] then .message (.pedal c.toNat (decide (a.toNat = 1))) else .discard) ∧
    (e.kind.toNat = 6 → e.body.length ≠ 2 → judge console e = .discard) := by
  have agrees := judge_of_agrees console kind
  have disagrees := judge_of_disagrees console kind
  refine ⟨fun unfit => ?_, fun length frame => ?_, fun length ack => ?_, fun c a length pedal body => ?_,
    fun pedal body => ?_⟩
  · by_cases length : e.length.toNat = e.body.length
    · have unknown := unfit.resolve_left (not_not.2 length)
      simp only [List.mem_cons, List.not_mem_nil, or_false, not_or] at unknown
      obtain ⟨frame, ack, pedal⟩ := unknown
      rw [agrees length, if_neg frame, if_neg ack, if_neg pedal]
    · exact disagrees length
  · rw [agrees length, if_pos frame]
    rfl
  · rw [agrees length, if_neg (by omega), if_pos ack]
    exact if_congr List.length_eq_zero_iff rfl rfl
  · rw [agrees length, if_neg (by omega), if_neg (by omega), if_pos pedal, body, judgePedal_pair]
  · by_cases length : e.length.toNat = e.body.length
    · rw [agrees length, if_neg (by omega), if_neg (by omega), if_pos pedal, judgePedal_of_length body]
    · exact disagrees length

/-- Settles O55: what a link that hears does with a request and with an envelope answered MALFORMED, the role table, the
judgement of an envelope, and the command that an envelope is at its port. -/
theorem stationMessagesArrive : Obligations.StationMessagesArrive := by
  unfold Obligations.StationMessagesArrive
  refine ⟨fun l tag r s up bound => ?_, fun l e k t s judged up bound => ?_, fun e k t s judged => ?_,
    fun l tag r e s deaf => ?_, allowedTo_iff, fun console e kind => judge_request_facts console kind,
    fun console e kind => judge_other_facts console kind,
    fun console tag r form fits role => judge_requestEnvelope (reads_request form fits role),
    fun console k ops unknown => parseRequest_of_unknown unknown ops, fun e => ⟨fun tag r judged => ?_, fun k t judged => ?_,
      fun judged => ?_, fun kind => ?_, fun l => ⟨fun tag r judged => ?_, fun k t judged => ?_, fun data judged => ?_,
        fun judged => ?_, fun c x judged => ?_, fun judged => ?_⟩⟩⟩
  · have hears := (hears_iff s l).2 ⟨up, bound⟩
    refine ⟨s.takeInbound l tag r, ?_, linkSetTo_takeInbound hears tag r⟩
    rw [exec_inboundRequest, if_pos hears]
  · have hears := (hears_iff s l).2 ⟨up, bound⟩
    refine ⟨_, ?_, linkSetTo_handOver hears (.reply k t .malformed {})⟩
    rw [exec_malformedMessage_station, if_pos hears, judged]
    rfl
  · rw [exec_malformedMessage_console, judged]
    rfl
  · have hears := hears_eq_false deaf
    rw [exec_inboundRequest, exec_malformedMessage_station, hears]
    exact ⟨rfl, rfl⟩
  · exact envelopeCommand_of_message (p := .console) judged
  · exact envelopeCommand_of_malformed (p := .console) judged
  · exact envelopeCommand_of_discard (p := .console) judged
  · rcases other_judge true kind with discarded | ⟨m, judged, other⟩
    · exact envelopeCommand_of_discard (p := .console) discarded
    · exact (envelopeCommand_of_message (p := .console) judged).trans (messageCommand_console other)
  · exact envelopeCommand_of_message (p := .station l) judged
  · exact envelopeCommand_of_malformed (p := .station l) judged
  · exact envelopeCommand_of_message (p := .station l) judged
  · exact envelopeCommand_of_message (p := .station l) judged
  · exact (envelopeCommand_of_message (p := .station l) judged).trans (congrArg some (pedalCommand_eq l c x))
  · exact envelopeCommand_of_discard (p := .station l) judged

end Sys2Proof.Machine
end

section
/-! ## Play: reading the map, claiming a read, sending a frame

What the operations of play read of the map (R29, R30, R70), the claim of a frame (R138), and a frame sent with its advance
(R139, R158). -/

set_option Elab.async false

namespace Sys2Proof.Machine
open State

/-! ### Two states with the same map -/

/-- Two states hold the same jobs, segments, cues and takes. -/
structure SameMap (s u : State) : Prop where
  jobs : u.jobs = s.jobs
  segs : u.segs = s.segs
  cues : u.cues = s.cues
  takes : u.takes = s.takes

namespace SameMap
variable {s u v : State}

theorem refl (s : State) : SameMap s s := ⟨rfl, rfl, rfl, rfl⟩

theorem trans (h : SameMap s u) (k : SameMap u v) : SameMap s v :=
  ⟨k.jobs.trans h.jobs, k.segs.trans h.segs, k.cues.trans h.cues, k.takes.trans h.takes⟩

theorem of_channelSetTo {ch : Nat} {x : Channel} (h : ChannelSetTo s u ch x) : SameMap s u := by
  obtain ⟨-, -, frame⟩ := h
  exact ⟨by rw [frame], by rw [frame], by rw [frame], by rw [frame]⟩

variable (h : SameMap s u)
include h

theorem job (j : Nat) : u.job j = s.job j := by rw [State.job, State.job, h.jobs]

theorem seg (i : Nat) : u.seg i = s.seg i := by rw [State.seg, State.seg, h.segs]

theorem cue (i : Nat) : u.cue i = s.cue i := by rw [State.cue, State.cue, h.cues]

theorem take (i : Nat) : u.take i = s.take i := by rw [State.take, State.take, h.takes]

theorem segRef (i : Nat) : u.segRef i = s.segRef i := by rw [State.segRef, State.segRef, h.seg]

theorem cueRef (i : Nat) : u.cueRef i = s.cueRef i := by rw [State.cueRef, State.cueRef, h.cue]

theorem takeRef (i : Nat) : u.takeRef i = s.takeRef i := by rw [State.takeRef, State.takeRef, h.take]

theorem segsFrom (n : Nat) (r : Option Ref) : u.segsFrom n r = s.segsFrom n r := by
  induction n generalizing r with
  | zero => rfl
  | succ n ih =>
    cases r with
    | none => rfl
    | some r => simp only [State.segsFrom, h.seg, ih]

theorem jobSegs (j : Nat) : u.jobSegs j = s.jobSegs j := by
  rw [State.jobSegs, State.jobSegs, h.job, h.segsFrom]

theorem locate (j p : Nat) : u.locate j p = s.locate j p := by
  rw [State.locate, State.locate, h.jobSegs]

theorem segAt (j p : Nat) : u.segAt j p = s.segAt j p := by
  rw [State.segAt, State.segAt, h.locate]
  exact congrArg (fun f => (s.locate j p).map f) (funext fun x => h.segRef x.1)

theorem anchorPos (j : Nat) (a : Anchor) : u.anchorPos j a = s.anchorPos j a := by
  cases a with
  | frame r k => rw [State.anchorPos, State.anchorPos, h.jobSegs]
  | jobEnd => rw [State.anchorPos, State.anchorPos, h.job]

theorem cuePos (i : Nat) : u.cuePos i = s.cuePos i :=
  cuePos_congr (h.cue i) h.segs (fun k => by rw [h.job]) (fun k => by rw [h.job])

theorem takeStart (t : TakeBody) : u.takeStart t = s.takeStart t := takeStart_congr h.cuePos t

theorem takeEnd (t : TakeBody) : u.takeEnd t = s.takeEnd t := by
  unfold State.takeEnd
  cases t.next with
  | none => dsimp only; rw [h.job]
  | some n => simp only [h.take, h.takeStart, h.job]

theorem playFrames (p : Play) : u.playFrames p = s.playFrames p := by
  simp only [State.playFrames, State.takeFrames, h.take, h.takeStart, h.takeEnd]

theorem playStart (p : Play) : u.playStart p = s.playStart p := by
  simp only [State.playStart, h.take, h.takeStart]

theorem cueCurrent (r : Ref) : u.cueCurrent r = s.cueCurrent r := by
  rw [State.cueCurrent, State.cueCurrent, h.cue]

theorem takeState (r : Ref) : u.takeState r = s.takeState r := by
  rw [State.takeState, State.takeState, State.takeCurrent, State.takeCurrent, h.take]

theorem matchedPassed (start i : Nat) (r : Ref) : u.matchedPassed start i r = s.matchedPassed start i r := by
  rw [State.matchedPassed, State.matchedPassed, h.cueCurrent, h.cuePos]

theorem jobCues (j : Nat) : u.jobCues j = s.jobCues j := jobCues_congr h.cue (by rw [h.job])

theorem passage (j lo hi : Nat) (pattern mask : BitVec 20) (skip : Option Ref) :
    u.passage j lo hi pattern mask skip = s.passage j lo hi pattern mask skip := by
  simp only [State.passage, State.cuesIn, h.jobCues, h.anchorPos, h.cueRef]

end SameMap

/-- The profile for a frame depends on the map, the link and the mode with its window (R153). -/
theorem profileAt_congr {s u : State} (same : SameMap s u) {ch : Nat} (link : (u.link ch).clearance = (s.link ch).clearance)
    (mode : (u.chan ch).mode = (s.chan ch).mode) (first : (u.chan ch).winStart = (s.chan ch).winStart)
    (last : (u.chan ch).winEnd = (s.chan ch).winEnd) {p q : Play} (job : q.job = p.job) (take : q.take = p.take) (i : Nat) :
    u.profileAt ch q i = s.profileAt ch p i := by
  have frames : u.playFrames q = s.playFrames p := by
    rw [same.playFrames, State.playFrames, State.playFrames, take]
  have start : u.playStart q = s.playStart p := by
    rw [same.playStart, State.playStart, State.playStart, take]
  have above : u.overClearance ch = s.overClearance ch := funext fun b => by rw [overClearance, overClearance, link]
  unfold profileAt
  dsimp only
  rw [mode, first, last, frames, start, job, same.locate, above]

/-! ### The claim of a frame (R138) -/

/-- What the claim of a frame for a channel leaves: the channel with its read chosen, and the claim waiting or granted. -/
structure ReadClaimed (s u : State) (ch : Nat) (c : Claim) (x : Channel) : Prop where
  chan : u.chan ch = x
  chans : ∀ k, k ≠ ch → u.chan k = s.chan k
  busy : s.port ≠ none → u.port = s.port ∧ u.waiting = s.waiting ++ [c]
  free : s.port = none → s.waiting = [] → u.waiting = [] ∧ u.port = some { claim := c }
  frame : u = { s with chans := u.chans, waiting := u.waiting, port := u.port, served := u.served }

theorem readClaimed_makeClaim (s : State) {ch : Nat} (low : ch < 16) {c : Claim} (own : c.use = .play ch) :
    ReadClaimed s (s.makeClaim c) ch c (s.chan ch) := by
  have frame := makeClaim_frame s c
  refine ⟨makeClaim_chan s c ch, fun k _ => makeClaim_chan s c k, fun busy => ?_, fun free empty => ?_, ?_⟩
  · rw [makeClaim_of_busy busy]
    exact ⟨rfl, rfl⟩
  · rw [makeClaim_of_free free, empty]
    obtain ⟨waiting, port⟩ := grantNext_of_single (s := { s with waiting := [] ++ [c] }) (w := c) (ch := ch) rfl
      (by rw [own]; rfl) low
    refine ⟨waiting, port.trans ?_⟩
    rw [own]
    rfl
  · generalize s.makeClaim c = u at frame
    rw [frame]

theorem ReadClaimed.setChan {s u : State} {ch : Nat} {c : Claim} {x : Channel} (h : ReadClaimed s u ch c x) (y : Channel) :
    ReadClaimed s (u.setChan ch y) ch c y := by
  obtain ⟨-, chans, busy, free, frame⟩ := h
  refine ⟨chan_setChan u ch y, fun k ne => (chan_setChan_ne u _ _ _ ne).trans (chans k ne), busy, free, ?_⟩
  unfold State.setChan
  rw [frame]

theorem ReadClaimed.of_channelSetTo {s v u : State} {ch : Nat} {c : Claim} {x y : Channel} (set : ChannelSetTo s v ch y)
    (h : ReadClaimed v u ch c x) : ReadClaimed s u ch c x := by
  obtain ⟨-, others, before⟩ := set
  obtain ⟨chan, chans, busy, free, frame⟩ := h
  have port : v.port = s.port := by rw [before]
  have waiting : v.waiting = s.waiting := by rw [before]
  rw [port, waiting] at busy
  rw [port, waiting] at free
  refine ⟨chan, fun k ne => (chans k ne).trans (others k ne), busy, free, ?_⟩
  rw [frame, before]

/-- A read claimed for a typist play. -/
theorem readClaimed_updPlay {s v : State} {ch : Nat} {x : Channel} (set : ChannelSetTo s v ch x) (low : ch < 16) {p : Play}
    (play : x.stream = .play p) {c : Claim} (own : c.use = .play ch) (f : Play → Play) :
    ReadClaimed s ((v.makeClaim c).updPlay ch f) ch c { x with stream := .play (f p) } := by
  have claimed := readClaimed_makeClaim v low own
  have chan : (v.makeClaim c).chan ch = x := claimed.chan.trans set.1
  rw [updPlay_eq (by rw [chan]; exact play), chan]
  exact .of_channelSetTo set (claimed.setChan _)

/-- A read claimed for a read-back. -/
theorem readClaimed_updReadback {s v : State} {ch : Nat} {x : Channel} (set : ChannelSetTo s v ch x) (low : ch < 16)
    {r : Readback} (readback : x.stream = .readback r) {c : Claim} (own : c.use = .play ch) (f : Readback → Readback) :
    ReadClaimed s ((v.makeClaim c).updReadback ch f) ch c { x with stream := .readback (f r) } := by
  have claimed := readClaimed_makeClaim v low own
  have chan : (v.makeClaim c).chan ch = x := claimed.chan.trans set.1
  rw [updReadback_eq (by rw [chan]; exact readback), chan]
  exact .of_channelSetTo set (claimed.setChan _)

/-! ### A frame sent (R139) -/

/-- A play whose frame has been sent: no read outstanding, the count one lower, at its new position. -/
def Play.advanced (p : Play) (pos : Nat) (sent : Option Ref) : Play :=
  { p with read := none, remaining := p.remaining - 1, pos := pos, lastSeg := sent }

/-- A channel that crosses a boundary or does not (R158). -/
def Channel.crossedIf (x : Channel) (crosses : Bool) : Channel := if crosses then x.cross else x

theorem ChannelSetTo.setActive {s u : State} {ch : Nat} {x : Channel} (h : ChannelSetTo s u ch x) (prof : ProfId) :
    ChannelSetTo s (u.setActive ch prof) ch { x with active := prof } :=
  h.updChan _

theorem ChannelSetTo.crossOn {s u : State} {ch : Nat} {x : Channel} (h : ChannelSetTo s u ch x) :
    ChannelSetTo s (u.crossOn ch) ch x.cross :=
  h.updChan _

theorem ChannelSetTo.crossAt {s u : State} {ch : Nat} {x : Channel} (h : ChannelSetTo s u ch x) (j at_ : Nat) (below : Bool)
    (sent : Option Ref) :
    ChannelSetTo s (u.crossAt ch j at_ below sent) ch (x.crossedIf (decide (below = true ∧ u.segAt j at_ ≠ sent))) := by
  rw [State.crossAt, Channel.crossedIf]
  by_cases crosses : below = true ∧ u.segAt j at_ ≠ sent
  · rw [if_pos crosses, if_pos (decide_eq_true crosses)]
    exact h.crossOn
  · rw [if_neg crosses, if_neg (by rw [decide_eq_false crosses]; exact Bool.false_ne_true)]
    exact h

theorem Channel.cross_withStream (x : Channel) (y : Stream) : { x with stream := y }.cross = { x.cross with stream := y } := rfl

theorem Channel.crossedIf_withStream (x : Channel) (y : Stream) (crosses : Bool) :
    { x with stream := y }.crossedIf crosses = { x.crossedIf crosses with stream := y } := by
  cases crosses <;> rfl

/-- The matched cue that stays, at a take position (R140, R156). -/
def State.stillMatched (s : State) (start i : Nat) (m : Option Ref) : Option Ref :=
  match m with
  | some r => if s.matchedPassed start i r then none else some r
  | none => none

theorem ChannelSetTo.clearMatched {s u : State} {ch : Nat} {x : Channel} (h : ChannelSetTo s u ch x) {p : Play}
    (play : x.stream = .play p) (i : Nat) :
    ChannelSetTo s (u.clearMatched ch i) ch
      { x with stream := .play { p with matched := u.stillMatched (u.playStart p) i p.matched } } :=
  h.updPlay play _

section Sent
variable (s : State) (ch : Nat) (p : Play) (prof : ProfId) (pace : Option Nat)

/-- The position after a frame sent (R139, step 3). -/
def sentPos : Nat := min (p.pos + s.rateOf ch prof pace) (s.playFrames p * 64)

/-- The segment of the frame sent (R158). -/
def sentSeg : Option Ref := s.segAt p.job.idx (s.playStart p + p.pos / 64)

/-- The advance crosses a boundary (R139, step 4; R158). -/
def sentCrosses : Bool :=
  decide (sentPos s ch p prof pace / 64 < s.playFrames p ∧
    s.segAt p.job.idx (s.playStart p + sentPos s ch p prof pace / 64) ≠ sentSeg s p)

/-- The channel after steps 1 to 4 of R139. -/
def sentChan : Channel :=
  { (s.chan ch).crossedIf (sentCrosses s ch p prof pace) with
    stream := .play (p.advanced (sentPos s ch p prof pace) (sentSeg s p)) }

/-- The state after steps 1 to 4 of R139. -/
def frameCrossed (silent damaged : Bool) (data : Frame) : State :=
  ((s.handOver ch (.frame silent damaged data)).updPlay ch fun q =>
      { q with read := none, remaining := q.remaining - 1, pos := sentPos s ch p prof pace, lastSeg := sentSeg s p }).crossAt ch
    p.job.idx (s.playStart p + sentPos s ch p prof pace / 64) (decide (sentPos s ch p prof pace / 64 < s.playFrames p))
    (sentSeg s p)

end Sent

section Steps
variable {s : State} {ch : Nat} {p : Play} (play : (s.chan ch).stream = .play p)
include play

theorem frameCrossed_setTo (prof : ProfId) (pace : Option Nat) (silent damaged : Bool) (data : Frame) :
    ChannelSetTo (s.handOver ch (.frame silent damaged data)) (frameCrossed s ch p prof pace silent damaged data) ch
      (sentChan s ch p prof pace) := by
  have chan : (s.handOver ch (.frame silent damaged data)).chan ch = s.chan ch := handOver_chan s ch _ ch
  have sent : ChannelSetTo (s.handOver ch (.frame silent damaged data)) _ ch _ :=
    (ChannelSetTo.refl (s.handOver ch (.frame silent damaged data)) ch).updPlay (by rw [chan]; exact play)
      fun q => { q with read := none, remaining := q.remaining - 1, pos := sentPos s ch p prof pace, lastSeg := sentSeg s p }
  have same : SameMap s (s.handOver ch (.frame silent damaged data)) :=
    ⟨handOver_jobs .., handOver_segs .., handOver_cues .., handOver_takes ..⟩
  have crossed := sent.crossAt p.job.idx (s.playStart p + sentPos s ch p prof pace / 64)
    (decide (sentPos s ch p prof pace / 64 < s.playFrames p)) (sentSeg s p)
  rw [(same.trans (.of_channelSetTo sent)).segAt, chan, Channel.crossedIf_withStream] at crossed
  simp only [decide_eq_true_eq] at crossed
  exact crossed

theorem frameSent_eq (prof : ProfId) (pace : Option Nat) (silent damaged : Bool) (data : Frame) :
    s.frameSent ch prof pace silent damaged data =
      ((frameCrossed s ch p prof pace silent damaged data).passCues ch p (p.pos / 64) (sentPos s ch p prof pace / 64)).testEnd
        ch (decide (p.remaining = 1)) (s.playFrames p) := by
  rw [frameSent, playOf_eq play]
  rfl

end Steps

/-- MATCH is not looked for when no flag of it is set (R140). -/
theorem passCues_of_off {s : State} {ch : Nat} {m : Matrix} (matrix : (s.chan ch).matrix = m) (reload : m.matchReload = false)
    (chain : m.matchChain = false) (notify : m.matchNotify = false) (p : Play) (i k : Nat) :
    s.passCues ch p i k = s.clearMatched ch k := by
  have off : s.matchFound ch p i k = none := by
    rw [matchFound, matrix, reload, chain, notify]
    rfl
  rw [passCues, off]

/-- The test of END of a play that goes on (R139, step 6). -/
theorem testEnd_of_running {s : State} {ch : Nat} {q : Play} (play : (s.chan ch).stream = .play q) (running : q.run = .running)
    (hit : Bool) (n : Nat) : s.testEnd ch hit n =
      if hit = true then s.raiseEnd ch else if n * 64 ≤ q.pos then s.atTakeEnd ch else s := by
  rw [testEnd, playOf_eq play]
  exact if_neg (not_not.2 running)

theorem testEnd_of_stopped {s : State} {ch : Nat} {q : Play} (play : (s.chan ch).stream = .play q) (stopped : q.run ≠ .running)
    (hit : Bool) (n : Nat) : s.testEnd ch hit n = s := by
  rw [testEnd, playOf_eq play]
  exact if_pos stopped

theorem atTakeEnd_of_claimed {s : State} {ch : Nat} {q : Play} (play : (s.chan ch).stream = .play q)
    (claimed : s.takeState q.take = some .claimed) : s.atTakeEnd ch = s.raiseEnd ch := by
  rw [atTakeEnd, playOf_eq play]
  dsimp only
  rw [claimed]

theorem atTakeEnd_of_following {s : State} {ch : Nat} {q : Play} (play : (s.chan ch).stream = .play q)
    (following : s.takeState q.take = some .following) :
    s.atTakeEnd ch = s.updPlay ch fun p => { p with run := .followWait } := by
  rw [atTakeEnd, playOf_eq play]
  dsimp only
  rw [following]

theorem atTakeEnd_of_other {s : State} {ch : Nat} {q : Play} (play : (s.chan ch).stream = .play q)
    (notClaimed : s.takeState q.take ≠ some .claimed) (notFollowing : s.takeState q.take ≠ some .following) :
    s.atTakeEnd ch = s := by
  rw [atTakeEnd, playOf_eq play]
  dsimp only
  split
  · next claimed => exact absurd claimed notClaimed
  · next following => exact absurd following notFollowing
  all_goals rfl

/-! ### END with no chain made (R141) -/

/-- A channel after END with no chain made. -/
def Channel.afterEnd (x : Channel) (p : Play) (m : Matrix) : Channel :=
  { x with
    stream := .play (p.afterEnd m), chainAbort := x.chainAbort || m.endChain
    noContinuation := x.noContinuation || !m.endReload }

/-- The state of END with no chain made, before its notice. -/
def endWritten (s : State) (ch : Nat) (p : Play) (m : Matrix) : State :=
  (s.updPlay ch fun _ => p.afterEnd m).updChan ch fun c =>
    { c with chainAbort := c.chainAbort || m.endChain, noContinuation := c.noContinuation || !m.endReload }

theorem ChannelSetTo.endWritten {s u : State} {ch : Nat} {x : Channel} (h : ChannelSetTo s u ch x) {p : Play}
    (play : x.stream = .play p) (m : Matrix) : ChannelSetTo s (endWritten u ch p m) ch (x.afterEnd p m) :=
  (h.updPlay play fun _ => p.afterEnd m).updChan _

theorem raiseEnd_of_unfed {s : State} {ch : Nat} {p : Play} (play : (s.chan ch).stream = .play p) {m : Matrix}
    (matrix : (s.chan ch).matrix = m) (unfed : s.tryFeed ch m = none) :
    s.raiseEnd ch = if m.endChain = true ∨ m.endNotify = true then
        (endWritten s ch p m).placeNotice { chan := ch, cause := if m.endChain then .chainAbort else .ended
                                            action := if m.endReload then .reloaded else .stopped, job := p.job
                                            take := some p.take, pos := (p.afterEnd m).pos } true
      else endWritten s ch p m := by
  have kept : (p.afterEnd m).job = p.job ∧ (p.afterEnd m).take = p.take := by
    unfold Play.afterEnd
    split <;> exact ⟨rfl, rfl⟩
  obtain ⟨job, take⟩ := kept
  rw [raiseEnd, playOf_eq play]
  dsimp only
  rw [matrix, unfed]
  dsimp only [endUnchained]
  rw [← endWritten, playNotice, playNotice, job, take]
  cases m.endChain <;> cases m.endNotify <;> rfl

theorem tryFeed_of_unchained {s : State} {ch : Nat} {m : Matrix} (unchained : m.endChain = false) : s.tryFeed ch m = none := by
  rw [tryFeed, unchained]
  rfl

/-- END under a clear matrix pauses the play with NO-CONTINUATION and no notice (R141, step 3). -/
theorem raiseEnd_of_clear {s : State} {ch : Nat} {p : Play} (play : (s.chan ch).stream = .play p)
    (clear : (s.chan ch).matrix = {}) : s.raiseEnd ch = endWritten s ch p {} := by
  rw [raiseEnd_of_unfed play clear (tryFeed_of_unchained rfl)]
  rfl

/-! ### A frame sent under a clear matrix -/

theorem Channel.crossedIf_matrix (x : Channel) (crosses : Bool) : (x.crossedIf crosses).matrix = x.matrix := by
  cases crosses <;> rfl

theorem Channel.crossedIf_slot (x : Channel) (crosses : Bool) : (x.crossedIf crosses).slot = x.slot := by
  cases crosses <;> rfl

theorem Channel.crossedIf_noContinuation (x : Channel) (crosses : Bool) :
    (x.crossedIf crosses).noContinuation = x.noContinuation := by
  cases crosses <;> rfl

/-- The play after a frame sent, with its matched cue cleared once passed (R139, R140). -/
def Play.passedCue (s : State) (ch : Nat) (p : Play) (prof : ProfId) (pace : Option Nat) : Play :=
  { p.advanced (sentPos s ch p prof pace) (sentSeg s p) with
    matched := s.stillMatched (s.playStart p) (sentPos s ch p prof pace / 64) p.matched }

section Off
variable {s : State} {ch : Nat} {p : Play} (play : (s.chan ch).stream = .play p)
  (reload : (s.chan ch).matrix.matchReload = false) (chain : (s.chan ch).matrix.matchChain = false)
  (notify : (s.chan ch).matrix.matchNotify = false)
include play reload chain notify

/-- Steps 1 to 5 of R139 when MATCH is off. -/
theorem passed_setTo (prof : ProfId) (pace : Option Nat) (silent damaged : Bool) (data : Frame) :
    ChannelSetTo (s.handOver ch (.frame silent damaged data))
      ((frameCrossed s ch p prof pace silent damaged data).passCues ch p (p.pos / 64) (sentPos s ch p prof pace / 64)) ch
      { (s.chan ch).crossedIf (sentCrosses s ch p prof pace) with stream := .play (p.passedCue s ch prof pace) } := by
  have crossed := frameCrossed_setTo play prof pace silent damaged data
  have same : SameMap s (frameCrossed s ch p prof pace silent damaged data) :=
    (SameMap.mk (handOver_jobs ..) (handOver_segs ..) (handOver_cues ..) (handOver_takes ..)).trans (.of_channelSetTo crossed)
  generalize frameCrossed s ch p prof pace silent damaged data = w at crossed same
  have matrix : (w.chan ch).matrix = (s.chan ch).matrix := by
    rw [crossed.1]
    exact Channel.crossedIf_matrix _ _
  rw [passCues_of_off matrix reload chain notify]
  have cleared := crossed.clearMatched (p := p.advanced (sentPos s ch p prof pace) (sentSeg s p)) rfl
    (sentPos s ch p prof pace / 64)
  have still (m : Option Ref) (a i : Nat) : w.stillMatched a i m = s.stillMatched a i m := by
    cases m with
    | none => rfl
    | some r => simp only [stillMatched, same.matchedPassed]
  rw [still, same.playStart] at cleared
  exact cleared

end Off

/-- What a frame sent leaves of a play under a clear matrix, with more than one frame to go (R139, R141, R142). -/
structure PlayLeft (s : State) (ch : Nat) (p : Play) (prof : ProfId) (pace : Option Nat) (x : Channel) (q : Play) : Prop where
  stream : x.stream = .play q
  job : q.job = p.job
  take : q.take = p.take
  read : q.read = none
  pos : q.pos = sentPos s ch p prof pace
  remaining : q.remaining = p.remaining - 1
  stack : q.stack = p.stack
  lastSeg : q.lastSeg = sentSeg s p
  below : sentPos s ch p prof pace < s.playFrames p * 64 → q.run = .running ∧
    x = { (s.chan ch).crossedIf (sentCrosses s ch p prof pace) with stream := .play q }
  claimed : sentPos s ch p prof pace = s.playFrames p * 64 → s.takeState p.take = some .claimed →
    q.run = .paused ∧ x.noContinuation = true
  following : sentPos s ch p prof pace = s.playFrames p * 64 → s.takeState p.take = some .following → q.run = .followWait

theorem frameSent_of_clear {s : State} {ch : Nat} {p : Play} (play : (s.chan ch).stream = .play p) (running : p.run = .running)
    (clear : (s.chan ch).matrix = {}) (more : p.remaining ≠ 1) (prof : ProfId) (pace : Option Nat) (silent damaged : Bool)
    (data : Frame) : ∃ x q, ChannelSetTo (s.handOver ch (.frame silent damaged data))
      (s.frameSent ch prof pace silent damaged data) ch x ∧ PlayLeft s ch p prof pace x q := by
  have passed := passed_setTo play (by rw [clear]) (by rw [clear]) (by rw [clear]) prof pace silent damaged data
  have handed : SameMap s (s.handOver ch (.frame silent damaged data)) :=
    ⟨handOver_jobs .., handOver_segs .., handOver_cues .., handOver_takes ..⟩
  have same := handed.trans (.of_channelSetTo passed)
  rw [frameSent_eq play, decide_eq_false more]
  generalize (frameCrossed s ch p prof pace silent damaged data).passCues ch p (p.pos / 64)
    (sentPos s ch p prof pace / 64) = w at passed same
  have stream : (w.chan ch).stream = .play (p.passedCue s ch prof pace) := by rw [passed.1]
  have matrix : (w.chan ch).matrix = {} := by
    rw [passed.1]
    exact (Channel.crossedIf_matrix _ _).trans clear
  have state : w.takeState (p.passedCue s ch prof pace).take = s.takeState p.take := same.takeState p.take
  have within : sentPos s ch p prof pace ≤ s.playFrames p * 64 := Nat.min_le_right _ _
  rw [testEnd_of_running stream running, if_neg Bool.false_ne_true]
  by_cases ended : s.playFrames p * 64 ≤ (p.passedCue s ch prof pace).pos
  · have not_below : ¬sentPos s ch p prof pace < s.playFrames p * 64 := Nat.not_lt.2 ended
    rw [if_pos ended]
    by_cases claimed : s.takeState p.take = some .claimed
    · rw [atTakeEnd_of_claimed stream (state.trans claimed), raiseEnd_of_clear stream matrix]
      exact ⟨_, _, passed.endWritten rfl {}, rfl, rfl, rfl, rfl, rfl, rfl, rfl, rfl, fun below => absurd below not_below,
        fun _ _ => ⟨rfl, Bool.or_true _⟩, fun _ other => nomatch claimed.symm.trans other⟩
    by_cases following : s.takeState p.take = some .following
    · rw [atTakeEnd_of_following stream (state.trans following)]
      exact ⟨_, _, passed.updPlay rfl fun p => { p with run := .followWait }, rfl, rfl, rfl, rfl, rfl, rfl, rfl, rfl,
        fun below => absurd below not_below, fun _ other => absurd other claimed, fun _ _ => rfl⟩
    · rw [atTakeEnd_of_other stream (by rw [state]; exact claimed) (by rw [state]; exact following)]
      exact ⟨_, _, passed, rfl, rfl, rfl, rfl, rfl, rfl, rfl, rfl, fun below => absurd below not_below,
        fun _ other => absurd other claimed, fun _ other => absurd other following⟩
  · rw [if_neg ended]
    have below : sentPos s ch p prof pace < s.playFrames p * 64 := Nat.not_le.1 ended
    exact ⟨_, _, passed, rfl, rfl, rfl, rfl, rfl, rfl, rfl, rfl, fun _ => ⟨running, rfl⟩,
      fun at_ => absurd at_ below.ne, fun at_ => absurd at_ below.ne⟩

/-! ### A message handed to a link that hears -/

/-- What a frame handed over and a channel written leave. -/
structure FrameHanded (s u : State) (ch : Nat) (m : LinkMsg) (x : Channel) : Prop where
  link : u.link ch = { s.link ch with unsent := (s.link ch).unsent ++ [m] }
  links : ∀ k, k ≠ ch → u.link k = s.link k
  chan : u.chan ch = x
  chans : ∀ k, k ≠ ch → u.chan k = s.chan k
  frame : u = { s with chans := u.chans, links := u.links }

theorem frameHanded_of_channelSetTo {s u : State} {ch : Nat} {m : LinkMsg} {x : Channel} (up : (s.link ch).up = true)
    (bound : (s.chan ch).binding = .link) (set : ChannelSetTo (s.handOver ch m) u ch x) : FrameHanded s u ch m x := by
  obtain ⟨link, links, handed⟩ := linkSetTo_handOver ((hears_iff s ch).2 ⟨up, bound⟩) m
  generalize s.handOver ch m = v at link links handed set
  obtain ⟨chan, chans, frame⟩ := set
  have linkU (k : Nat) : u.link k = v.link k := (congrArg (fun t : State => t.link k) frame :)
  have chanV (k : Nat) : v.chan k = s.chan k := (congrArg (fun t : State => t.chan k) handed :)
  exact ⟨(linkU ch).trans link, fun k ne => (linkU k).trans (links k ne), chan, fun k ne => (chans k ne).trans (chanV k),
    by rw [frame, handed]⟩

end Sys2Proof.Machine
end

section
/-! ## The frame period

What one frame period does on a channel (R127, R128, R130, R131, R136, R138, R142, R153 to R156, R158). -/

set_option Elab.async false

namespace Sys2Proof.Machine
open State

/-! ### The period of a channel, by its stream -/

theorem exec_framePeriod (ch : Fin 16) (s : State) : exec (.framePeriod ch) s = .next (s.framePeriodOf ch) := rfl

theorem exec_frameTimeout (ch : Fin 16) (s : State) : exec (.frameTimeout ch) s = .next (s.frameTimeoutOf ch) := rfl

section Period
variable {s : State} {ch : Nat}

theorem framePeriodOf_of_quiet (quiet : (s.chan ch).suspended = true ∨ (s.chan ch).stream = .idle) :
    s.framePeriodOf ch = s := by
  unfold framePeriodOf
  rcases quiet with suspended | idle
  · rw [if_pos suspended]
  · rw [idle]
    exact ite_self s

variable (awake : (s.chan ch).suspended = false)
include awake

theorem framePeriodOf_of_capture {c : Capture} (capture : (s.chan ch).stream = .capture c) :
    s.framePeriodOf ch = s.capturePeriod ch c := by
  rw [framePeriodOf, awake, capture]
  rfl

theorem framePeriodOf_of_play {p : Play} (play : (s.chan ch).stream = .play p) : s.framePeriodOf ch = s.playPeriod ch p := by
  rw [framePeriodOf, awake, play]
  rfl

theorem framePeriodOf_of_readback {r : Readback} (readback : (s.chan ch).stream = .readback r) :
    s.framePeriodOf ch = s.readbackPeriod ch r := by
  rw [framePeriodOf, awake, readback]
  rfl

end Period

/-! ### A capture (R127, R128) -/

section Capture
variable {s : State} {ch : Nat} {c : Capture} (capture : (s.chan ch).stream = .capture c)
include capture

theorem capturePeriod_of_below (running : c.running = true) (below : c.counter + 1 < (s.chan ch).timeout) :
    ChannelSetTo s (s.capturePeriod ch c) ch { s.chan ch with stream := .capture { c with counter := c.counter + 1 } } := by
  rw [capturePeriod, if_neg (by simp [running]), if_neg (Nat.not_le.2 below)]
  exact (ChannelSetTo.refl s ch).updCapture capture _

omit capture in
theorem capturePeriod_of_reached (running : c.running = true) (reached : (s.chan ch).timeout ≤ c.counter + 1) :
    s.capturePeriod ch c = s.abnormalEnd ch .frameTimeout := by
  rw [capturePeriod, running, Bool.not_true, if_neg Bool.false_ne_true, if_pos reached, timeoutExpires]

theorem frameTimeoutOf_of_reached (running : c.running = true) (reached : (s.chan ch).timeout ≤ c.counter + 1) :
    s.frameTimeoutOf ch = s.abnormalEnd ch .frameTimeout := by
  rw [frameTimeoutOf, captureOf_eq capture]
  exact if_pos ⟨running, reached⟩

end Capture

section AbnormalEnd
variable {s : State} {ch : Nat} {job : Ref} {ctx : CapCtx} (fields : s.captureFields ch = some (job, ctx)) (cause : Cause)
include fields

/-- The channels after an abnormal end are those after its notice. -/
theorem chan_abnormalEnd (k : Nat) : (s.abnormalEnd ch cause).chan k =
    ((s.endCapture ch).placeNotice (s.captureNotice ch job ctx.point cause .stopped) false).chan k := by
  rw [abnormalEnd, fields]
  exact raise_chan _ _ k

theorem chan_abnormalEnd_ne {k : Nat} (other : k ≠ ch) : (s.abnormalEnd ch cause).chan k = s.chan k := by
  rw [chan_abnormalEnd fields, chan_placeNotice_ne _ _ _ other, chan_endCapture_ne fields other]

/-- The notice of an abnormal end takes an empty slot. -/
theorem slot_abnormalEnd (empty : (s.chan ch).slot = none) :
    ((s.abnormalEnd ch cause).chan ch).slot = some (s.captureNotice ch job ctx.point cause .stopped) := by
  rw [chan_abnormalEnd fields]
  refine slot_placeNotice (n := s.captureNotice ch job ctx.point cause .stopped) ?_ false
  exact (congrArg Channel.slot (chan_endCapture fields)).trans empty

/-- The notice of an abnormal end takes the second slot behind another. -/
theorem second_abnormalEnd (current : (s.chan ch).slot ≠ none) (empty : (s.chan ch).second = none) :
    ((s.abnormalEnd ch cause).chan ch).suspended = false ∧
      ((s.abnormalEnd ch cause).chan ch).second = some (s.captureNotice ch job ctx.point cause .stopped) := by
  have ended := chan_endCapture fields
  rw [chan_abnormalEnd fields]
  generalize s.endCapture ch = v at ended
  have at_ : (s.captureNotice ch job ctx.point cause .stopped).chan = ch := rfl
  generalize s.captureNotice ch job ctx.point cause .stopped = n at at_
  subst at_
  rw [placeNotice_of_current (by rw [ended]; exact current) (by rw [ended]; exact empty), if_neg Bool.false_ne_true,
    chan_setChan, ended]
  exact ⟨rfl, rfl⟩

end AbnormalEnd

/-! ### The choice of a frame (R138, R154 to R156) -/

section Choice
variable {s : State} {ch : Nat} {p : Play} {i off : Nat} {b : SegBody}
  (located : s.locate p.job.idx (s.playStart p + p.pos / 64) = some (i, b, off))
include located

theorem choose_of_within (within : b.sealPart.getD 0 ≤ (s.link ch).clearance) :
    s.choose ch p = ((s.setActive ch (s.profileAt ch p (p.pos / 64))).makeClaim
      { extent := b.extent, frame := b.first + off, use := .play ch }).updPlay ch fun x => { x with
        read := some { extent := b.extent, frame := b.first + off, prof := s.profileAt ch p (p.pos / 64), pace := b.pace } } := by
  unfold choose
  dsimp only
  rw [located]
  exact if_neg fun above => Nat.not_lt.2 within (of_decide_eq_true above)

theorem choose_of_mute (above : (s.link ch).clearance < b.sealPart.getD 0)
    (mute : ((s.chan ch).activeCopy (s.profileAt ch p (p.pos / 64))).sealAct = .mute) :
    s.choose ch p = (s.setActive ch (s.profileAt ch p (p.pos / 64))).frameSent ch (s.profileAt ch p (p.pos / 64)) b.pace true
      false silentFrame := by
  unfold choose
  dsimp only
  rw [located]
  refine (if_pos (decide_eq_true above)).trans ?_
  rw [mute]

theorem choose_of_skip (above : (s.link ch).clearance < b.sealPart.getD 0)
    (skip : ((s.chan ch).activeCopy (s.profileAt ch p (p.pos / 64))).sealAct = .skip) :
    s.choose ch p = (s.setActive ch (s.profileAt ch p (p.pos / 64))).skipFrom ch p (s.playStart p + p.pos / 64) := by
  unfold choose
  dsimp only
  rw [located]
  refine (if_pos (decide_eq_true above)).trans ?_
  rw [skip]

end Choice

/-! ### The period of a play (R136, R138, R142) -/

section PlayPeriod
variable {s : State} {ch : Nat} {p : Play}

theorem playPeriod_of_running (running : p.run = .running) (free : p.read = none) (below : p.pos / 64 < s.playFrames p) :
    s.playPeriod ch p = s.choose ch p := by
  rw [playPeriod, running, free]
  exact if_neg (Nat.not_le.2 below)

theorem playPeriod_of_shuttle (paused : p.run = .paused) (held : p.shuttle ≠ .none) :
    s.playPeriod ch p = s.setPosition ch (s.movedPos p p.shuttle 8) := by
  rw [playPeriod, paused]
  exact if_neg held

theorem playPeriod_of_claimed (waits : p.run = .followWait) (claimed : s.takeState p.take = some .claimed) :
    s.playPeriod ch p = s.raiseEnd ch := by
  rw [playPeriod, waits]
  dsimp only
  rw [claimed]

theorem playPeriod_of_following (waits : p.run = .followWait) (following : s.takeState p.take = some .following) :
    s.playPeriod ch p = if s.playFrames p * 64 ≤ p.pos then s
      else ((s.updPlay ch fun _ => { p with run := .running }).resumeCross ch { p with run := .running }).choose ch
        { p with run := .running } := by
  rw [playPeriod, waits]
  dsimp only
  rw [following]

/-- A crossing found on resuming from FOLLOW-WAIT (R158). -/
theorem resumeCross_setTo {v : State} {x : Channel} (set : ChannelSetTo s v ch x) {i off : Nat} {b : SegBody}
    (located : s.locate p.job.idx (s.playStart p + p.pos / 64) = some (i, b, off)) :
    ChannelSetTo s (v.resumeCross ch p) ch
      (if p.lastSeg = none ∨ p.lastSeg = some (s.segRef i) then x else x.cross) := by
  have same := SameMap.of_channelSetTo set
  have at_ : v.segAt p.job.idx (v.playStart p + p.pos / 64) = some (s.segRef i) := by
    rw [same.segAt, same.playStart, segAt, located]
    rfl
  unfold resumeCross
  rw [at_]
  cases last : p.lastSeg with
  | none => exact set
  | some a =>
    dsimp only
    by_cases stays : a = s.segRef i
    · rw [if_pos stays, if_pos (.inr (congrArg some stays))]
      exact set
    · rw [if_neg stays, if_neg]
      · exact set.crossOn
      · rintro (nothing | stays')
        · cases nothing
        · exact stays (Option.some.inj stays')

end PlayPeriod

/-! ### SKIP (R156) -/

section Skip
variable {s v : State} {ch : Nat} {p : Play} {x : Channel} (set : ChannelSetTo s v ch x) (play : x.stream = .play p)
include set play

omit set play in
theorem skipFrom_of_none {at_ : Nat} (nothing : v.skipTarget ch p at_ = none) :
    v.skipFrom ch p at_ = (v.updPlay ch fun q => { q with pos := v.playFrames p * 64 }).atTakeEnd ch := by
  rw [skipFrom, nothing]

/-- A skip that finds a segment lands at its first frame and claims it (R156). -/
theorem skipFrom_of_some (low : ch < 16) (mode : x.mode = (s.chan ch).mode) (first : x.winStart = (s.chan ch).winStart)
    (last : x.winEnd = (s.chan ch).winEnd) {at_ q : Nat} {g : SegBody} (found : v.skipTarget ch p at_ = some (g, q))
    (after : s.playStart p ≤ q) :
    ReadClaimed s (v.skipFrom ch p at_) ch { extent := g.extent, frame := g.first, use := .play ch }
      { x.cross with
        active := s.profileAt ch p (q - s.playStart p)
        stream := .play { p with
          pos := (q - s.playStart p) * 64
          matched := p.matched.bind fun r => if s.cueCurrent r = true ∧ q ≤ s.cuePos r.idx then some r else none
          read := some { extent := g.extent, frame := g.first, prof := s.profileAt ch p (q - s.playStart p)
                         pace := g.pace } } } := by
  have same := SameMap.of_channelSetTo set
  have start := same.playStart p
  have moved := ((set.updPlay play fun y => { y with pos := (q - v.playStart p) * 64 }).crossOn)
  have same' := SameMap.of_channelSetTo moved
  have cleared := moved.clearMatched (p := { p with pos := (q - v.playStart p) * 64 }) rfl (q - v.playStart p)
  have same'' := SameMap.of_channelSetTo cleared
  rw [skipFrom, found]
  dsimp only [claimRead]
  generalize (v.updPlay ch fun y => { y with pos := (q - v.playStart p) * 64 }).crossOn ch = w at moved same' cleared same''
  have still : w.stillMatched (w.playStart { p with pos := (q - v.playStart p) * 64 }) (q - v.playStart p) p.matched =
      p.matched.bind fun r => if s.cueCurrent r = true ∧ q ≤ s.cuePos r.idx then some r else none := by
    have begins : w.playStart { p with pos := (q - v.playStart p) * 64 } = s.playStart p := same'.playStart p
    rw [begins, start]
    cases p.matched with
    | none => rfl
    | some r =>
      rw [stillMatched, Option.bind_some, same'.matchedPassed, matchedPassed, Nat.add_sub_cancel' after]
      cases s.cueCurrent r with
      | false => simp
      | true => simp only [Bool.not_true, Bool.false_or, decide_eq_true_eq, true_and, ← Nat.not_lt, ite_not]
  rw [still] at cleared
  generalize w.clearMatched ch (q - v.playStart p) = y at cleared same''
  have link : (y.link ch).clearance = (s.link ch).clearance :=
    (congrArg (fun t : State => (t.link ch).clearance) cleared.2.2 :)
  have prof : y.profileAt ch p (q - v.playStart p) = s.profileAt ch p (q - s.playStart p) := by
    rw [start]
    exact profileAt_congr same'' link (by rw [cleared.1]; exact mode) (by rw [cleared.1]; exact first)
      (by rw [cleared.1]; exact last) rfl rfl _
  rw [prof]
  have claimed := readClaimed_updPlay (cleared.setActive (s.profileAt ch p (q - s.playStart p))) low rfl
    (c := { extent := g.extent, frame := g.first + 0, use := .play ch }) rfl fun z => { z with
      read := some { extent := g.extent, frame := g.first + 0, prof := s.profileAt ch p (q - s.playStart p), pace := g.pace } }
  rw [start] at claimed
  exact claimed

end Skip

/-- What SKIP looks for (R156). -/
theorem skipTarget_eq {s v : State} (same : SameMap s v) {ch : Nat} (link : (v.link ch).clearance = (s.link ch).clearance)
    (p : Play) (after : Nat) : v.skipTarget ch p after =
      ((withStarts 0 (s.jobSegs p.job.idx)).find? fun x => decide (after < x.2.2) &&
        decide (x.2.2 < s.playStart p + s.playFrames p) &&
        decide (x.2.1.sealPart.getD 0 ≤ (s.link ch).clearance)).map Prod.snd := by
  rw [skipTarget, same.jobSegs, same.playStart, same.playFrames]
  refine congrArg (Option.map Prod.snd) (congrArg (List.find? · _) (funext fun x => ?_))
  refine congrArg (decide (after < x.2.2) && decide (x.2.2 < s.playStart p + s.playFrames p) && ·) ?_
  rw [overClearance, link, ← decide_not]
  exact decide_eq_decide.2 Nat.not_lt

/-! ### A read-back (R130, R131, R138) -/

section ReadbackPeriod
variable {s : State} {ch : Nat} {r : Readback}

theorem readbackPeriod_of_reading (reading : r.read ≠ none) : s.readbackPeriod ch r = s := by
  rw [readbackPeriod, if_pos (Option.isSome_iff_ne_none.2 reading)]

theorem readbackPeriod_of_located (free : r.read = none) {i off : Nat} {b : SegBody}
    (located : s.locate r.job.idx (r.pos / 64) = some (i, b, off)) :
    s.readbackPeriod ch r = ((s.setActive ch (s.readbackProfile ch)).makeClaim
      { extent := b.extent, frame := b.first + off, use := .play ch }).updReadback ch fun x => { x with
        read := some { extent := b.extent, frame := b.first + off, prof := s.readbackProfile ch, pace := b.pace } } := by
  rw [readbackPeriod, free, located]
  rfl

theorem readbackPeriod_of_end (free : r.read = none) (ended : s.locate r.job.idx (r.pos / 64) = none) :
    s.readbackPeriod ch r = s.readbackEnded ch r := by
  rw [readbackPeriod, free, ended]
  rfl

/-- The state of a read-back's END, before its notice (R131). -/
def readbackLeft (s : State) (ch : Nat) (r : Readback) : State :=
  (s.restoreCapture ch r false).updChan ch fun c => { c with noContinuation := true }

theorem readbackLeft_haltedTo (s : State) (ch : Nat) (r : Readback) :
    ChannelHaltedTo s (readbackLeft s ch r) ch { s.chan ch with
      stream := .capture { job := r.job, ctx := r.parked }, suspended := false, noContinuation := true } :=
  (restoreCapture_haltedTo s ch r false).updChan _

theorem readbackEnded_eq (s : State) (ch : Nat) (r : Readback) : s.readbackEnded ch r =
    if (s.chan ch).matrix.endNotify = true then
      (readbackLeft s ch r).placeNotice { chan := ch, cause := .ended, action := .stopped, job := r.job
                                          pos := (s.job r.job.idx).length * 64 } false
    else readbackLeft s ch r := by
  have chan := (readbackLeft_haltedTo s ch r).1
  change (if ((readbackLeft s ch r).chan ch).matrix.endNotify = true then _ else _) = _
  rw [chan]
  rfl

end ReadbackPeriod

/-! ### The statement -/

theorem framePeriod_capture_facts (ch : Fin 16) {s : State} {c : Capture} (awake : (s.chan ch).suspended = false)
    (capture : (s.chan ch).stream = .capture c) (running : c.running = true) (reached : (s.chan ch).timeout ≤ c.counter + 1)
    (bound : (s.chan ch).binding = .link) (room : s.notices.length < 32) :
    ∃ u : State, exec (.framePeriod ch) s = .next u ∧ exec (.frameTimeout ch) s = .next u ∧
      (u.chan ch).stream = .idle ∧ u.placement ch = {} ∧
      u.job c.job.idx = { s.job c.job.idx with
        chan := none
        state := if (s.job c.job.idx).state = .live then .setAside else (s.job c.job.idx).state } ∧
      u.notices = s.notices ++ [.captureEnded c.job .frameTimeout] ∧
      ((s.chan ch).slot = none → (u.chan ch).slot = some
        { chan := ch, cause := .frameTimeout, action := .stopped, job := c.job
          pos := s.anchorPos c.job.idx c.ctx.point * 64 }) ∧
      ((s.chan ch).slot ≠ none → (s.chan ch).second = none → (u.chan ch).suspended = false ∧
        (u.chan ch).second = some
          { chan := ch, cause := .frameTimeout, action := .stopped, job := c.job
            pos := s.anchorPos c.job.idx c.ctx.point * 64 }) ∧
      (∀ k, k ≠ ch.val → u.chan k = s.chan k) ∧ u.segs = s.segs ∧ u.takes = s.takes := by
  have fields := captureFields_capture capture
  have ended := captureEnded_abnormalEnd .frameTimeout fields bound room
  refine ⟨s.abnormalEnd ch .frameTimeout, ?_, ?_, ended.idle, ended.placement, ended.job, ended.notices,
    fun empty => slot_abnormalEnd fields .frameTimeout empty,
    fun current empty => second_abnormalEnd fields .frameTimeout current empty,
    fun k ne => chan_abnormalEnd_ne fields .frameTimeout ne, ended.segs, ended.takes⟩
  · rw [exec_framePeriod, framePeriodOf_of_capture awake capture, capturePeriod_of_reached running reached]
  · rw [exec_frameTimeout, frameTimeoutOf_of_reached capture running reached]

/-- A frame within clearance is claimed (R138). -/
theorem readClaimed_choose {s v : State} (ch : Fin 16) {x : Channel} (set : ChannelSetTo s v ch x) {p : Play}
    (play : x.stream = .play p) (mode : x.mode = (s.chan ch).mode) (first : x.winStart = (s.chan ch).winStart)
    (last : x.winEnd = (s.chan ch).winEnd) {i off : Nat} {b : SegBody}
    (located : s.locate p.job.idx (s.playStart p + p.pos / 64) = some (i, b, off))
    (within : b.sealPart.getD 0 ≤ (s.link ch).clearance) :
    ReadClaimed s (v.choose ch p) ch ⟨b.extent, b.first + off, .play ch⟩ { x with
      active := s.profileAt ch p (p.pos / 64)
      stream := .play { p with
        read := some { extent := b.extent, frame := b.first + off, prof := s.profileAt ch p (p.pos / 64), pace := b.pace } } } := by
  have same := SameMap.of_channelSetTo set
  have link : v.link ch = s.link ch := (congrArg (fun t : State => t.link ch) set.2.2 :)
  have prof : v.profileAt ch p (p.pos / 64) = s.profileAt ch p (p.pos / 64) :=
    profileAt_congr same (by rw [link]) (by rw [set.1]; exact mode) (by rw [set.1]; exact first) (by rw [set.1]; exact last)
      rfl rfl _
  rw [choose_of_within (by rw [same.locate, same.playStart]; exact located) (by rw [link]; exact within), prof]
  exact readClaimed_updPlay (set.setActive (s.profileAt ch p (p.pos / 64))) ch.isLt play
    (c := ⟨b.extent, b.first + off, .play ch⟩) rfl _

theorem ReadClaimed.facts {s u : State} {ch : Nat} {c : Claim} {x : Channel} (h : ReadClaimed s u ch c x) :
    u.chan ch = x ∧ (s.port ≠ none → u.port = s.port ∧ u.waiting = s.waiting ++ [c]) ∧
      (s.port = none → s.waiting = [] → u.waiting = [] ∧ u.port = some { claim := c }) ∧
      (∀ k, k ≠ ch → u.chan k = s.chan k) ∧
      u = { s with chans := u.chans, waiting := u.waiting, port := u.port, served := u.served } :=
  ⟨h.chan, h.busy, h.free, h.chans, h.frame⟩

/-- The period of a play in FOLLOW-WAIT (R142, R158). -/
theorem framePeriod_followWait_facts (ch : Fin 16) {s : State} {p : Play} (awake : (s.chan ch).suspended = false)
    (play : (s.chan ch).stream = .play p) (waits : p.run = .followWait) :
    (s.takeState p.take = some .claimed → exec (.framePeriod ch) s = .next (s.raiseEnd ch)) ∧
    (s.takeState p.take = some .following → s.playFrames p * 64 ≤ p.pos → exec (.framePeriod ch) s = .next s) ∧
    ∀ i off b c, s.takeState p.take = some .following → p.pos < s.playFrames p * 64 → p.read = none →
      s.locate p.job.idx (s.playStart p + p.pos / 64) = some (i, b, off) →
      c = (if p.lastSeg = none ∨ p.lastSeg = some (s.segRef i) then s.chan ch else (s.chan ch).cross) →
      (∃ v : State, ChannelSetTo s v ch { c with stream := .play { p with run := .running } } ∧
        exec (.framePeriod ch) s = exec (.framePeriod ch) v) ∧
      (b.sealPart.getD 0 ≤ (s.link ch).clearance → ∃ u : State, exec (.framePeriod ch) s = .next u ∧
        u.chan ch = { c with
          active := s.profileAt ch p (p.pos / 64)
          stream := .play { p with
            run := .running
            read := some { extent := b.extent, frame := b.first + off, prof := s.profileAt ch p (p.pos / 64)
                           pace := b.pace } } } ∧
        (s.port ≠ none → u.port = s.port ∧ u.waiting = s.waiting ++ [⟨b.extent, b.first + off, .play ch⟩]) ∧
        (s.port = none → s.waiting = [] → u.waiting = [] ∧
          u.port = some { claim := ⟨b.extent, b.first + off, .play ch⟩ }) ∧
        (∀ k, k ≠ ch.val → u.chan k = s.chan k) ∧
        u = { s with chans := u.chans, waiting := u.waiting, port := u.port, served := u.served }) := by
  have period := (exec_framePeriod ch s).trans (congrArg Host.Outcome.next (framePeriodOf_of_play awake play))
  refine ⟨fun claimed => ?_, fun following ended => ?_, fun i off b c following below free located crossed => ?_⟩
  · rw [period, playPeriod_of_claimed waits claimed]
  · rw [period, playPeriod_of_following waits following, if_pos ended]
  · rw [playPeriod_of_following waits following, if_neg (Nat.not_le.2 below)] at period
    have resumed := resumeCross_setTo (p := { p with run := .running })
      ((ChannelSetTo.refl s ch).updPlay play fun _ => { p with run := .running }) located
    generalize (s.updPlay ch fun _ => { p with run := .running }).resumeCross ch { p with run := .running } = v
      at period resumed
    have chan : (if p.lastSeg = none ∨ p.lastSeg = some (s.segRef i) then
        { s.chan ch with stream := .play { p with run := .running } }
        else { s.chan ch with stream := .play { p with run := .running } }.cross) =
        { c with stream := .play { p with run := .running } } := by
      rw [crossed]
      split <;> rfl
    rw [chan] at resumed
    have kept : c.mode = (s.chan ch).mode ∧ c.winStart = (s.chan ch).winStart ∧ c.winEnd = (s.chan ch).winEnd ∧
        c.suspended = (s.chan ch).suspended := by
      rw [crossed]
      split <;> exact ⟨rfl, rfl, rfl, rfl⟩
    obtain ⟨mode, first, last, suspended⟩ := kept
    have same := SameMap.of_channelSetTo resumed
    refine ⟨⟨v, resumed, ?_⟩, fun within => ⟨_, period, (readClaimed_choose ch resumed rfl mode first last located within).facts⟩⟩
    rw [period, exec_framePeriod, framePeriodOf_of_play (p := { p with run := .running })
      (by rw [resumed.1]; exact suspended.trans awake) (by rw [resumed.1]),
      playPeriod_of_running (p := { p with run := .running }) rfl free]
    rw [same.playFrames]
    exact (Nat.div_lt_iff_lt_mul (by decide)).2 below

/-- The period of a read-back (R130, R131, R138). -/
theorem framePeriod_readback_facts (ch : Fin 16) {s : State} {r : Readback} (awake : (s.chan ch).suspended = false)
    (readback : (s.chan ch).stream = .readback r) :
    (r.read ≠ none → exec (.framePeriod ch) s = .next s) ∧
    (∀ i off b prof, r.read = none → s.locate r.job.idx (r.pos / 64) = some (i, b, off) →
      prof = (if (s.chan ch).mode = 1 then .b else .a) → ∃ u : State, exec (.framePeriod ch) s = .next u ∧
        u.chan ch = { s.chan ch with
          active := prof
          stream := .readback { r with
            read := some { extent := b.extent, frame := b.first + off, prof := prof, pace := b.pace } } } ∧
        (s.port ≠ none → u.port = s.port ∧ u.waiting = s.waiting ++ [⟨b.extent, b.first + off, .play ch⟩]) ∧
        (s.port = none → s.waiting = [] → u.waiting = [] ∧
          u.port = some { claim := ⟨b.extent, b.first + off, .play ch⟩ }) ∧
        (∀ k, k ≠ ch.val → u.chan k = s.chan k) ∧
        u = { s with chans := u.chans, waiting := u.waiting, port := u.port, served := u.served }) ∧
    (r.read = none → s.locate r.job.idx (r.pos / 64) = none → ∃ v : State,
      exec (.framePeriod ch) s = .next (if (s.chan ch).matrix.endNotify then
          v.placeNotice { chan := ch, cause := .ended, action := .stopped, job := r.job
                          pos := (s.job r.job.idx).length * 64 } false
        else v) ∧
      ChannelHaltedTo s v ch { s.chan ch with
        stream := .capture { job := r.job, ctx := r.parked }, suspended := false, noContinuation := true }) := by
  have period := (exec_framePeriod ch s).trans (congrArg Host.Outcome.next (framePeriodOf_of_readback awake readback))
  refine ⟨fun reading => ?_, fun i off b prof free located chosen => ?_, fun free ended => ⟨_, ?_, readbackLeft_haltedTo s ch r⟩⟩
  · rw [period, readbackPeriod_of_reading reading]
  · rw [readbackPeriod_of_located free located, readbackProfile, ← chosen] at period
    exact ⟨_, period,
      (readClaimed_updReadback ((ChannelSetTo.refl s ch).setActive prof) ch.isLt readback
        (c := ⟨b.extent, b.first + off, .play ch⟩) rfl _).facts⟩
  · rw [period, readbackPeriod_of_end free ended, readbackEnded_eq]

/-- A RUNNING play below its end, with no read outstanding, chooses its frame (R138). -/
theorem exec_framePeriod_of_running (ch : Fin 16) {s : State} {p : Play} (awake : (s.chan ch).suspended = false)
    (play : (s.chan ch).stream = .play p) (running : p.run = .running) (free : p.read = none)
    (below : p.pos / 64 < s.playFrames p) : exec (.framePeriod ch) s = .next (s.choose ch p) := by
  rw [exec_framePeriod, framePeriodOf_of_play awake play, playPeriod_of_running running free below]

/-- The crossing of an advance that stays below the end, as one choice (R158). -/
theorem crossedIf_of_below {x : Channel} {a b : Option Ref} {pos n : Nat} (below : pos < n * 64) :
    x.crossedIf (decide (pos / 64 < n ∧ a ≠ b)) = if a = b then x else x.cross := by
  have inside : pos / 64 < n := (Nat.div_lt_iff_lt_mul (by decide)).2 below
  rw [Channel.crossedIf]
  by_cases same : a = b
  · rw [if_pos same, if_neg (by simp [same])]
  · rw [if_neg same, if_pos (by simp [same, inside])]

/-- A muted frame (R155). -/
theorem framePeriod_mute_facts (ch : Fin 16) {s : State} {p : Play} {i off n pos : Nat} {b : SegBody}
    (awake : (s.chan ch).suspended = false) (play : (s.chan ch).stream = .play p) (running : p.run = .running)
    (free : p.read = none) (clear : (s.chan ch).matrix = {}) (more : p.remaining ≠ 1) (up : (s.link ch).up = true)
    (bound : (s.chan ch).binding = .link) (frames : n = s.playFrames p) (below : p.pos / 64 < n)
    (located : s.locate p.job.idx (s.playStart p + p.pos / 64) = some (i, b, off))
    (above : (s.link ch).clearance < b.sealPart.getD 0)
    (mute : ((s.chan ch).activeCopy (s.profileAt ch p (p.pos / 64))).sealAct = .mute)
    (advance : pos = min (p.pos + s.rateOf ch (s.profileAt ch p (p.pos / 64)) b.pace) (n * 64)) :
    ∃ (u : State) (q : Play), exec (.framePeriod ch) s = .next u ∧
      (u.link ch).unsent = (s.link ch).unsent ++ [.frame true false 0] ∧ (u.chan ch).stream = .play q ∧ q.job = p.job ∧
      q.take = p.take ∧ q.pos = pos ∧ q.read = none ∧ q.remaining = p.remaining - 1 ∧ (pos < n * 64 → q.run = .running ∧
        u.chan ch = { (if s.segAt p.job.idx (s.playStart p + pos / 64) = some (s.segRef i) then s.chan ch
            else (s.chan ch).cross) with
          active := s.profileAt ch p (p.pos / 64), stream := .play q }) ∧
      u.waiting = s.waiting ∧ u.port = s.port ∧ (∀ k, k ≠ ch.val → u.link k = s.link k ∧ u.chan k = s.chan k) ∧
      u.notices = s.notices ∧ u.jobs = s.jobs ∧ u.takes = s.takes := by
  subst frames
  have period := exec_framePeriod_of_running ch awake play running free below
  rw [choose_of_mute located above mute] at period
  generalize s.profileAt ch p (p.pos / 64) = prof at period mute advance ⊢
  have set := (ChannelSetTo.refl s ch).setActive prof
  generalize s.setActive ch prof = v at period set
  have same := SameMap.of_channelSetTo set
  obtain ⟨chan, others, frame⟩ := set
  have link (k : Nat) : v.link k = s.link k := (congrArg (fun t : State => t.link k) frame :)
  have stream : (v.chan ch).stream = .play p := by rw [chan]; exact play
  have rate : v.rateOf ch prof b.pace = s.rateOf ch prof b.pace := by
    unfold rateOf
    rw [chan]
    cases prof <;> rfl
  have seg : sentSeg v p = some (s.segRef i) := by
    rw [sentSeg, same.segAt, same.playStart, segAt, located]
    rfl
  have at_ : sentPos v ch p prof b.pace = pos := by
    rw [sentPos, rate, same.playFrames, ← advance]
  obtain ⟨x, q, sent, left⟩ := frameSent_of_clear stream running (by rw [chan]; exact clear) more prof b.pace true false
    silentFrame
  have handed := frameHanded_of_channelSetTo (by rw [link]; exact up) (by rw [chan]; exact bound) sent
  generalize v.frameSent ch prof b.pace true false silentFrame = u at period handed
  have kept := handed.frame
  refine ⟨u, q, period, ?_, ?_, left.job, left.take, left.pos.trans at_, left.read, left.remaining, fun low => ?_, ?_, ?_,
    fun k ne => ⟨(handed.links k ne).trans (link k), (handed.chans k ne).trans (others k ne)⟩, ?_, ?_, ?_⟩
  · rw [handed.link, link]
    rfl
  · rw [handed.chan]
    exact left.stream
  · obtain ⟨runs, crossed⟩ := left.below (by rw [at_, same.playFrames]; exact low)
    refine ⟨runs, ?_⟩
    rw [handed.chan, crossed, sentCrosses, at_, same.playFrames, crossedIf_of_below low, seg, same.segAt, same.playStart, chan]
    split <;> rfl
  all_goals rw [kept, frame]

/-- SKIP (R156). -/
theorem framePeriod_skip_facts (ch : Fin 16) {s : State} {p : Play} {i off : Nat} {b : SegBody}
    (awake : (s.chan ch).suspended = false) (play : (s.chan ch).stream = .play p) (running : p.run = .running)
    (free : p.read = none) (below : p.pos / 64 < s.playFrames p)
    (located : s.locate p.job.idx (s.playStart p + p.pos / 64) = some (i, b, off))
    (above : (s.link ch).clearance < b.sealPart.getD 0)
    (skip : ((s.chan ch).activeCopy (s.profileAt ch p (p.pos / 64))).sealAct = .skip) :
    (∀ j g q, (withStarts 0 (s.jobSegs p.job.idx)).find? (fun x => decide (s.playStart p + p.pos / 64 < x.2.2) &&
        decide (x.2.2 < s.playStart p + s.playFrames p) && decide (x.2.1.sealPart.getD 0 ≤ (s.link ch).clearance)) =
        some (j, g, q) →
      ∃ u : State, exec (.framePeriod ch) s = .next u ∧
        u.chan ch = { (s.chan ch).cross with
          active := s.profileAt ch p (q - s.playStart p)
          stream := .play { p with
            pos := (q - s.playStart p) * 64
            matched := p.matched.bind fun r => if s.cueCurrent r = true ∧ q ≤ s.cuePos r.idx then some r else none
            read := some { extent := g.extent, frame := g.first, prof := s.profileAt ch p (q - s.playStart p)
                           pace := g.pace } } } ∧
        (s.port ≠ none → u.port = s.port ∧ u.waiting = s.waiting ++ [⟨g.extent, g.first, .play ch⟩]) ∧
        (s.port = none → s.waiting = [] → u.waiting = [] ∧ u.port = some { claim := ⟨g.extent, g.first, .play ch⟩ }) ∧
        (∀ k, k ≠ ch.val → u.chan k = s.chan k) ∧
        u = { s with chans := u.chans, waiting := u.waiting, port := u.port, served := u.served }) ∧
    ((∀ x ∈ withStarts 0 (s.jobSegs p.job.idx), s.playStart p + p.pos / 64 < x.2.2 →
        x.2.2 < s.playStart p + s.playFrames p → (s.link ch).clearance < x.2.1.sealPart.getD 0) →
      (s.takeState p.take = some .following → ∃ u : State, exec (.framePeriod ch) s = .next u ∧
        ChannelSetTo s u ch { s.chan ch with
          active := s.profileAt ch p (p.pos / 64)
          stream := .play { p with pos := s.playFrames p * 64, run := .followWait } }) ∧
      (s.takeState p.take = some .claimed → (s.chan ch).matrix = {} → ∃ u : State, exec (.framePeriod ch) s = .next u ∧
        ChannelSetTo s u ch { s.chan ch with
          active := s.profileAt ch p (p.pos / 64), noContinuation := true
          stream := .play { p with pos := s.playFrames p * 64, run := .paused } })) := by
  have period := exec_framePeriod_of_running ch awake play running free below
  rw [choose_of_skip located above skip] at period
  have set := (ChannelSetTo.refl s ch).setActive (s.profileAt ch p (p.pos / 64))
  have same := SameMap.of_channelSetTo set
  generalize s.setActive ch (s.profileAt ch p (p.pos / 64)) = v at period set same
  have link : (v.link ch).clearance = (s.link ch).clearance := (congrArg (fun t : State => (t.link ch).clearance) set.2.2 :)
  have target := skipTarget_eq same link p (s.playStart p + p.pos / 64)
  refine ⟨fun j g q found => ⟨_, period, ?_⟩, fun nowhere => ?_⟩
  · have after := List.find?_some found
    simp only [Bool.and_eq_true, decide_eq_true_eq] at after
    obtain ⟨⟨low, -⟩, -⟩ := after
    rw [found] at target
    exact (skipFrom_of_some set play ch.isLt rfl rfl rfl target (by omega)).facts
  · have nothing : v.skipTarget ch p (s.playStart p + p.pos / 64) = none := by
      rw [target, Option.map_eq_none_iff, List.find?_eq_none]
      intro x mem passes
      simp only [Bool.and_eq_true, decide_eq_true_eq] at passes
      obtain ⟨⟨low, high⟩, clear⟩ := passes
      exact absurd (nowhere x mem low high) (Nat.not_lt.2 clear)
    rw [skipFrom_of_none nothing, same.playFrames] at period
    have moved := set.updPlay play fun q => { q with pos := s.playFrames p * 64 }
    generalize v.updPlay ch (fun q => { q with pos := s.playFrames p * 64 }) = w at moved period
    have stream : (w.chan ch).stream = .play { p with pos := s.playFrames p * 64 } := by rw [moved.1]
    have state : w.takeState p.take = s.takeState p.take := (SameMap.of_channelSetTo moved).takeState p.take
    refine ⟨fun following => ⟨_, period, ?_⟩, fun claimed clear => ⟨_, period, ?_⟩⟩
    · rw [atTakeEnd_of_following stream (state.trans following)]
      exact moved.updPlay rfl fun p => { p with run := .followWait }
    · rw [atTakeEnd_of_claimed stream (state.trans claimed), raiseEnd_of_clear stream (by rw [moved.1]; exact clear)]
      have ended := moved.endWritten rfl {}
      simpa [Channel.afterEnd, Play.afterEnd] using ended

/-- Settles O57: the frame period of a capture, of a play by its run, of a read-back, and of a channel that does nothing; a
muted frame and a skip. -/
theorem framePeriods : Obligations.FramePeriods := by
  unfold Obligations.FramePeriods
  refine ⟨fun ch s c awake capture running => ⟨fun below => ⟨_, ?_, capturePeriod_of_below capture running below⟩,
      fun reached bound room => framePeriod_capture_facts ch awake capture running reached bound room⟩,
    fun ch s p i off b awake play running free below located within =>
      ⟨_, exec_framePeriod_of_running ch awake play running free below, (readClaimed_choose ch (ChannelSetTo.refl s ch) play rfl rfl rfl located within).facts⟩,
    fun ch s p awake play paused held => ⟨s.setPosition ch (s.movedPos p p.shuttle 8), ?_, ?_⟩, fun ch s quiet => ?_,
    fun ch s p awake play waits => framePeriod_followWait_facts ch awake play waits,
    fun ch s r awake readback => framePeriod_readback_facts ch awake readback,
    fun ch s p i off n pos b awake play running free clear more up bound frames below located above mute advance =>
      framePeriod_mute_facts ch awake play running free clear more up bound frames below located above mute advance,
    fun ch s p i off b awake play running free below located above skip =>
      framePeriod_skip_facts ch awake play running free below located above skip⟩
  · rw [exec_framePeriod, framePeriodOf_of_capture awake capture]
  · rw [exec_framePeriod, framePeriodOf_of_play awake play, playPeriod_of_shuttle paused held]
  · have positioned := (ChannelSetTo.refl s ch).setPosition play (s.movedPos p p.shuttle 8)
    have at_ : s.movedPos p p.shuttle 8 = if p.shuttle = .rewind then p.pos - 8 * 64
        else min (p.pos + 8 * 64) (s.playFrames p * 64) := by
      cases shuttle : p.shuttle with
      | none => exact absurd shuttle held
      | rewind => rfl
      | forward => rfl
    rw [at_] at positioned ⊢
    exact positioned
  · rw [exec_framePeriod, framePeriodOf_of_quiet quiet]

end Sys2Proof.Machine
end

section
/-! ## Extents that become DAMAGED

A job's tail lost to an uncorrectable check, and the new destination of a frame in flight there (R35, R41, R109 to R111). -/

set_option Elab.async false

namespace Sys2Proof.Machine
open State

/-- A key that does not hold the default is listed. -/
theorem Table.mem_of_get_ne {α : Type} {d : α} {t : List (Nat × α)} {k : Nat} (ne : Table.get d t k ≠ d) :
    (k, Table.get d t k) ∈ t := by
  induction t with
  | nil => exact absurd rfl ne
  | cons x rest ih =>
    obtain ⟨j, w⟩ := x
    rw [Table.get] at ne ⊢
    by_cases here : k = j
    · subst here
      rw [if_pos rfl]
      exact List.mem_cons_self
    · rw [if_neg here] at ne ⊢
      exact List.mem_cons_of_mem _ (ih ne)

/-- A job's tail is an extent. -/
def Job.tailIs (x : Job) (e : Nat) : Bool := match x.tail with | some t => t.extent == e | none => false

theorem Job.tailIs_iff (x : Job) (e : Nat) : x.tailIs e = true ↔ ∃ t, x.tail = some t ∧ t.extent = e := by
  unfold Job.tailIs
  cases x.tail <;> simp

theorem tailOwner_eq_find? (s : State) (e : Nat) :
    s.tailOwner e = (s.jobs.find? fun p => p.2.tailIs e).map Prod.fst := rfl

/-- The only job whose tail an extent is owns it. -/
theorem tailOwner_eq {s : State} {j e : Nat} {t : Tail} (tail : (s.job j).tail = some t) (extent : t.extent = e)
    (only : ∀ y ∈ s.jobs, ∀ z, y.2.tail = some z → z.extent = e → y.1 = j) : s.tailOwner e = some j := by
  have listed : (j, s.job j) ∈ s.jobs := Table.mem_of_get_ne fun unlisted => by
    rw [State.job, unlisted] at tail
    cases tail
  have some_ : (s.jobs.find? fun p => p.2.tailIs e).isSome :=
    List.find?_isSome.2 ⟨_, listed, ((s.job j).tailIs_iff e).2 ⟨t, tail, extent⟩⟩
  obtain ⟨p, found⟩ := Option.isSome_iff_exists.1 some_
  have holds : p.2.tailIs e = true := List.find?_some (p := fun p : Nat × Job => p.2.tailIs e) found
  obtain ⟨z, own, same⟩ := (p.2.tailIs_iff e).1 holds
  rw [tailOwner_eq_find?, found, Option.map_some, only p (List.mem_of_find?_eq_some found) z own same]

theorem refDown_of_damaged {s : State} {e : Nat} (damaged : (s.ext e).state = .damaged) : s.refDown e = countLowered s e := by
  have other : ((countLowered s e).ext e).state ≠ .inUse := by
    rw [ext_countLowered]
    exact fun used => nomatch damaged.symm.trans used
  rw [refDown_eq, dispose_of_other other]
  exact ite_self _

/-- The state in which a job has lost its tail to a DAMAGED extent. -/
def tailLost (s : State) (j e : Nat) : State := countLowered (s.updJob j fun x => { x with tail := none }) e

theorem dropTail_of_damaged {s : State} {j e : Nat} {t : Tail} (tail : (s.job j).tail = some t) (extent : t.extent = e)
    (damaged : (s.ext e).state = .damaged) : s.dropTail j = tailLost s j e := by
  subst extent
  rw [dropTail, tail]
  exact refDown_of_damaged damaged

section TailLost
variable (s : State) (j e : Nat)

theorem job_tailLost : (tailLost s j e).job j = { s.job j with tail := none } := job_setJob s j _

theorem job_tailLost_ne {k : Nat} (other : k ≠ j) : (tailLost s j e).job k = s.job k := job_setJob_ne s j _ k other

theorem ext_tailLost : (tailLost s j e).ext e = { s.ext e with refs := (s.ext e).refs - 1 } :=
  ext_countLowered (s.updJob j fun x => { x with tail := none }) e

theorem ext_tailLost_ne {x : Nat} (other : x ≠ e) : (tailLost s j e).ext x = s.ext x :=
  ext_countLowered_ne (s.updJob j fun x => { x with tail := none }) other

theorem tailLost_frame : tailLost s j e = { s with jobs := (tailLost s j e).jobs, exts := (tailLost s j e).exts } := rfl

end TailLost

section Owner
variable {s : State} {j e : Nat} {t : Tail} (tail : (s.job j).tail = some t) (extent : t.extent = e)
  (only : ∀ y ∈ s.jobs, ∀ z, y.2.tail = some z → z.extent = e → y.1 = j) (damaged : (s.ext e).state = .damaged)
include tail extent only damaged

theorem loseTail_of_quiet (quiet : (s.job j).chan = none) : s.loseTail e = tailLost s j e := by
  have chan : ((tailLost s j e).job j).chan = none := by rw [job_tailLost]; exact quiet
  rw [loseTail, tailOwner_eq tail extent only]
  dsimp only
  rw [dropTail_of_damaged tail extent damaged, chan]

theorem loseTail_of_capture {ch : Nat} (captures : (s.job j).chan = some ch) :
    s.loseTail e = redestine ch ((tailLost s j e).jobRef j) e [] (s.placement ch).inflight (tailLost s j e) := by
  have chan : ((tailLost s j e).job j).chan = some ch := by rw [job_tailLost]; exact captures
  rw [loseTail, tailOwner_eq tail extent only]
  dsimp only
  rw [dropTail_of_damaged tail extent damaged, chan]
  rfl

end Owner

/-! ### A new destination for the frame in flight (R35, R41) -/

theorem mem_notices_raise {s : State} {m : ConsoleNotice} (mem : m ∈ s.notices) (n : ConsoleNotice) :
    m ∈ (s.raise n).notices := by
  unfold State.raise
  split
  · exact List.mem_append_left _ mem
  · exact mem

theorem mem_notices_testLow {s : State} {m : ConsoleNotice} (mem : m ∈ s.notices) : m ∈ s.testLow.notices := by
  rw [testLow_eq]
  split
  · exact mem_notices_raise (s := { s with lowArmed := false }) mem _
  split
  · exact mem
  · exact mem

/-- What a new destination for the only frame in flight leaves. -/
structure Redestined (s u : State) (ch j y : Nat) (rest : List Nat) (x : Entry) : Prop where
  freeList : u.freeList = rest
  ext : u.ext y = { s.ext y with state := .inUse, refs := 1 }
  exts : ∀ e, e ≠ y → u.ext e = s.ext e
  job : u.job j = { s.job j with tail := some { extent := y, fill := 1 } }
  jobs : ∀ k, k ≠ j → u.job k = s.job k
  inflight : (u.placement ch).inflight = [{ x with extent := y, frame := 0, status := .writing }]
  notices : ∀ n ∈ s.notices, n ∈ u.notices
  chans : u.chans = s.chans
  segs : u.segs = s.segs
  takes : u.takes = s.takes

/-- The state in which the frame in flight has its new destination. -/
def destGiven (s : State) (j y : Nat) (rest : List Nat) : State :=
  (extAllocated s y rest).updJob j fun x => { x with tail := some { extent := y, fill := 1 } }

theorem mem_notices_extAllocated {s : State} {n : ConsoleNotice} (mem : n ∈ s.notices) (y : Nat) (rest : List Nat) :
    n ∈ (extAllocated s y rest).notices :=
  mem_notices_testLow (s := { s.setExt y { s.ext y with state := .inUse, refs := 1 } with freeList := rest }) mem

theorem extAllocated_frame (s : State) (y : Nat) (rest : List Nat) : extAllocated s y rest = { s with
    exts := (extAllocated s y rest).exts, freeList := rest, lowArmed := (extAllocated s y rest).lowArmed
    notices := (extAllocated s y rest).notices, overflowed := (extAllocated s y rest).overflowed } := by
  have frame := testLow_frame { s.setExt y { s.ext y with state := .inUse, refs := 1 } with freeList := rest }
  unfold extAllocated
  generalize testLow { s.setExt y { s.ext y with state := .inUse, refs := 1 } with freeList := rest } = u at frame
  rw [frame]
  rfl

theorem redestined_redestine {s : State} {ch y : Nat} {r : Ref} {rest : List Nat} {x : Entry}
    (tail : (s.job r.idx).tail = none) (free : s.freeList = y :: rest) :
    Redestined s (redestine ch r x.extent [] [x] s) ch r.idx y rest x := by
  have withdrawn : s.withdrawWrite ch x.extent x.frame = { s with
    waiting := (s.withdrawWrite ch x.extent x.frame).waiting, port := (s.withdrawWrite ch x.extent x.frame).port } := rfl
  have dest : (s.withdrawWrite ch x.extent x.frame).newDest r.idx =
      (destGiven (s.withdrawWrite ch x.extent x.frame) r.idx y rest, some (y, 0)) :=
    newDest_of_free (by exact tail) (by exact free)
  have frame := extAllocated_frame (s.withdrawWrite ch x.extent x.frame) y rest
  have ext := ext_extAllocated (s.withdrawWrite ch x.extent x.frame) y rest
  have exts (e : Nat) (ne : e ≠ y) := ext_extAllocated_ne (s.withdrawWrite ch x.extent x.frame) rest ne
  have notices (n : ConsoleNotice) (mem : n ∈ s.notices) := mem_notices_extAllocated
    (s := s.withdrawWrite ch x.extent x.frame) mem y rest
  rw [redestine, if_pos rfl, dest]
  dsimp only [redestine, destGiven, List.reverse_singleton]
  generalize s.withdrawWrite ch x.extent x.frame = w at withdrawn frame ext exts notices
  generalize extAllocated w y rest = v at frame ext exts notices
  have job (k : Nat) : v.job k = s.job k := by rw [frame, withdrawn]; rfl
  have given : (v.updJob r.idx fun x => { x with tail := some { extent := y, fill := 1 } }).job r.idx =
      { s.job r.idx with tail := some { extent := y, fill := 1 } } := by
    rw [updJob_eq, job_setJob, job]
  have others (k : Nat) (ne : k ≠ r.idx) :
      (v.updJob r.idx fun x => { x with tail := some { extent := y, fill := 1 } }).job k = s.job k := by
    rw [updJob_eq, job_setJob_ne _ _ _ _ ne, job]
  have updated : (v.updJob r.idx fun x => { x with tail := some { extent := y, fill := 1 } }) = { v with
    jobs := (v.updJob r.idx fun x => { x with tail := some { extent := y, fill := 1 } }).jobs } := rfl
  generalize (v.updJob r.idx fun x => { x with tail := some { extent := y, fill := 1 } }) = z at given others updated
  have claimed := makeClaim_frame z { extent := y, frame := 0, use := .capture ch r x.data }
  generalize z.makeClaim { extent := y, frame := 0, use := .capture ch r x.data } = u at claimed
  have extU (e : Nat) : u.ext e = v.ext e := by rw [claimed, updated]; rfl
  have extW (e : Nat) : w.ext e = s.ext e := by rw [withdrawn]; rfl
  have jobU (k : Nat) : u.job k = z.job k := by rw [claimed]; rfl
  refine ⟨?_, (extU y).trans ?_, fun e ne => (extU e).trans ((exts e ne).trans (extW e)), (jobU _).trans given,
    fun k ne => (jobU k).trans (others k ne), ?_, fun n mem => ?_, ?_, ?_, ?_⟩
  · change u.freeList = rest
    rw [claimed, updated, frame]
  · rw [ext, extW]
  · rw [updPlacement_eq, placement_setPlacement]
    rfl
  · change n ∈ u.notices
    rw [claimed, updated]
    exact notices n mem
  · change u.chans = s.chans
    rw [claimed, updated, frame, withdrawn]
  · change u.segs = s.segs
    rw [claimed, updated, frame, withdrawn]
  · change u.takes = s.takes
    rw [claimed, updated, frame, withdrawn]

end Sys2Proof.Machine
end

section
/-! ## Play reads

What a play or read-back read leaves as it completes: the frame sent with its advance (R139, R157, R158), MATCH (R140), END
(R141, R142), a read-back (R130, R131), and an extent that becomes DAMAGED (R109 to R111). -/

set_option Elab.async false

namespace Sys2Proof.Machine
open State

/-! ### The access that has completed -/

section Done
variable {s : State} {a : Access} {ch : Nat} (check : Bool) (port : s.port = some a) (use : a.claim.use = .play ch)
include port use

theorem exec_playReadCompletion :
    exec (.playReadCompletion check) s = .next (s.playReadDone a ch check) := by
  change Host.Outcome.next _ = _
  rw [port]
  dsimp only
  rw [use]

theorem exec_playReadCompletion_of_unwanted (unwanted : a.live = false) :
    exec (.playReadCompletion check) s = .next (accessDone s a check) := by
  rw [exec_playReadCompletion check port use, playReadDone, unwanted]
  rfl

theorem exec_playReadCompletion_of_play (live : a.live = true) {p : Play} {x : Chosen}
    (play : ((accessDone s a check).chan ch).stream = .play p) (chosen : p.read = some x) :
    exec (.playReadCompletion check) s = .next ((accessDone s a check).frameSent ch x.prof x.pace check check
      (if check then 0 else s.readFrame a.claim.extent a.claim.frame)) := by
  rw [exec_playReadCompletion check port use, playReadDone, live]
  change Host.Outcome.next (match ((accessDone s a check).chan ch).stream with
    | .play p => _
    | .readback r => _
    | .idle | .capture _ | .exporting _ => _) = _
  rw [play]
  dsimp only
  rw [chosen]
  rfl

theorem exec_playReadCompletion_of_readback (live : a.live = true) {r : Readback} {x : Chosen}
    (readback : ((accessDone s a check).chan ch).stream = .readback r) (chosen : r.read = some x) :
    exec (.playReadCompletion check) s = .next ((accessDone s a check).readbackSent ch x.prof x.pace check
      (if check then 0 else s.readFrame a.claim.extent a.claim.frame)) := by
  rw [exec_playReadCompletion check port use, playReadDone, live]
  change Host.Outcome.next (match ((accessDone s a check).chan ch).stream with
    | .play p => _
    | .readback r => _
    | .idle | .capture _ | .exporting _ => _) = _
  rw [readback]
  dsimp only
  rw [chosen]
  rfl

end Done

/-- Two states show a play the same: the same map, channels and links. -/
structure SamePlay (s u : State) : Prop where
  map : SameMap s u
  chan : ∀ k, u.chan k = s.chan k
  link : ∀ k, u.link k = s.link k

namespace SamePlay
variable {s u : State} (h : SamePlay s u)
include h

theorem rateOf (ch : Nat) (prof : ProfId) (pace : Option Nat) : u.rateOf ch prof pace = s.rateOf ch prof pace := by
  rw [State.rateOf, State.rateOf, h.chan]

theorem sentPos (ch : Nat) (p : Play) (prof : ProfId) (pace : Option Nat) :
    Machine.sentPos u ch p prof pace = Machine.sentPos s ch p prof pace := by
  rw [Machine.sentPos, Machine.sentPos, h.rateOf, h.map.playFrames]

theorem sentSeg (p : Play) : Machine.sentSeg u p = Machine.sentSeg s p := by
  rw [Machine.sentSeg, Machine.sentSeg, h.map.segAt, h.map.playStart]

theorem sentCrosses (ch : Nat) (p : Play) (prof : ProfId) (pace : Option Nat) :
    Machine.sentCrosses u ch p prof pace = Machine.sentCrosses s ch p prof pace := by
  simp only [Machine.sentCrosses, h.sentPos, h.sentSeg, h.map.playFrames, h.map.playStart, h.map.segAt]

theorem playLeft {ch : Nat} {p q : Play} {prof : ProfId} {pace : Option Nat} {x : Channel}
    (left : PlayLeft u ch p prof pace x q) : PlayLeft s ch p prof pace x q := by
  obtain ⟨stream, job, take, read, pos, remaining, stack, lastSeg, below, claimed, following⟩ := left
  rw [h.sentPos] at pos below claimed following
  rw [h.map.playFrames] at below claimed following
  rw [h.sentCrosses, h.chan] at below
  rw [h.map.takeState] at claimed following
  exact ⟨stream, job, take, read, pos, remaining, stack, lastSeg.trans (h.sentSeg p), below, claimed, following⟩

end SamePlay

/-- A completed access that damages nothing changes the arbiter alone. -/
theorem accessDone_frame {s : State} {a : Access} {check : Bool}
    (known : check = true → (s.ext a.claim.extent).state = .damaged) : accessDone s a check = { s with
      waiting := (accessDone s a check).waiting, port := (accessDone s a check).port
      served := (accessDone s a check).served } := by
  have frame := endAccess_frame s a
  have done_ : accessDone s a check = s.endAccess a := by
    cases check with
    | false => rfl
    | true => exact damageByRead_of_damaged (by rw [endAccess_ext]; exact known rfl)
  rw [done_]
  generalize s.endAccess a = u at frame
  rw [frame]

theorem samePlay_accessDone {s : State} {a : Access} {check : Bool}
    (known : check = true → (s.ext a.claim.extent).state = .damaged) : SamePlay s (accessDone s a check) := by
  have frame := accessDone_frame known
  generalize accessDone s a check = u at frame
  exact ⟨by constructor <;> rw [frame], fun k => (congrArg (fun t : State => t.chan k) frame :),
    fun k => (congrArg (fun t : State => t.link k) frame :)⟩

/-! ### A read-back's frame (R130, R131) -/

/-- The position of a read-back after a frame sent (R130, R139). -/
def readbackPos (s : State) (ch : Nat) (r : Readback) (prof : ProfId) (pace : Option Nat) : Nat :=
  min (r.pos + s.rateOf ch prof pace) ((s.job r.job.idx).length * 64)

/-- A read-back whose frame has been sent. -/
def readbackAdvanced (s : State) (ch : Nat) (r : Readback) (prof : ProfId) (pace : Option Nat) : Readback :=
  { r with read := none, pos := readbackPos s ch r prof pace, lastSeg := s.segAt r.job.idx (r.pos / 64) }

/-- The state after a read-back's frame, before the test of its END. -/
def readbackCrossed (s : State) (ch : Nat) (r : Readback) (prof : ProfId) (pace : Option Nat) (damaged : Bool) (data : Frame) :
    State :=
  ((s.handOver ch (.frame damaged damaged data)).updReadback ch fun _ => readbackAdvanced s ch r prof pace).crossAt ch r.job.idx
    (readbackPos s ch r prof pace / 64) (decide (readbackPos s ch r prof pace / 64 < (s.job r.job.idx).length))
    (s.segAt r.job.idx (r.pos / 64))

section Readback
variable {s : State} {ch : Nat} {r : Readback} (readback : (s.chan ch).stream = .readback r)
include readback

theorem readbackSent_eq (prof : ProfId) (pace : Option Nat) (damaged : Bool) (data : Frame) :
    s.readbackSent ch prof pace damaged data =
      if (s.job r.job.idx).length * 64 ≤ readbackPos s ch r prof pace then
        (readbackCrossed s ch r prof pace damaged data).readbackEnded ch (readbackAdvanced s ch r prof pace)
      else readbackCrossed s ch r prof pace damaged data := by
  rw [readbackSent, readbackOf_eq readback]
  rfl

omit readback in
theorem ChannelSetTo.updReadback {u v : State} {x : Channel} {q : Readback} (h : ChannelSetTo u v ch x)
    (stream : x.stream = .readback q) (f : Readback → Readback) :
    ChannelSetTo u (v.updReadback ch f) ch { x with stream := .readback (f q) } := by
  rw [updReadback_eq (by rw [h.1]; exact stream), h.1]
  exact h.setChan _

theorem readbackCrossed_setTo (prof : ProfId) (pace : Option Nat) (damaged : Bool) (data : Frame) :
    ChannelSetTo (s.handOver ch (.frame damaged damaged data)) (readbackCrossed s ch r prof pace damaged data) ch
      { (s.chan ch).crossedIf (decide (readbackPos s ch r prof pace / 64 < (s.job r.job.idx).length ∧
          s.segAt r.job.idx (readbackPos s ch r prof pace / 64) ≠ s.segAt r.job.idx (r.pos / 64))) with
        stream := .readback (readbackAdvanced s ch r prof pace) } := by
  have chan : (s.handOver ch (.frame damaged damaged data)).chan ch = s.chan ch := handOver_chan s ch _ ch
  have sent := (ChannelSetTo.refl (s.handOver ch (.frame damaged damaged data)) ch).updReadback (q := r)
    (by rw [chan]; exact readback) fun _ => readbackAdvanced s ch r prof pace
  have same : SameMap s (s.handOver ch (.frame damaged damaged data)) :=
    ⟨handOver_jobs .., handOver_segs .., handOver_cues .., handOver_takes ..⟩
  have crossed := sent.crossAt r.job.idx (readbackPos s ch r prof pace / 64)
    (decide (readbackPos s ch r prof pace / 64 < (s.job r.job.idx).length)) (s.segAt r.job.idx (r.pos / 64))
  rw [(same.trans (.of_channelSetTo sent)).segAt, chan, Channel.crossedIf_withStream] at crossed
  simp only [decide_eq_true_eq] at crossed
  exact crossed

end Readback

/-- What a read-back's completed read leaves, before a notice of END. -/
structure ReadbackLeft (s v : State) (ch : Nat) (r : Readback) (prof : ProfId) (pace : Option Nat) (damaged : Bool)
    (data : Frame) : Prop where
  link : (v.link ch).unsent = (s.link ch).unsent ++ [.frame damaged damaged data]
  below : readbackPos s ch r prof pace < (s.job r.job.idx).length * 64 →
    v.chan ch = { (if s.segAt r.job.idx (readbackPos s ch r prof pace / 64) = s.segAt r.job.idx (r.pos / 64) then s.chan ch
        else (s.chan ch).cross) with
      stream := .readback { r with
        read := none, pos := readbackPos s ch r prof pace, lastSeg := s.segAt r.job.idx (r.pos / 64) } }
  ended : (s.job r.job.idx).length * 64 ≤ readbackPos s ch r prof pace → v.chan ch = { s.chan ch with
    stream := .capture { job := r.job, ctx := r.parked }, suspended := false, noContinuation := true }
  others : ∀ k, k ≠ ch → v.link k = s.link k ∧ v.chan k = s.chan k
  frame : v = { s with
    chans := v.chans, links := v.links, waiting := v.waiting, reserved := v.reserved, port := v.port, served := v.served }

theorem readbackSent_facts {s : State} {ch : Nat} {r : Readback} (readback : (s.chan ch).stream = .readback r)
    (up : (s.link ch).up = true) (bound : (s.chan ch).binding = .link) (prof : ProfId) (pace : Option Nat) (damaged : Bool)
    (data : Frame) : ∃ v, s.readbackSent ch prof pace damaged data =
        (if (s.job r.job.idx).length * 64 ≤ readbackPos s ch r prof pace ∧ (s.chan ch).matrix.endNotify = true then
          v.placeNotice { chan := ch, cause := .ended, action := .stopped, job := r.job
                          pos := (s.job r.job.idx).length * 64 } false else v) ∧
      ReadbackLeft s v ch r prof pace damaged data := by
  have crossed := readbackCrossed_setTo readback prof pace damaged data
  have handed := frameHanded_of_channelSetTo up bound crossed
  rw [readbackSent_eq readback]
  generalize readbackCrossed s ch r prof pace damaged data = w at crossed handed
  have kept := handed.frame
  by_cases ended : (s.job r.job.idx).length * 64 ≤ readbackPos s ch r prof pace
  · have stays : ¬(readbackPos s ch r prof pace / 64 < (s.job r.job.idx).length) := by omega
    have chan : w.chan ch = { s.chan ch with stream := .readback (readbackAdvanced s ch r prof pace) } := by
      rw [handed.chan, decide_eq_false (fun h => stays h.1)]
      rfl
    have length : (w.job r.job.idx).length = (s.job r.job.idx).length :=
      (congrArg (fun t : State => (t.job r.job.idx).length) kept :)
    have left := readbackLeft_haltedTo w ch (readbackAdvanced s ch r prof pace)
    rw [if_pos ended, readbackEnded_eq, chan]
    refine ⟨readbackLeft w ch (readbackAdvanced s ch r prof pace), ?_, ?_, fun below => absurd ended (Nat.not_le.2 below), fun _ => ?_, fun k ne => ?_, ?_⟩
    · simp only [ended, true_and]
      rw [show (w.job (readbackAdvanced s ch r prof pace).job.idx).length = (s.job r.job.idx).length from length]
      rfl
    all_goals
      generalize readbackLeft w ch (readbackAdvanced s ch r prof pace) = v at left
      obtain ⟨own, others, -, -, frame⟩ := left
    · have link : v.link ch = w.link ch := (congrArg (fun t : State => t.link ch) frame :)
      rw [link, handed.link]
    · rw [own, chan]
      rfl
    · have link : v.link k = w.link k := (congrArg (fun t : State => t.link k) frame :)
      exact ⟨link.trans (handed.links k ne), (others k ne).trans (handed.chans k ne)⟩
    · rw [frame, kept]
  · rw [if_neg ended]
    refine ⟨w, (if_neg fun h => ended h.1).symm, by rw [handed.link], fun below => ?_, fun h => absurd h ended,
      fun k ne => ⟨handed.links k ne, handed.chans k ne⟩, by rw [kept]⟩
    rw [handed.chan, crossedIf_of_below below]
    rfl

/-! ### MATCH (R140) -/

/-- The action of a MATCH (R140). -/
def matchAction (m : Matrix) : Action := if m.matchChain then .chained else if m.matchReload then .reloaded else .stopped

/-- A play after a MATCH at a cue (R140). -/
def Play.matchedAt (p : Play) (m : Matrix) (start at_ : Nat) (cue : Ref) : Play :=
  if m.matchChain then p
  else if m.matchReload then { p with pos := p.base * 64, lastSeg := none }
  else { p with run := .paused, pos := (at_ - start) * 64, matched := some cue }

section Match
variable {z : State} {ch : Nat} {q : Play} (play : (z.chan ch).stream = .play q) (m : Matrix)
include play

theorem matchOutcome_setTo (i at_ : Nat) : ChannelSetTo z (z.matchOutcome ch i at_ m) ch
    { z.chan ch with stream := .play (q.matchedAt m (z.playStart q) at_ (z.cueRef i)) } := by
  unfold matchOutcome Play.matchedAt
  split
  · rw [← play]
    exact ChannelSetTo.refl z ch
  · split
    · exact (ChannelSetTo.refl z ch).updPlay play _
    · exact (ChannelSetTo.refl z ch).updPlay play _

variable {m}

/-- The channel after a MATCH whose notice finds the slot empty (R140, R119). -/
theorem chan_takeMatch (matrix : (z.chan ch).matrix = m) (empty : (z.chan ch).slot = none) (i at_ : Nat) :
    (z.takeMatch ch i at_).chan ch = { z.chan ch with
      stream := .play (q.matchedAt m (z.playStart q) at_ (z.cueRef i))
      slot := if m.matchNotify then some (playNotice ch (q.matchedAt m (z.playStart q) at_ (z.cueRef i)) .matched
        (matchAction m) (some (z.cueRef i))) else none } := by
  subst matrix
  have outcome := matchOutcome_setTo play (z.chan ch).matrix i at_
  rw [takeMatch]
  dsimp only
  generalize z.matchOutcome ch i at_ (z.chan ch).matrix = w at outcome
  obtain ⟨chan, -, -⟩ := outcome
  have stream : w.playOf ch = some (q.matchedAt (z.chan ch).matrix (z.playStart q) at_ (z.cueRef i)) := playOf_eq (by rw [chan])
  rw [stream]
  cases (z.chan ch).matrix.matchNotify with
  | false =>
    dsimp only
    rw [chan, if_neg Bool.false_ne_true, ← empty]
  | true =>
    dsimp only
    rw [placeNotice_of_empty (n := playNotice ch _ _ _ _) (by exact (congrArg Channel.slot chan).trans empty), sendNotice_chan]
    refine (chan_setChan w ch _).trans ?_
    rw [show w.chan (playNotice ch _ _ _ _).chan = _ from chan]
    rfl

end Match

/-! ### END with a chain made (R84, R141) -/

theorem tryFeed_of_barred {s : State} {ch : Nat} {m : Matrix}
    (barred : m.endChain = false ∨ 4 ≤ s.hold (s.link ch).person ∨ (∀ k ∈ s.ready, ∀ b, (s.take k).body = some b →
      (s.link ch).elig.getLsbD (s.job b.job.idx).cls.code = false)) : s.tryFeed ch m = none := by
  rcases barred with unchained | many | none_
  · exact tryFeed_of_unchained unchained
  · rw [tryFeed, feedClaim]
    exact (ite_congr rfl (fun _ => if_pos many) fun _ => rfl).trans (ite_self _)
  · have found := firstEligible_of_none none_
    rw [tryFeed, feedClaim, found]
    split
    · split <;> rfl
    · rfl

theorem tryFeed_of_found {s : State} {ch i : Nat} {m : Matrix} (chained : m.endChain = true)
    (few : s.hold (s.link ch).person < 4) (found : s.firstEligible (s.link ch).elig = some i) :
    s.tryFeed ch m = some (s.giveTake i (s.link ch).person, i) := by
  rw [tryFeed, if_pos chained, feedClaim, if_neg (Nat.not_le.2 few), found]

theorem chainInto_setTo {s v : State} {ch i : Nat} {x : Channel} {q : Play} {b : TakeBody} (set : ChannelSetTo s v ch x)
    (play : x.stream = .play q) (p : Play) (body : (v.take i).body = some b) :
    ChannelSetTo s (v.chainInto ch p i) ch { x with
      stream := .play { q with
        job := b.job, take := v.takeRef i, pos := b.resume.getD 0, base := 0, remaining := p.baseCount, stack := []
        matched := none, lastSeg := none, read := none, run := .running }
      chainAbort := false } := by
  rw [chainInto, body]
  exact (set.updPlay play _).updChan _

section Fed
variable {s : State} {ch i : Nat} {p : Play} {m : Matrix} {b : TakeBody} (play : (s.chan ch).stream = .play p)
  (matrix : (s.chan ch).matrix = m) (chained : m.endChain = true) (few : s.hold (s.link ch).person < 4)
  (found : s.firstEligible (s.link ch).elig = some i) (body : (s.take i).body = some b) (other : p.take.idx ≠ i)
include play matrix chained few found body other

/-- The state of END with a chain made, before its notice (R141). -/
def endFed (s : State) (ch i : Nat) (p : Play) : State :=
  ((s.giveTake i (s.link ch).person).writeResume p.take p.pos).chainInto ch p i

omit matrix chained few found in
theorem endFed_setTo : ChannelSetTo ((s.giveTake i (s.link ch).person).writeResume p.take p.pos) (endFed s ch i p) ch
    { s.chan ch with
      stream := .play { p with
        job := b.job, take := ⟨i, (s.take i).issue⟩, pos := b.resume.getD 0, base := 0, remaining := p.baseCount
        stack := [], matched := none, lastSeg := none, read := none, run := .running }
      chainAbort := false } := by
  have given := body_giveTake (n := (s.link ch).person) body
  have issue : ((s.giveTake i (s.link ch).person).take i).issue = (s.take i).issue := by
    rw [giveTake_eq body]
    exact (congrArg Take.issue (take_setTake (s.leaveQueue i) i _) :)
  have chan : (s.giveTake i (s.link ch).person).chan ch = s.chan ch := by
    rw [giveTake_eq body]
    rfl
  unfold endFed
  generalize s.giveTake i (s.link ch).person = v at given issue chan
  have kept : (v.writeResume p.take p.pos).take i = v.take i := take_writeResume_ne v p.take p.pos (Ne.symm other)
  have chan' : (v.writeResume p.take p.pos).chan ch = s.chan ch := by
    rw [← chan]
    rfl
  have fed := chainInto_setTo (ChannelSetTo.refl (v.writeResume p.take p.pos) ch) (by rw [chan']; exact play) p
    (by rw [kept]; exact given)
  rw [chan', show (v.writeResume p.take p.pos).takeRef i = ⟨i, (s.take i).issue⟩ by rw [takeRef, kept, issue]] at fed
  exact fed

omit body other in
theorem raiseEnd_of_fed : s.raiseEnd ch = if m.endNotify = true then
    (endFed s ch i p).placeNotice (playNotice ch p .ended .chained) true else endFed s ch i p := by
  rw [raiseEnd, playOf_eq play]
  dsimp only
  rw [matrix, tryFeed_of_found chained few found]
  rfl

/-- What END with a chain made leaves (R84, R141). -/
theorem raiseEnd_fed_facts (empty : (s.chan ch).slot = none) :
    (s.raiseEnd ch).chan ch = { s.chan ch with
      stream := .play { p with
        job := b.job, take := ⟨i, (s.take i).issue⟩, pos := b.resume.getD 0, base := 0, remaining := p.baseCount
        stack := [], matched := none, lastSeg := none, read := none, run := .running }
      chainAbort := false
      slot := if m.endNotify then some
          { chan := ch, cause := .ended, action := .chained, job := p.job, take := some p.take, pos := p.pos }
        else none } ∧
    ((s.raiseEnd ch).take i).body = some { b with
      typist := some (s.link ch).person, state := if b.state = .opened then .following else .claimed } ∧
    (s.raiseEnd ch).take p.take.idx = { s.take p.take.idx with
      body := (s.take p.take.idx).body.map fun x => { x with resume := some p.pos } } ∧
    (s.raiseEnd ch).hold (s.link ch).person = s.hold (s.link ch).person + 1 ∧
    (s.raiseEnd ch).ready = s.ready.filter fun k => k != i := by
  obtain ⟨chan, -, frame⟩ := endFed_setTo play body other
  have given := body_giveTake (n := (s.link ch).person) body
  have taken := take_giveTake_ne s (s.link ch).person other
  have hold := hold_giveTake s i (s.link ch).person
  have ready : (s.giveTake i (s.link ch).person).ready = s.ready.filter fun k => k != i := by
    rw [giveTake_eq body]
    rfl
  rw [raiseEnd_of_fed play matrix chained few found]
  generalize endFed s ch i p = u at chan frame
  generalize s.giveTake i (s.link ch).person = v at given taken hold ready frame
  have resumed := take_writeResume v p.take p.pos
  have kept : (v.writeResume p.take p.pos).take i = v.take i := take_writeResume_ne v p.take p.pos (Ne.symm other)
  have holdKept : (v.writeResume p.take p.pos).hold (s.link ch).person = v.hold (s.link ch).person := rfl
  have readyKept : (v.writeResume p.take p.pos).ready = v.ready := rfl
  generalize v.writeResume p.take p.pos = w at resumed kept holdKept readyKept frame
  have takeU (k : Nat) : u.take k = w.take k := (congrArg (fun t : State => t.take k) frame :)
  have holdU : u.hold (s.link ch).person = w.hold (s.link ch).person :=
    (congrArg (fun t : State => t.hold (s.link ch).person) frame :)
  have readyU : u.ready = w.ready := (congrArg State.ready frame :)
  have facts : (u.take i).body = some { b with
        typist := some (s.link ch).person, state := if b.state = .opened then .following else .claimed } ∧
      u.take p.take.idx = { s.take p.take.idx with
        body := (s.take p.take.idx).body.map fun x => { x with resume := some p.pos } } ∧
      u.hold (s.link ch).person = s.hold (s.link ch).person + 1 ∧ u.ready = s.ready.filter fun k => k != i :=
    ⟨by rw [takeU, kept]; exact given, by rw [takeU, resumed, taken], by rw [holdU, holdKept, hold],
      by rw [readyU, readyKept, ready]⟩
  cases notify : m.endNotify with
  | false =>
    rw [if_neg Bool.false_ne_true, if_neg Bool.false_ne_true, ← empty]
    exact ⟨chan, facts⟩
  | true =>
    rw [if_pos rfl, if_pos rfl]
    refine ⟨?_, ?_⟩
    · rw [placeNotice_of_empty (n := playNotice ch p .ended .chained) (by exact (congrArg Channel.slot chan).trans empty),
        sendNotice_chan]
      refine (chan_setChan u ch _).trans ?_
      rw [show u.chan (playNotice ch p .ended .chained).chan = _ from chan]
      rfl
    · rw [placeNotice_take, placeNotice_take, placeNotice_hold, placeNotice_ready]
      exact facts

end Fed

/-- What END with no chain made leaves, with its notice in an empty slot (R141). -/
theorem raiseEnd_unfed_facts {s : State} {ch : Nat} {p : Play} {m : Matrix} (play : (s.chan ch).stream = .play p)
    (matrix : (s.chan ch).matrix = m) (empty : (s.chan ch).slot = none) (unfed : s.tryFeed ch m = none) :
    (s.raiseEnd ch).takes = s.takes ∧ (s.raiseEnd ch).ready = s.ready ∧ (s.raiseEnd ch).chan ch = { s.chan ch with
      stream := .play (if m.endReload then
          { p with pos := p.base * 64, remaining := p.baseCount, lastSeg := none, run := .running }
        else { p with run := .paused })
      chainAbort := (s.chan ch).chainAbort || m.endChain
      noContinuation := (s.chan ch).noContinuation || !m.endReload
      slot := if m.endChain = true ∨ m.endNotify = true then some
          { chan := ch, cause := if m.endChain then .chainAbort else .ended
            action := if m.endReload then .reloaded else .stopped, job := p.job, take := some p.take
            pos := if m.endReload then p.base * 64 else p.pos }
        else none } := by
  obtain ⟨chan, -, frame⟩ := (ChannelSetTo.refl s ch).endWritten play m
  have pos : (p.afterEnd m).pos = if m.endReload then p.base * 64 else p.pos := by
    unfold Play.afterEnd
    split <;> rfl
  rw [raiseEnd_of_unfed play matrix unfed, pos]
  generalize endWritten s ch p m = u at chan frame
  have takes : u.takes = s.takes := (congrArg State.takes frame :)
  have ready : u.ready = s.ready := (congrArg State.ready frame :)
  by_cases notified : m.endChain = true ∨ m.endNotify = true
  · rw [if_pos notified, if_pos notified]
    refine ⟨(placeNotice_takes ..).trans takes, (placeNotice_ready ..).trans ready, ?_⟩
    generalize at_ : ({ chan := ch, cause := _, action := _, job := _, take := _, pos := _ } : Notice) = n
    obtain rfl : n.chan = ch := by rw [← at_]
    rw [placeNotice_of_empty (by rw [chan]; exact empty), sendNotice_chan, chan_setChan, chan]
    rfl
  · rw [if_neg notified, if_neg notified, ← empty]
    exact ⟨takes, ready, chan⟩

end Sys2Proof.Machine
end

section
/-! ## Play reads: what their completion leaves

The clauses of PLAY_READ_COMPLETION (R108 to R111, R139 to R142, R157 to R159). -/

set_option Elab.async false

namespace Sys2Proof.Machine
open State

/-- A read-back's read completed (R130, R131). -/
theorem playRead_readback_facts (check : Bool) {s : State} {a : Access} {ch n pos : Nat} {r : Readback} {x : Chosen}
    (port : s.port = some a) (use : a.claim.use = .play ch) (live : a.live = true)
    (readback : (s.chan ch).stream = .readback r) (chosen : r.read = some x) (up : (s.link ch).up = true)
    (bound : (s.chan ch).binding = .link) (known : check = true → (s.ext a.claim.extent).state = .damaged)
    (length : n = (s.job r.job.idx).length) (advance : pos = min (r.pos + s.rateOf ch x.prof x.pace) (n * 64)) :
    ∃ v : State,
      exec (.playReadCompletion check) s = .next (if n * 64 ≤ pos ∧ (s.chan ch).matrix.endNotify = true then
          v.placeNotice { chan := ch, cause := .ended, action := .stopped, job := r.job, pos := n * 64 } false else v) ∧
      (v.link ch).unsent = (s.link ch).unsent ++
        [.frame check check (if check then 0 else s.readFrame a.claim.extent a.claim.frame)] ∧
      (pos < n * 64 → v.chan ch = { (if s.segAt r.job.idx (pos / 64) = s.segAt r.job.idx (r.pos / 64) then s.chan ch
          else (s.chan ch).cross) with
        stream := .readback { r with read := none, pos := pos, lastSeg := s.segAt r.job.idx (r.pos / 64) } }) ∧
      (n * 64 ≤ pos → v.chan ch = { s.chan ch with
        stream := .capture { job := r.job, ctx := r.parked }, suspended := false, noContinuation := true }) ∧
      (∀ k, k ≠ ch → v.link k = s.link k ∧ v.chan k = s.chan k) ∧ v.jobs = s.jobs ∧ v.segs = s.segs ∧ v.cues = s.cues ∧
      v.takes = s.takes ∧ v.exts = s.exts ∧ v.places = s.places ∧ v.notices = s.notices ∧ v.mem = s.mem := by
  have same := samePlay_accessDone known
  have frame := accessDone_frame known
  have run := exec_playReadCompletion_of_readback check port use live (by rw [same.chan]; exact readback) chosen
  generalize (if check = true then (0 : Frame) else s.readFrame a.claim.extent a.claim.frame) = data at run ⊢
  generalize accessDone s a check = t at same frame run
  have job : t.job r.job.idx = s.job r.job.idx := same.map.job _
  have at_ : readbackPos t ch r x.prof x.pace = pos := by
    rw [readbackPos, same.rateOf, job, advance, length]
  obtain ⟨v, sent, left⟩ := readbackSent_facts (s := t) (by rw [same.chan]; exact readback) (by rw [same.link]; exact up)
    (by rw [same.chan]; exact bound) x.prof x.pace check data
  obtain ⟨link, below, ended, others, kept⟩ := left
  rw [at_, job, ← length, same.chan, same.map.segAt, same.map.segAt] at below
  rw [at_, job, ← length, same.chan] at ended
  rw [at_, job, ← length, same.chan] at sent
  refine ⟨v, run.trans (congrArg _ sent), by rw [link, same.link], below, ended,
    fun k ne => ⟨(others k ne).1.trans (same.link k), (others k ne).2.trans (same.chan k)⟩, ?_⟩
  rw [kept, frame]
  exact ⟨rfl, rfl, rfl, rfl, rfl, rfl, rfl, rfl⟩

/-- A play's read completed under a clear matrix (R139, R141, R142). -/
theorem playRead_clear_facts (check : Bool) {s t : State} {a : Access} {ch : Nat} {p : Play} {x : Chosen}
    (port : s.port = some a) (use : a.claim.use = .play ch) (live : a.live = true) (play : (s.chan ch).stream = .play p)
    (chosen : p.read = some x) (running : p.run = .running) (clear : (s.chan ch).matrix = {}) (more : p.remaining ≠ 1)
    (up : (s.link ch).up = true) (bound : (s.chan ch).binding = .link) (done_ : accessDone s a check = t)
    (same : SamePlay s t) : ∃ u y q, exec (.playReadCompletion check) s = .next u ∧
      FrameHanded t u ch (.frame check check (if check then 0 else s.readFrame a.claim.extent a.claim.frame)) y ∧
      PlayLeft s ch p x.prof x.pace y q := by
  subst done_
  have stream : ((accessDone s a check).chan ch).stream = .play p := by rw [same.chan]; exact play
  obtain ⟨y, q, sent, left⟩ := frameSent_of_clear stream running (by rw [same.chan]; exact clear) more x.prof x.pace check
    check (if check then 0 else s.readFrame a.claim.extent a.claim.frame)
  exact ⟨_, y, q, exec_playReadCompletion_of_play check port use live stream chosen,
    frameHanded_of_channelSetTo (by rw [same.link]; exact up) (by rw [same.chan]; exact bound) sent, same.playLeft left⟩

/-- A play's read completed, its extent not newly damaged, under a clear matrix. -/
theorem playRead_plain_facts (check : Bool) {s : State} {a : Access} {ch n pos : Nat} {p : Play} {x : Chosen}
    (port : s.port = some a) (use : a.claim.use = .play ch) (live : a.live = true) (play : (s.chan ch).stream = .play p)
    (chosen : p.read = some x) (running : p.run = .running) (clear : (s.chan ch).matrix = {}) (more : p.remaining ≠ 1)
    (up : (s.link ch).up = true) (bound : (s.chan ch).binding = .link)
    (known : check = true → (s.ext a.claim.extent).state = .damaged) (frames : n = s.playFrames p)
    (advance : pos = min (p.pos + s.rateOf ch x.prof x.pace) (n * 64)) :
    ∃ (u : State) (q : Play), exec (.playReadCompletion check) s = .next u ∧
      (u.link ch).unsent = (s.link ch).unsent ++
        [.frame check check (if check then 0 else s.readFrame a.claim.extent a.claim.frame)] ∧
      (u.chan ch).stream = .play q ∧ q.job = p.job ∧ q.take = p.take ∧ q.read = none ∧ q.pos = pos ∧
      q.remaining = p.remaining - 1 ∧ q.stack = p.stack ∧
      q.lastSeg = s.segAt p.job.idx (s.playStart p + p.pos / 64) ∧
      (pos < n * 64 → q.run = .running ∧ (u.chan ch).noContinuation = (s.chan ch).noContinuation ∧
        u.chan ch = { (if s.segAt p.job.idx (s.playStart p + pos / 64) =
            s.segAt p.job.idx (s.playStart p + p.pos / 64) then s.chan ch else (s.chan ch).cross) with
          stream := .play q }) ∧
      (pos = n * 64 → s.takeState p.take = some .claimed → q.run = .paused ∧ (u.chan ch).noContinuation = true) ∧
      (pos = n * 64 → s.takeState p.take = some .following → q.run = .followWait) ∧
      (∀ k, k ≠ ch → u.link k = s.link k ∧ u.chan k = s.chan k) ∧ u.jobs = s.jobs ∧ u.segs = s.segs ∧ u.cues = s.cues ∧
      u.takes = s.takes ∧ u.exts = s.exts ∧ u.notices = s.notices := by
  subst frames
  have same := samePlay_accessDone known
  have frame := accessDone_frame known
  obtain ⟨u, y, q, run, handed, left⟩ := playRead_clear_facts check port use live play chosen running clear more up bound rfl
    same
  generalize accessDone s a check = t at same frame handed
  have at_ : sentPos s ch p x.prof x.pace = pos := advance.symm
  obtain ⟨stream, job, take, read, position, remaining, stack, lastSeg, below, claimed, following⟩ := left
  rw [at_] at position below claimed following
  have chan := handed.chan
  have kept := handed.frame
  refine ⟨u, q, run, ?_, by rw [chan]; exact stream, job, take, read, position, remaining, stack, lastSeg, fun low => ?_,
    fun reached state => ?_, following, fun k ne => ⟨(handed.links k ne).trans (same.link k),
      (handed.chans k ne).trans (same.chan k)⟩, ?_⟩
  · rw [handed.link, same.link]
  · obtain ⟨runs, crossed⟩ := below low
    have crossed' := crossed
    rw [sentCrosses, at_, crossedIf_of_below low, sentSeg] at crossed
    refine ⟨runs, ?_, chan.trans crossed⟩
    rw [chan, crossed']
    exact Channel.crossedIf_noContinuation _ _
  · rw [chan]
    exact claimed reached state
  · rw [kept, frame]
    exact ⟨rfl, rfl, rfl, rfl, rfl, rfl⟩

/-- The first failing check of an extent that is no job's tail (R109, R110). -/
theorem playRead_damages_facts {s : State} {a : Access} {ch : Nat} {p : Play} {x : Chosen} (port : s.port = some a)
    (use : a.claim.use = .play ch) (live : a.live = true) (play : (s.chan ch).stream = .play p) (chosen : p.read = some x)
    (running : p.run = .running) (clear : (s.chan ch).matrix = {}) (more : p.remaining ≠ 1) (up : (s.link ch).up = true)
    (bound : (s.chan ch).binding = .link) (used : (s.ext a.claim.extent).state = .inUse)
    (none_ : ∀ y ∈ s.jobs, ∀ t, y.2.tail = some t → t.extent ≠ a.claim.extent) (room : s.notices.length < 32) :
    ∃ (u : State) (q : Play), exec (.playReadCompletion true) s = .next u ∧
      u.ext a.claim.extent = { s.ext a.claim.extent with state := .damaged } ∧
      (∀ e, e ≠ a.claim.extent → u.ext e = s.ext e) ∧ u.notices = s.notices ++ [.storeError a.claim.extent .read] ∧
      (u.link ch).unsent = (s.link ch).unsent ++ [.frame true true 0] ∧ (u.chan ch).stream = .play q ∧ q.read = none ∧
      q.pos = min (p.pos + s.rateOf ch x.prof x.pace) (s.playFrames p * 64) ∧ q.remaining = p.remaining - 1 ∧
      u.jobs = s.jobs ∧ u.segs = s.segs ∧ u.takes = s.takes := by
  have ended := endAccess_frame s a
  have done_ : accessDone s a true = { (s.endAccess a).setExt a.claim.extent
      { (s.endAccess a).ext a.claim.extent with state := .damaged } with
      notices := (s.endAccess a).notices ++ [.storeError a.claim.extent .read] } :=
    damageByRead_of_inUse (by rw [endAccess_ext]; exact used) (by rw [endAccess_jobs]; exact none_)
      (by rw [endAccess_notices]; exact room)
  have extD := ext_setExt (s.endAccess a) a.claim.extent { (s.endAccess a).ext a.claim.extent with state := .damaged }
  have extNe (e : Nat) (ne : e ≠ a.claim.extent) := ext_setExt_ne (s.endAccess a) a.claim.extent
    { (s.endAccess a).ext a.claim.extent with state := .damaged } e ne
  have set : (s.endAccess a).setExt a.claim.extent { (s.endAccess a).ext a.claim.extent with state := .damaged } =
      { s.endAccess a with exts := ((s.endAccess a).setExt a.claim.extent
        { (s.endAccess a).ext a.claim.extent with state := .damaged }).exts } := rfl
  generalize (s.endAccess a).setExt a.claim.extent { (s.endAccess a).ext a.claim.extent with state := .damaged } = d
    at done_ extD extNe set
  have extV (e : Nat) : (s.endAccess a).ext e = s.ext e := endAccess_ext s a e
  have notices : (s.endAccess a).notices = s.notices := endAccess_notices s a
  generalize s.endAccess a = v at ended done_ extD extNe set extV notices
  have same : SamePlay s { d with notices := v.notices ++ [.storeError a.claim.extent .read] } :=
    ⟨by constructor <;> rw [set, ended], fun k => by rw [set, ended]; rfl, fun k => by rw [set, ended]; rfl⟩
  obtain ⟨u, y, q, run, handed, left⟩ := playRead_clear_facts true port use live play chosen running clear more up bound done_
    same
  have kept := handed.frame
  have extU (e : Nat) : u.ext e = d.ext e := by rw [kept]; rfl
  refine ⟨u, q, run, ?_, fun e ne => ?_, ?_, ?_, ?_, left.read, left.pos, left.remaining, ?_⟩
  · rw [extU, extD, extV]
  · rw [extU, extNe e ne, extV]
  · rw [kept]
    exact congrArg (· ++ _) notices
  · rw [handed.link, same.link]
    rfl
  · rw [handed.chan]
    exact left.stream
  · rw [kept]
    exact ⟨same.map.jobs, same.map.segs, same.map.takes⟩

/-! ### A tail lost (R111) -/

/-- An extent newly DAMAGED, with its notice, before it stops being a tail. -/
structure ExtDamaged (s w : State) (e : Nat) : Prop where
  ext : w.ext e = { s.ext e with state := .damaged }
  exts : ∀ x, x ≠ e → w.ext x = s.ext x
  notices : s.notices.length < 32 → w.notices = s.notices ++ [.storeError e .read]
  jobs : w.jobs = s.jobs
  segs : w.segs = s.segs
  places : w.places = s.places
  chans : w.chans = s.chans
  freeList : w.freeList = s.freeList

theorem extDamaged_of_inUse {s : State} {a : Access} (used : (s.ext a.claim.extent).state = .inUse) :
    ∃ w, accessDone s a true = w.loseTail a.claim.extent ∧ ExtDamaged s w a.claim.extent := by
  have ended := endAccess_frame s a
  have extV (e : Nat) : (s.endAccess a).ext e = s.ext e := endAccess_ext s a e
  have done_ : accessDone s a true = (s.endAccess a).damageByRead a.claim.extent := rfl
  generalize s.endAccess a = v at ended extV done_
  have usedV : (v.ext a.claim.extent).state = .inUse := by rw [extV]; exact used
  rw [damageByRead, if_neg (by rw [usedV]; exact ExtState.noConfusion), markDamaged_of_inUse usedV] at done_
  have extD := ext_setExt v a.claim.extent { v.ext a.claim.extent with state := .damaged }
  have extNe (x : Nat) (ne : x ≠ a.claim.extent) := ext_setExt_ne v a.claim.extent
    { v.ext a.claim.extent with state := .damaged } x ne
  have set : v.setExt a.claim.extent { v.ext a.claim.extent with state := .damaged } =
      { v with exts := (v.setExt a.claim.extent { v.ext a.claim.extent with state := .damaged }).exts } := rfl
  generalize v.setExt a.claim.extent { v.ext a.claim.extent with state := .damaged } = d at done_ extD extNe set
  have raised := raise_frame d (.storeError a.claim.extent .read)
  have notices (room : d.notices.length < 32) := raise_of_room (n := .storeError a.claim.extent .read) room
  have extW (x : Nat) := raise_ext d (.storeError a.claim.extent .read) x
  have noticesD : d.notices = s.notices := by rw [set, ended]
  refine ⟨_, done_, (extW _).trans (by rw [extD, extV]), fun x ne => (extW x).trans (by rw [extNe x ne, extV]),
    fun room => ?_, ?_, ?_, ?_, ?_, ?_⟩
  · rw [notices (by rw [noticesD]; exact room), noticesD]
  all_goals rw [raised, set, ended]

/-- The tail of a job that no channel captures, lost (R111). -/
theorem playRead_losesTail_facts {s : State} {a : Access} {ch j : Nat} {t : Tail} (port : s.port = some a)
    (use : a.claim.use = .play ch) (unwanted : a.live = false) (tail : (s.job j).tail = some t)
    (extent : t.extent = a.claim.extent) (used : (s.ext a.claim.extent).state = .inUse)
    (only : ∀ y ∈ s.jobs, ∀ z, y.2.tail = some z → z.extent = a.claim.extent → y.1 = j) :
    ((s.job j).chan = none → ∃ u : State, exec (.playReadCompletion true) s = .next u ∧
      u.ext a.claim.extent = { s.ext a.claim.extent with state := .damaged, refs := (s.ext a.claim.extent).refs - 1 } ∧
      u.job j = { s.job j with tail := none } ∧ (∀ k, k ≠ j → u.job k = s.job k) ∧
      (s.notices.length < 32 → u.notices = s.notices ++ [.storeError a.claim.extent .read]) ∧ u.freeList = s.freeList ∧
      u.segs = s.segs ∧ u.chans = s.chans ∧ u.places = s.places) ∧
    ∀ k x y rest, (s.job j).chan = some k → (s.placement k).inflight = [x] → x.extent = a.claim.extent →
      s.freeList = y :: rest → y ≠ a.claim.extent → ∃ u : State, exec (.playReadCompletion true) s = .next u ∧
        u.ext a.claim.extent = { s.ext a.claim.extent with state := .damaged, refs := (s.ext a.claim.extent).refs - 1 } ∧
        u.job j = { s.job j with tail := some { extent := y, fill := 1 } } ∧ (∀ m, m ≠ j → u.job m = s.job m) ∧
        (u.placement k).inflight = [{ x with extent := y, frame := 0, status := .writing }] ∧
        u.ext y = { s.ext y with state := .inUse, refs := 1 } ∧ u.freeList = rest ∧
        (s.notices.length < 32 → .storeError a.claim.extent .read ∈ u.notices) ∧ u.segs = s.segs ∧ u.chans = s.chans := by
  obtain ⟨w, done_, damaged⟩ := extDamaged_of_inUse used
  have run := exec_playReadCompletion_of_unwanted true port use unwanted
  rw [done_] at run
  have jobW (k : Nat) : w.job k = s.job k := by rw [State.job, State.job, damaged.jobs]
  have tailW : (w.job j).tail = some t := by rw [jobW]; exact tail
  have onlyW : ∀ y ∈ w.jobs, ∀ z, y.2.tail = some z → z.extent = a.claim.extent → y.1 = j := by
    rw [damaged.jobs]
    exact only
  have stateW : (w.ext a.claim.extent).state = .damaged := by rw [damaged.ext]
  have lost := tailLost_frame w j a.claim.extent
  have jobL := job_tailLost w j a.claim.extent
  have jobsL (k : Nat) (ne : k ≠ j) := job_tailLost_ne w j a.claim.extent ne
  have extL := ext_tailLost w j a.claim.extent
  have extsL (x : Nat) (ne : x ≠ a.claim.extent) := ext_tailLost_ne w j a.claim.extent ne
  refine ⟨fun quiet => ?_, fun k x y rest captures inflight at_ free other => ?_⟩
  · rw [loseTail_of_quiet tailW extent onlyW stateW (by rw [jobW]; exact quiet)] at run
    generalize tailLost w j a.claim.extent = u at run lost jobL jobsL extL
    refine ⟨u, run, by rw [extL, damaged.ext], by rw [jobL, jobW], fun k ne => by rw [jobsL k ne, jobW], fun room => ?_, ?_, ?_,
      ?_, ?_⟩
    · rw [lost]
      exact damaged.notices room
    · rw [lost]
      exact damaged.freeList
    · rw [lost]
      exact damaged.segs
    · rw [lost]
      exact damaged.chans
    · rw [lost]
      exact damaged.places
  · have placeW : (w.placement k).inflight = [x] := by
      rw [State.placement, damaged.places]
      exact inflight
    rw [loseTail_of_capture tailW extent onlyW stateW (by rw [jobW]; exact captures), placeW, ← at_] at run
    rw [← at_] at lost jobL jobsL extL extsL
    have given := redestined_redestine (s := tailLost w j x.extent) (ch := k) (r := (tailLost w j x.extent).jobRef j) (x := x)
      (y := y) (rest := rest) (by exact (congrArg Job.tail jobL :)) (by rw [lost]; exact damaged.freeList.trans free)
    have own : ((tailLost w j x.extent).jobRef j).idx = j := rfl
    generalize redestine k ((tailLost w j x.extent).jobRef j) x.extent [] [x] (tailLost w j x.extent) = u at run given
    generalize (tailLost w j x.extent).jobRef j = r at given own
    subst own
    generalize tailLost w r.idx x.extent = v at lost jobL jobsL extL extsL given
    refine ⟨u, run, ?_, ?_, fun m ne => ?_, given.inflight, ?_, given.freeList, fun room => ?_, ?_, ?_⟩
    · rw [← at_, given.exts _ (by rw [at_]; exact (Ne.symm other)), extL, at_, damaged.ext]
    · rw [given.job, jobL, jobW]
    · rw [given.jobs m ne, jobsL m ne, jobW]
    · rw [given.ext, extsL y (by rw [at_]; exact other), damaged.exts y other]
    · refine given.notices _ ?_
      rw [lost]
      exact (damaged.notices room).symm ▸ List.mem_append_right _ List.mem_cons_self
    · rw [given.segs, lost]
      exact damaged.segs
    · rw [given.chans, lost]
      exact damaged.chans

/-! ### MATCH (R140) -/

/-- A MATCH found in an advance is taken with the matched cue as the advance left it (R140). -/
theorem passCues_of_found {w : State} {ch i at_ : Nat} {b : CueBody} {m : Matrix} {p : Play} {lo hi : Nat}
    (matrix : (w.chan ch).matrix = m) (on : m.matchReload = true ∨ m.matchChain = true ∨ m.matchNotify = true)
    (found : w.passage p.job.idx (w.playStart p + lo + 1) (min (w.playStart p + hi + 1) (w.playStart p + w.playFrames p))
      (w.chan ch).pattern (w.chan ch).mask p.matched = some (i, b, at_)) :
    w.passCues ch p lo hi = (w.clearMatched ch hi).takeMatch ch i at_ := by
  have flag : (m.matchReload || m.matchChain || m.matchNotify) = true := by
    simpa [or_assoc] using on
  have hit : w.matchFound ch p lo hi = some (i, at_) := by
    rw [matchFound, matrix, if_pos flag, found]
    rfl
  rw [passCues, hit]

/-- The channel as a frame sent with a MATCH leaves it, before the test of END. -/
def matchedChan (s : State) (ch : Nat) (p : Play) (prof : ProfId) (pace : Option Nat) (i at_ : Nat) : Channel :=
  { (s.chan ch).crossedIf (sentCrosses s ch p prof pace) with
    stream := .play ((p.passedCue s ch prof pace).matchedAt (s.chan ch).matrix (s.playStart p) at_ (s.cueRef i))
    slot := if (s.chan ch).matrix.matchNotify then
        some (playNotice ch ((p.passedCue s ch prof pace).matchedAt (s.chan ch).matrix (s.playStart p) at_ (s.cueRef i))
          .matched (matchAction (s.chan ch).matrix) (some (s.cueRef i)))
      else none }

theorem Channel.crossedIf_mask (x : Channel) (crosses : Bool) :
    (x.crossedIf crosses).pattern = x.pattern ∧ (x.crossedIf crosses).mask = x.mask := by
  cases crosses <;> exact ⟨rfl, rfl⟩

/-- A frame sent whose advance finds a MATCH (R139, R140). -/
theorem chan_passCues_of_match {s : State} {ch i at_ : Nat} {b : CueBody} {p : Play} {prof : ProfId} {pace : Option Nat}
    (play : (s.chan ch).stream = .play p)
    (on : (s.chan ch).matrix.matchReload = true ∨ (s.chan ch).matrix.matchChain = true ∨
      (s.chan ch).matrix.matchNotify = true) (empty : (s.chan ch).slot = none)
    (found : s.passage p.job.idx (s.playStart p + p.pos / 64 + 1)
      (min (s.playStart p + sentPos s ch p prof pace / 64 + 1) (s.playStart p + s.playFrames p)) (s.chan ch).pattern
      (s.chan ch).mask p.matched = some (i, b, at_)) (silent damaged : Bool) (data : Frame) :
    ((frameCrossed s ch p prof pace silent damaged data).passCues ch p (p.pos / 64) (sentPos s ch p prof pace / 64)).chan ch =
      matchedChan s ch p prof pace i at_ := by
  have crossed := frameCrossed_setTo play prof pace silent damaged data
  have same : SameMap s (frameCrossed s ch p prof pace silent damaged data) :=
    (SameMap.mk (handOver_jobs ..) (handOver_segs ..) (handOver_cues ..) (handOver_takes ..)).trans (.of_channelSetTo crossed)
  generalize frameCrossed s ch p prof pace silent damaged data = w at crossed same
  have matrix : (w.chan ch).matrix = (s.chan ch).matrix := by
    rw [crossed.1]
    exact Channel.crossedIf_matrix _ _
  obtain ⟨pattern, mask⟩ := Channel.crossedIf_mask (s.chan ch) (sentCrosses s ch p prof pace)
  have chan := crossed.1
  have cleared := crossed.clearMatched (p := p.advanced (sentPos s ch p prof pace) (sentSeg s p)) rfl
    (sentPos s ch p prof pace / 64)
  have still (o : Option Ref) (c k : Nat) : w.stillMatched c k o = s.stillMatched c k o := by
    cases o with
    | none => rfl
    | some r => simp only [stillMatched, same.matchedPassed]
  rw [still, same.playStart] at cleared
  have sameZ : SameMap s (w.clearMatched ch (sentPos s ch p prof pace / 64)) :=
    (SameMap.mk (handOver_jobs ..) (handOver_segs ..) (handOver_cues ..) (handOver_takes ..)).trans (.of_channelSetTo cleared)
  rw [passCues_of_found matrix on (by
    rw [same.passage, same.playStart, same.playFrames, chan]
    exact (congrArg₂ (fun x y => s.passage p.job.idx _ _ x y p.matched) pattern mask).trans found)]
  generalize w.clearMatched ch (sentPos s ch p prof pace / 64) = z at cleared sameZ
  have chanZ : z.chan ch = { (s.chan ch).crossedIf (sentCrosses s ch p prof pace) with
    stream := .play (p.passedCue s ch prof pace) } := cleared.1
  have taken := chan_takeMatch (z := z) (q := p.passedCue s ch prof pace) (m := (s.chan ch).matrix) (by rw [chanZ])
    (by rw [chanZ]; exact Channel.crossedIf_matrix _ _)
    (by rw [chanZ]; exact (Channel.crossedIf_slot _ _).trans empty) i at_
  rw [taken, chanZ, sameZ.cueRef, sameZ.playStart]
  rfl

theorem SamePlay.matchedChan {s u : State} (h : SamePlay s u) (ch : Nat) (p : Play) (prof : ProfId) (pace : Option Nat)
    (i at_ : Nat) : Machine.matchedChan u ch p prof pace i at_ = Machine.matchedChan s ch p prof pace i at_ := by
  have still (o : Option Ref) (c k : Nat) : u.stillMatched c k o = s.stillMatched c k o := by
    cases o with
    | none => rfl
    | some r => simp only [stillMatched, h.map.matchedPassed]
  have passed : p.passedCue u ch prof pace = p.passedCue s ch prof pace := by
    rw [Play.passedCue, Play.passedCue, h.sentPos, h.sentSeg, still, h.map.playStart]
  rw [Machine.matchedChan, Machine.matchedChan, h.chan, h.sentCrosses, passed, h.map.playStart, h.map.cueRef]

/-! ### A play stays a play -/

/-- A channel holds a play. -/
def State.Plays (s : State) (ch : Nat) : Prop := ∃ q, (s.chan ch).stream = .play q

theorem State.Plays.updPlay {s : State} {ch : Nat} (h : s.Plays ch) (f : Play → Play) : (s.updPlay ch f).Plays ch := by
  obtain ⟨q, play⟩ := h
  exact ⟨f q, by rw [((ChannelSetTo.refl s ch).updPlay play f).1]⟩

theorem State.Plays.placeNotice {s : State} {n : Notice} (h : s.Plays n.chan) (b : Bool) : (s.placeNotice n b).Plays n.chan := by
  obtain ⟨q, play⟩ := h
  by_cases empty : (s.chan n.chan).slot = none
  · refine ⟨q, ?_⟩
    rw [placeNotice_of_empty empty, sendNotice_chan, chan_setChan]
    exact play
  by_cases second : (s.chan n.chan).second = none
  · rw [placeNotice_of_current empty second]
    cases b with
    | false => exact ⟨q, by rw [if_neg Bool.false_ne_true, chan_setChan]; exact play⟩
    | true =>
      refine ⟨{ q with read := none, shuttle := .none }, ?_⟩
      rw [if_pos rfl, (channelHaltedTo_suspend s n.chan { s.chan n.chan with second := some n }).1, play]
      rfl
  · rw [placeNotice_of_second empty second]
    exact ⟨q, by rw [chan_setChan]; exact play⟩

theorem State.Plays.raiseEnd {s : State} {ch : Nat} (h : s.Plays ch) : (s.raiseEnd ch).Plays ch := by
  obtain ⟨p, play⟩ := h
  cases fed : s.tryFeed ch (s.chan ch).matrix with
  | none =>
    have written : (endWritten s ch p (s.chan ch).matrix).Plays ch :=
      ⟨_, by rw [((ChannelSetTo.refl s ch).endWritten play (s.chan ch).matrix).1]; rfl⟩
    rw [raiseEnd_of_unfed play rfl fed]
    split
    · exact written.placeNotice (n := ⟨ch, _, _, _, _, _, _, _⟩) true
    · exact written
  | some x =>
    obtain ⟨s1, i⟩ := x
    have given : s1 = s.giveTake i (s.link ch).person := by
      unfold tryFeed feedClaim at fed
      dsimp only at fed
      split at fed
      · split at fed
        · cases fed
        · split at fed
          · cases fed
          · cases fed
            rfl
      · cases fed
    have kept : (s1.writeResume p.take p.pos).Plays ch := ⟨p, by rw [given]; exact play⟩
    have chained : ((s1.writeResume p.take p.pos).chainInto ch p i).Plays ch := by
      unfold chainInto
      split
      · exact kept
      · obtain ⟨q, stream⟩ := kept.updPlay _
        exact ⟨q, by rw [updChan_eq, chan_setChan]; exact stream⟩
    rw [State.raiseEnd, playOf_eq play]
    dsimp only
    rw [fed]
    dsimp only [endChained]
    split
    · exact chained.placeNotice (n := playNotice ch p .ended .chained) true
    · exact chained

theorem State.Plays.testEnd {s : State} {ch : Nat} (h : s.Plays ch) (hit : Bool) (n : Nat) : (s.testEnd ch hit n).Plays ch := by
  obtain ⟨q, play⟩ := h
  by_cases running : q.run = .running
  · rw [testEnd_of_running play running]
    split
    · exact State.Plays.raiseEnd ⟨q, play⟩
    split
    · by_cases claimed : s.takeState q.take = some .claimed
      · rw [atTakeEnd_of_claimed play claimed]
        exact State.Plays.raiseEnd ⟨q, play⟩
      by_cases following : s.takeState q.take = some .following
      · rw [atTakeEnd_of_following play following]
        exact State.Plays.updPlay ⟨q, play⟩ _
      · rw [atTakeEnd_of_other play claimed following]
        exact ⟨q, play⟩
    · exact ⟨q, play⟩
  · rw [testEnd_of_stopped play running]
    exact ⟨q, play⟩

/-- A play's read completed with a MATCH (R140). -/
theorem playRead_match_facts {s : State} {a : Access} {ch n pos start i at_ : Nat} {p : Play} {x : Chosen} {b : CueBody}
    {m : Matrix} (port : s.port = some a) (use : a.claim.use = .play ch) (live : a.live = true)
    (play : (s.chan ch).stream = .play p) (chosen : p.read = some x) (running : p.run = .running)
    (matrix : m = (s.chan ch).matrix) (on : m.matchReload = true ∨ m.matchChain = true ∨ m.matchNotify = true)
    (more : p.remaining ≠ 1) (empty : (s.chan ch).slot = none) (frames : n = s.playFrames p)
    (begins : start = s.playStart p) (advance : pos = min (p.pos + s.rateOf ch x.prof x.pace) (n * 64))
    (found : s.passage p.job.idx (start + p.pos / 64 + 1) (min (start + pos / 64 + 1) (start + n)) (s.chan ch).pattern
      (s.chan ch).mask p.matched = some (i, b, at_)) :
    ∃ (u : State) (q : Play), exec (.playReadCompletion false) s = .next u ∧ (u.chan ch).stream = .play q ∧
      (m.matchChain = true → pos < n * 64 → q.pos = pos ∧ q.run = .running ∧ q.remaining = p.remaining - 1 ∧
        (u.chan ch).slot = if m.matchNotify then
          some { chan := ch, cause := .matched, action := .chained, job := p.job, take := some p.take, pos := pos
                 cue := some (s.cueRef i) } else none) ∧
      (m.matchChain = false → m.matchReload = true → p.base < n → q.pos = p.base * 64 ∧ q.run = .running ∧
        q.remaining = p.remaining - 1 ∧ (u.chan ch).slot = if m.matchNotify then
          some { chan := ch, cause := .matched, action := .reloaded, job := p.job, take := some p.take
                 pos := p.base * 64, cue := some (s.cueRef i) } else none) ∧
      (m.matchChain = false → m.matchReload = false → q.pos = (at_ - start) * 64 ∧ q.run = .paused ∧
        q.remaining = p.remaining - 1 ∧ q.matched = some (s.cueRef i) ∧ (u.chan ch).slot =
          some { chan := ch, cause := .matched, action := .stopped, job := p.job, take := some p.take
                 pos := (at_ - start) * 64, cue := some (s.cueRef i) }) := by
  subst frames begins matrix
  have same := samePlay_accessDone (s := s) (a := a) (check := false) nofun
  have run := exec_playReadCompletion_of_play false port use live (by rw [same.chan]; exact play) chosen
  rw [if_neg Bool.false_ne_true] at run
  generalize accessDone s a false = v at same run
  have playV : (v.chan ch).stream = .play p := by rw [same.chan]; exact play
  have at' : sentPos s ch p x.prof x.pace = pos := advance.symm
  have chan := chan_passCues_of_match (prof := x.prof) (pace := x.pace) (b := b) playV (by rw [same.chan]; exact on)
    (by rw [same.chan]; exact empty)
    (by rw [same.map.passage, same.map.playStart, same.map.playFrames, same.chan, same.sentPos, at']; exact found) false false
    (s.readFrame a.claim.extent a.claim.frame)
  rw [frameSent_eq playV, decide_eq_false more, same.map.playFrames] at run
  rw [same.matchedChan] at chan
  generalize (frameCrossed v ch p x.prof x.pace false false (s.readFrame a.claim.extent a.claim.frame)).passCues ch p
    (p.pos / 64) (sentPos v ch p x.prof x.pace / 64) = w at run chan
  have stream : (w.chan ch).stream = .play
      ((p.passedCue s ch x.prof x.pace).matchedAt (s.chan ch).matrix (s.playStart p) at_ (s.cueRef i)) := by
    rw [chan]
    rfl
  have passed : (p.passedCue s ch x.prof x.pace).pos = pos := at'
  cases goes : (s.chan ch).matrix.matchChain with
  | true =>
    have same_ : (p.passedCue s ch x.prof x.pace).matchedAt (s.chan ch).matrix (s.playStart p) at_ (s.cueRef i) =
        p.passedCue s ch x.prof x.pace := if_pos goes
    by_cases below : pos < s.playFrames p * 64
    · rw [same_] at stream
      rw [testEnd_of_running stream running, if_neg Bool.false_ne_true, passed, if_neg (Nat.not_le.2 below)] at run
      refine ⟨w, _, run, stream, fun _ _ => ⟨at', running, rfl, ?_⟩, nofun, nofun⟩
      rw [chan, matchedChan, same_, matchAction, goes, playNotice, passed]
      rfl
    · obtain ⟨q, stays⟩ := State.Plays.testEnd ⟨_, stream⟩ false (s.playFrames p)
      exact ⟨_, q, run, stays, fun _ low => absurd low below, nofun, nofun⟩
  | false =>
    cases returns : (s.chan ch).matrix.matchReload with
    | true =>
      have back : (p.passedCue s ch x.prof x.pace).matchedAt (s.chan ch).matrix (s.playStart p) at_ (s.cueRef i) =
          { p.passedCue s ch x.prof x.pace with pos := p.base * 64, lastSeg := none } :=
        (if_neg (by simp [goes])).trans (if_pos returns)
      by_cases inside : p.base < s.playFrames p
      · rw [back] at stream
        rw [testEnd_of_running stream running, if_neg Bool.false_ne_true, if_neg (by dsimp only; omega)] at run
        refine ⟨w, _, run, stream, nofun, fun _ _ _ => ⟨rfl, running, rfl, ?_⟩, nofun⟩
        rw [chan, matchedChan, back, matchAction, goes, returns]
        rfl
      · obtain ⟨q, stays⟩ := State.Plays.testEnd ⟨_, stream⟩ false (s.playFrames p)
        exact ⟨_, q, run, stays, nofun, fun _ _ low => absurd low inside, nofun⟩
    | false =>
      have stops : (p.passedCue s ch x.prof x.pace).matchedAt (s.chan ch).matrix (s.playStart p) at_ (s.cueRef i) =
          { p.passedCue s ch x.prof x.pace with
            run := .paused, pos := (at_ - s.playStart p) * 64, matched := some (s.cueRef i) } :=
        (if_neg (by simp [goes])).trans (if_neg (by simp [returns]))
      have notify : (s.chan ch).matrix.matchNotify = true := by
        simpa [goes, returns] using on
      rw [stops] at stream
      rw [testEnd_of_stopped stream (by exact PlayRun.noConfusion)] at run
      refine ⟨w, _, run, stream, nofun, nofun, fun _ _ => ⟨rfl, rfl, rfl, rfl, ?_⟩⟩
      rw [chan, matchedChan, stops, matchAction, goes, returns, notify]
      rfl

/-! ### END (R141) -/

/-- A play's read completed at its END (R141). -/
theorem playRead_end_facts {s : State} {a : Access} {ch n pos : Nat} {p : Play} {x : Chosen} (port : s.port = some a)
    (use : a.claim.use = .play ch) (live : a.live = true) (play : (s.chan ch).stream = .play p) (chosen : p.read = some x)
    (running : p.run = .running) (reload : (s.chan ch).matrix.matchReload = false)
    (chain : (s.chan ch).matrix.matchChain = false) (notify : (s.chan ch).matrix.matchNotify = false)
    (up : (s.link ch).up = true) (bound : (s.chan ch).binding = .link) (frames : n = s.playFrames p)
    (advance : pos = min (p.pos + s.rateOf ch x.prof x.pace) (n * 64))
    (ends : p.remaining = 1 ∨ (pos = n * 64 ∧ s.takeState p.take = some .claimed)) :
    ∃ (t : State) (q : Play), exec (.playReadCompletion false) s = .next (t.raiseEnd ch) ∧ (t.chan ch).stream = .play q ∧
      q.job = p.job ∧ q.take = p.take ∧ q.pos = pos ∧ q.base = p.base ∧ q.baseCount = p.baseCount ∧
      q.remaining = p.remaining - 1 ∧ q.run = .running ∧ (t.chan ch).matrix = (s.chan ch).matrix ∧
      (t.chan ch).slot = (s.chan ch).slot ∧ t.takes = s.takes ∧ t.ready = s.ready ∧ t.holds = s.holds ∧ t.jobs = s.jobs ∧
      (t.link ch).unsent = (s.link ch).unsent ++ [.frame false false (s.readFrame a.claim.extent a.claim.frame)] := by
  subst frames
  have same := samePlay_accessDone (s := s) (a := a) (check := false) nofun
  have frame := accessDone_frame (s := s) (a := a) (check := false) nofun
  have run := exec_playReadCompletion_of_play false port use live (by rw [same.chan]; exact play) chosen
  rw [if_neg Bool.false_ne_true] at run
  generalize accessDone s a false = v at same frame run
  have playV : (v.chan ch).stream = .play p := by rw [same.chan]; exact play
  have at_ : sentPos v ch p x.prof x.pace = pos := (same.sentPos ch p x.prof x.pace).trans advance.symm
  have passed := passed_setTo playV (by rw [same.chan]; exact reload) (by rw [same.chan]; exact chain)
    (by rw [same.chan]; exact notify) x.prof x.pace false false (s.readFrame a.claim.extent a.claim.frame)
  have handed := frameHanded_of_channelSetTo (by rw [same.link]; exact up) (by rw [same.chan]; exact bound) passed
  rw [frameSent_eq playV] at run
  generalize (frameCrossed v ch p x.prof x.pace false false (s.readFrame a.claim.extent a.claim.frame)).passCues ch p
    (p.pos / 64) (sentPos v ch p x.prof x.pace / 64) = w at run handed
  have kept := handed.frame
  have stream : (w.chan ch).stream = .play (p.passedCue v ch x.prof x.pace) := by rw [handed.chan]
  have state : w.takeState p.take = s.takeState p.take := by
    have sameW : SameMap v w := by constructor <;> rw [kept]
    rw [sameW.takeState, same.map.takeState]
  have ended : w.testEnd ch (decide (p.remaining = 1)) (v.playFrames p) = w.raiseEnd ch := by
    rw [testEnd_of_running stream running]
    by_cases last : p.remaining = 1
    · exact if_pos (decide_eq_true last)
    · obtain ⟨reached, claimed⟩ := ends.resolve_left last
      rw [if_neg (by simpa using last), if_pos]
      · exact atTakeEnd_of_claimed stream (state.trans claimed)
      · rw [same.map.playFrames, ← reached, ← at_]
        exact le_refl _
  refine ⟨w, p.passedCue v ch x.prof x.pace, run.trans (congrArg _ ended), stream, rfl, rfl, at_, rfl, rfl, rfl, running, ?_, ?_,
    ?_, ?_, ?_, ?_, ?_⟩
  · rw [handed.chan, ← same.chan ch]
    exact Channel.crossedIf_matrix _ _
  · rw [handed.chan, ← same.chan ch]
    exact Channel.crossedIf_slot _ _
  iterate 4 rw [kept, frame]
  · rw [handed.link, same.link]

/-- Settles O59, clause by clause. -/
theorem playReadCompletes : Obligations.PlayReadCompletes := by
  unfold Obligations.PlayReadCompletes
  refine ⟨fun s j p => rfl, fun c => rfl, fun s ch prof pace => rfl,
    fun check s a ch n pos r x port use live readback chosen up bound known length advance =>
      playRead_readback_facts check port use live readback chosen up bound known length advance,
    fun check s a ch n pos p x port use live play chosen running clear more up bound known frames advance =>
      playRead_plain_facts check port use live play chosen running clear more up bound known frames advance,
    fun s a ch port use unwanted => ⟨_, exec_playReadCompletion_of_unwanted false port use unwanted, accessDone_frame nofun⟩,
    fun s a ch p x port use live play chosen running clear more up bound used none_ room =>
      playRead_damages_facts port use live play chosen running clear more up bound used none_ room,
    fun s a ch j t port use unwanted tail extent used only => playRead_losesTail_facts port use unwanted tail extent used only,
    fun s a ch n pos start i at_ p x b m port use live play chosen running matrix on more empty frames begins advance found =>
      playRead_match_facts port use live play chosen running matrix on more empty frames begins advance found,
    fun s a ch n pos p x port use live play chosen running reload chain notify up bound frames advance ends =>
      playRead_end_facts port use live play chosen running reload chain notify up bound frames advance ends,
    fun s ch p q m play matrix barred left => ⟨endWritten s ch p m, ?_, ?_⟩,
    fun s ch p m play matrix empty => ⟨fun barred => raiseEnd_unfed_facts play matrix.symm empty (tryFeed_of_barred barred),
      fun pre post i b chained few queue earlier body admits other =>
        raiseEnd_fed_facts play matrix.symm chained few (firstEligible_of_split queue earlier body admits) body other empty⟩⟩
  · subst left
    exact (ChannelSetTo.refl s ch).endWritten play m
  · rw [raiseEnd_of_unfed play matrix.symm (tryFeed_of_barred barred), left]
    rfl

end Sys2Proof.Machine
end

section
/-! ## Captures: the count END

What END leaves for a capture whose remaining count has reached 0 (R126). -/

set_option Elab.async false

namespace Sys2Proof.Machine
open State

/-! ### What depends on the map alone -/

namespace SameMap
variable {s u : State} (h : SameMap s u)
include h

theorem jobTakes (j : Nat) : u.jobTakes j = s.jobTakes j := jobTakes_congr h.take (by rw [h.job])

theorem lastTake (j : Nat) : u.lastTake j = s.lastTake j := by rw [State.lastTake, State.lastTake, h.jobTakes]

theorem emptyHead (j : Nat) : u.emptyHead j = s.emptyHead j := by
  rw [State.emptyHead, State.emptyHead, h.lastTake, h.job]
  cases s.lastTake j with
  | none => rfl
  | some x =>
    dsimp only
    rw [State.takeFrames, State.takeFrames, h.takeStart, h.takeEnd]

theorem receivingTake (j p : Nat) : u.receivingTake j p = s.receivingTake j p := by
  simp only [State.receivingTake, State.containingTake, h.lastTake, h.job, h.jobTakes, h.takeStart]

theorem editable (j p : Nat) : u.editable j p = s.editable j p := by
  rw [State.editable, State.editable, h.receivingTake]

theorem takeCueAt (j : Nat) (a : Anchor) : u.takeCueAt j a = s.takeCueAt j a := by
  rw [State.takeCueAt, State.takeCueAt, h.jobCues]

end SameMap

/-! ### RELOAD, the pause and the notice (R126, steps 2 and 3) -/

/-- A capture's context after RELOAD and the pause of a count END. -/
def Channel.countEnded (x : Channel) (c : Capture) (m : Matrix) : Channel :=
  if m.endReload then { x with stream := .capture { c with ctx := { c.ctx with remaining := c.ctx.base } } }
  else if m.endChain then x
  else { x with stream := .capture { c with running := false, counter := 0 }, noContinuation := true }

theorem ChannelSetTo.reloadAndStop {s u : State} {ch : Nat} {x : Channel} {c : Capture} (h : ChannelSetTo s u ch x)
    (capture : x.stream = .capture c) (m : Matrix) :
    ChannelSetTo s ((u.reloadStep ch m).stopStep ch m) ch (x.countEnded c m) := by
  rw [stopStep, reloadStep, Channel.countEnded]
  cases m.endReload with
  | true => exact h.updCapture capture fun c => { c with ctx := { c.ctx with remaining := c.ctx.base } }
  | false =>
    cases m.endChain with
    | true => exact h
    | false =>
      exact (h.updCapture capture fun c => { c with running := false, counter := 0 }).updChan fun x =>
        { x with noContinuation := true }

theorem Channel.countEnded_slot (x : Channel) (c : Capture) (m : Matrix) : (x.countEnded c m).slot = x.slot := by
  unfold Channel.countEnded
  split
  · rfl
  · split <;> rfl

theorem Channel.countEnded_of_chain {x : Channel} {c : Capture} (capture : x.stream = .capture c) {m : Matrix}
    (on : m.endChain = true) : x.countEnded c m = { x with
      stream := .capture { c with ctx := { c.ctx with remaining := if m.endReload then c.ctx.base else c.ctx.remaining } } } := by
  rw [Channel.countEnded, on]
  cases m.endReload with
  | true => rfl
  | false =>
    change x = { x with stream := .capture c }
    rw [← capture]

/-- The notice that a count END leaves in an empty slot. -/
def countSlot (m : Matrix) (made : Bool) (note : Cause → Action → Notice) : Option Notice :=
  if m.endChain && !made then some (note .chainAbort (if m.endReload then .reloaded else .continued))
  else if m.endNotify then some (note .ended (if made then .chained else if m.endReload then .reloaded else .stopped))
  else none

theorem countNotice_eq (s : State) (ch : Nat) (c : Capture) (m : Matrix) (made : Bool) : s.countNotice ch c m made =
    (countSlot m made (s.captureNotice ch c.job c.ctx.point)).elim s fun n => s.placeNotice n false := by
  rw [countNotice, countSlot]
  split
  · rfl
  · split <;> rfl

theorem chan_placeNotice_of_empty {s : State} {n : Notice} (empty : (s.chan n.chan).slot = none) (suspends : Bool) :
    (s.placeNotice n suspends).chan n.chan = { s.chan n.chan with slot := some n } := by
  rw [placeNotice_of_empty empty, sendNotice_chan, chan_setChan]

theorem chan_of_countSlot {m : Matrix} {made : Bool} {note : Cause → Action → Notice} {n : Notice} {ch : Nat}
    (own : ∀ x y, (note x y).chan = ch) (notice : countSlot m made note = some n) : n.chan = ch := by
  rw [countSlot] at notice
  split at notice
  · exact Option.some.inj notice ▸ own _ _
  · split at notice
    · exact Option.some.inj notice ▸ own _ _
    · exact nomatch notice

theorem chan_countNotice {s : State} {ch : Nat} (empty : (s.chan ch).slot = none) (c : Capture) (m : Matrix) (made : Bool) :
    (s.countNotice ch c m made).chan ch = { s.chan ch with
      slot := countSlot m made (s.captureNotice ch c.job c.ctx.point) } := by
  rw [countNotice_eq]
  cases notice : countSlot m made (s.captureNotice ch c.job c.ctx.point) with
  | none =>
    dsimp only [Option.elim]
    rw [← empty]
  | some n =>
    have own : n.chan = ch := chan_of_countSlot (fun _ _ => rfl) notice
    subst own
    exact chan_placeNotice_of_empty empty false

/-- The records that a count END leaves, apart from its chain. -/
structure CountLeft (s u : State) : Prop where
  places : u.places = s.places
  cues : u.cues = s.cues
  cueFree : u.cueFree = s.cueFree
  takes : u.takes = s.takes
  takeFree : u.takeFree = s.takeFree

theorem countLeft_countNotice (s : State) (ch : Nat) (c : Capture) (m : Matrix) (made : Bool) :
    CountLeft s (s.countNotice ch c m made) := by
  rw [countNotice_eq]
  cases countSlot m made (s.captureNotice ch c.job c.ctx.point) with
  | none => exact ⟨rfl, rfl, rfl, rfl, rfl⟩
  | some n =>
    have frame := placeNotice_frame s n false
    dsimp only [Option.elim]
    exact ⟨by rw [frame], by rw [frame], by rw [frame], by rw [frame], by rw [frame]⟩

/-- What RELOAD, the pause and the notice leave after the chain step of a count END. -/
structure CountSettled (s u : State) (ch : Nat) (x : Channel) : Prop where
  chan : u.chan ch = x
  left : CountLeft s u

/-- Steps 2 and 3 of a count END and its notice, on a channel as the chain step has left it (R126). -/
theorem countSettled_countNotice {s u : State} {ch : Nat} {x : Channel} {c : Capture} (set : ChannelSetTo s u ch x)
    (capture : x.stream = .capture c) (empty : x.slot = none) (m : Matrix) (made : Bool) :
    CountSettled s (((u.reloadStep ch m).stopStep ch m).countNotice ch c m made) ch { x.countEnded c m with
      slot := countSlot m made (s.captureNotice ch c.job c.ctx.point) } := by
  have stopped := set.reloadAndStop capture m
  have same := SameMap.of_channelSetTo stopped
  generalize (u.reloadStep ch m).stopStep ch m = v at stopped same
  obtain ⟨own, -, frame⟩ := stopped
  have notice : v.captureNotice ch c.job c.ctx.point = s.captureNotice ch c.job c.ctx.point := by
    funext cause action
    rw [captureNotice, captureNotice, same.anchorPos]
  have free : (v.chan ch).slot = none := by rw [own, Channel.countEnded_slot, empty]
  have left := countLeft_countNotice v ch c m made
  constructor
  · rw [chan_countNotice free, notice, own]
  · exact ⟨by rw [left.places, frame], by rw [left.cues, frame], by rw [left.cueFree, frame], by rw [left.takes, frame],
      by rw [left.takeFree, frame]⟩

theorem countEnd_eq {s : State} {ch : Nat} {c : Capture} (capture : (s.chan ch).stream = .capture c) {m : Matrix}
    (matrix : (s.chan ch).matrix = m) : s.countEnd ch =
      (((s.chainStep ch c m).1.reloadStep ch m).stopStep ch m).countNotice ch c m (s.chainStep ch c m).2 := by
  subst matrix
  rw [countEnd, captureOf_eq capture]

/-! ### The chain of a count END (R126, step 1) -/

theorem chainStep_of_off {m : Matrix} (off : m.endChain = false) (s : State) (ch : Nat) (c : Capture) :
    s.chainStep ch c m = (s, false) := by
  rw [chainStep, off]
  rfl

theorem headRefusal_eq_none_iff (s : State) (j : Nat) :
    s.headRefusal j = none ↔ s.emptyHead j = false ∧ 0 < s.cueFree ∧ 0 < s.takeFree := by
  have cases3 (a b c : Bool) : firstFailing [(a, ReplyCode.emptyTake), (b, .cueFull), (c, .takeFull)] = none ↔
      a = false ∧ b = false ∧ c = false := by
    cases a <;> cases b <;> cases c <;> decide
  rw [headRefusal, cases3, decide_eq_false_iff_not, decide_eq_false_iff_not, Nat.pos_iff_ne_zero, Nat.pos_iff_ne_zero]

/-- The chain of a count END cannot be made. -/
theorem chainStep_of_refused {s : State} {c : Capture} {m : Matrix} (on : m.endChain = true)
    (refused : c.ctx.mode ≠ .append ∨ s.emptyHead c.job.idx = true ∨ s.cueFree = 0 ∨ s.takeFree = 0) (ch : Nat) :
    s.chainStep ch c m = (s.updChan ch fun x => { x with chainAbort := true }, false) := by
  have fails : c.ctx.mode ≠ .append ∨ (s.headRefusal c.job.idx).isSome := by
    refine refused.imp id fun h => Option.isSome_iff_ne_none.2 fun none => ?_
    obtain ⟨head, cues, takes⟩ := (headRefusal_eq_none_iff _ _).1 none
    rcases h with h | h | h
    · exact absurd (h.symm.trans head) Bool.noConfusion
    · omega
    · omega
  rw [chainStep, if_pos on, tryChain, if_pos fails]

/-- A count END's chain made: its TAKE cue and the take that begins there. -/
def countChained (s : State) (c : Capture) : State :=
  ({ s with freeCount := s.freeCount + 1 }.placeHeadTake c.job.idx (Config.freeLabel s.freeCount)
    (.reporter (s.job c.job.idx).reporter)).1

theorem tryChain_of_made {s : State} {c : Capture}
    (passes : ¬(c.ctx.mode ≠ .append ∨ (s.headRefusal c.job.idx).isSome)) (ch : Nat) :
    s.tryChain ch c = ((countChained s c).updChan ch fun x => { x with chainAbort := false }, true) := by
  rw [tryChain, if_neg passes]
  rfl

theorem chainStep_of_made {s : State} {c : Capture} {m : Matrix} (on : m.endChain = true) (mode : c.ctx.mode = .append)
    (head : s.emptyHead c.job.idx = false) (cueRoom : 0 < s.cueFree) (takeRoom : 0 < s.takeFree) (ch : Nat) :
    s.chainStep ch c m = ((countChained s c).updChan ch fun x => { x with chainAbort := false }, true) := by
  have passes : ¬(c.ctx.mode ≠ .append ∨ (s.headRefusal c.job.idx).isSome) := by
    rw [(headRefusal_eq_none_iff _ _).2 ⟨head, cueRoom, takeRoom⟩]
    simp [mode]
  rw [chainStep, if_pos on, tryChain_of_made passes]

/-- What a count END's chain leaves: its cue and the take that begins there (R58, R78). -/
structure CountChained (s u : State) (j : Nat) : Prop where
  cue : ∃ b, (u.cue s.lowestFreeCue).body = some b ∧ b.job = s.jobRef j ∧ b.kind = .take ∧ b.anchor = .jobEnd ∧
    b.placer = .reporter (s.job j).reporter
  take : (u.take s.lowestFreeTake).body.map (fun x => { x with seq := none }) =
    some { job := s.jobRef j, start := some ⟨s.lowestFreeCue, (s.cue s.lowestFreeCue).issue⟩ }
  cueFree : u.cueFree = s.cueFree - 1
  takeFree : u.takeFree = s.takeFree - 1
  chans : u.chans = s.chans
  places : u.places = s.places
  anchorPos : ∀ a, u.anchorPos j a = s.anchorPos j a

theorem anchorPos_of_takesMoved {s u : State} (moved : TakesMoved s u) {j : Nat}
    (head : (u.job j).segHead = (s.job j).segHead) (length : (u.job j).length = (s.job j).length) (a : Anchor) :
    u.anchorPos j a = s.anchorPos j a :=
  (SameSegs.of_segs (by rw [moved])).anchorPos head length a

theorem takesOnly_closeTake (s : State) (t : Nat) : TakesOnly s (s.closeTake t) := by
  cases body : (s.take t).body with
  | none => rw [closeTake, body]; exact takesOnly_refl s
  | some b => exact (takeClosed_closeTake body).only

/-- A TAKE cue at the capture head changes its job's take count at most. -/
theorem job_headTake (s : State) (j cue : Nat) : ∃ n, (s.headTake j cue).job j = { s.job j with takeCount := n } := by
  rw [headTake]
  split
  · exact ⟨_, rfl⟩
  · next l b _ =>
    have linked : ((s.linkNewTake j l { job := s.jobRef j, start := some (s.cueRef cue) }).1).job j =
        { s.job j with takeCount := (s.job j).takeCount + 1 } := job_setJob _ _ _
    have closed := takesOnly_closeTake (s.linkNewTake j l { job := s.jobRef j, start := some (s.cueRef cue) }).1 l
    change ∃ n, (enterIf ((s.linkNewTake j l { job := s.jobRef j, start := some (s.cueRef cue) }).1.closeTake l)
      ((((s.linkNewTake j l { job := s.jobRef j, start := some (s.cueRef cue) }).1.closeTake l).job j).follow = true)
      s.lowestFreeTake).job j = { s.job j with takeCount := n }
    generalize (s.linkNewTake j l { job := s.jobRef j, start := some (s.cueRef cue) }).1.closeTake l = v at closed
    have entered := enterIf_takesOnly v ((v.job j).follow = true) s.lowestFreeTake
    exact ⟨_, (congrArg (fun u => State.job u j) (closed.trans entered)).trans linked⟩

/-- A TAKE cue at the capture head moves no frame of the map. -/
theorem anchorPos_headTake (s : State) (j cue : Nat) (a : Anchor) : (s.headTake j cue).anchorPos j a = s.anchorPos j a := by
  obtain ⟨n, job⟩ := job_headTake s j cue
  exact anchorPos_of_takesMoved (takesMoved_headTake s j cue) (by rw [job]) (by rw [job]) a

theorem lastTake_of_cueAdded {s u : State} {j : Nat} {new : CueBody} (added : CueAdded s u j new) (k : Nat) :
    u.lastTake k = s.lastTake k := by
  obtain ⟨_, job⟩ := added.job_eq k
  have take (i : Nat) : u.take i = s.take i := (congrArg (fun w => State.take w i) added.frame :)
  rw [lastTake, lastTake, jobTakes_congr take (by rw [job])]

theorem exists_lastTake_of_emptyHead {s : State} {j : Nat} (head : s.emptyHead j = false) :
    ∃ l b, s.lastTake j = some (l, b) := by
  rw [emptyHead] at head
  split at head
  · next l b last => exact ⟨l, b, last⟩
  · exact Bool.noConfusion head

/-- A TAKE cue placed at the capture head, and the take change it makes (R58, R78). -/
theorem countChained_placeHeadTake {s : State} (canon : Canonical s) {j : Nat} (head : s.emptyHead j = false)
    (label : BitVec 16) : CountChained s (s.placeHeadTake j label (.reporter (s.job j).reporter)).1 j := by
  have added := cueAdded_addCue s j .take label .jobEnd (.reporter (s.job j).reporter)
  have chained : (s.placeHeadTake j label (.reporter (s.job j).reporter)).1 =
      (s.addCue j .take label .jobEnd (.reporter (s.job j).reporter)).1.headTake j s.lowestFreeCue := rfl
  generalize (s.addCue j .take label .jobEnd (.reporter (s.job j).reporter)).1 = v at added chained
  rw [chained]
  obtain ⟨l, b, last⟩ := exists_lastTake_of_emptyHead head
  have body := body_of_lastTake last
  have take (i : Nat) : v.take i = s.take i := (congrArg (fun w => State.take w i) added.frame :)
  have free : v.lowestFreeTake = s.lowestFreeTake := by rw [lowestFreeTake, lowestFreeTake, added.frame]
  obtain ⟨first, job⟩ := added.job
  have jobRef : v.jobRef j = s.jobRef j := by rw [State.jobRef, State.jobRef, job]
  obtain ⟨divided, -, -⟩ := takeDivided_headTake s.lowestFreeCue ((lastTake_of_cueAdded added j).trans last)
    (by rw [take, body]) (by rw [free]; exact ne_lowestFreeTake canon body)
  have moved := takesMoved_headTake v j s.lowestFreeCue
  have pos := anchorPos_headTake v j s.lowestFreeCue
  generalize v.headTake j s.lowestFreeCue = u at divided moved pos
  obtain ⟨n, placed⟩ := added.placed
  have later := divided.later
  rw [free, jobRef, added.cueRef] at later
  exact {
    cue := ⟨_, (congrArg (fun w => (State.cue w s.lowestFreeCue).body) moved).trans placed, rfl, rfl, rfl, rfl⟩
    take := later
    cueFree := by rw [moved, added.frame]
    takeFree := by rw [divided.takeFree, added.frame]
    chans := by rw [moved, added.frame]
    places := by rw [moved, added.frame]
    anchorPos := fun a => (pos a).trans (added.anchorPos j a) }

theorem countChained_countChained {s : State} (canon : Canonical s) {c : Capture} (head : s.emptyHead c.job.idx = false) :
    CountChained s (countChained s c) c.job.idx := by
  have bumped : SameMap s { s with freeCount := s.freeCount + 1 } := ⟨rfl, rfl, rfl, rfl⟩
  have chained := countChained_placeHeadTake (s := { s with freeCount := s.freeCount + 1 }) canon
    ((bumped.emptyHead _).trans head) (Config.freeLabel s.freeCount)
  exact ⟨chained.cue, chained.take, chained.cueFree, chained.takeFree, chained.chans, chained.places,
    fun a => (chained.anchorPos a).trans (bumped.anchorPos _ a)⟩

/-! ### END of a count -/

section CountEnd
variable {s : State} {ch : Nat} {c : Capture} {m : Matrix} {note : Cause → Action → Notice}
  (capture : (s.chan ch).stream = .capture c) (matrix : m = (s.chan ch).matrix) (empty : (s.chan ch).slot = none)
include capture matrix empty

omit empty in
/-- END of a count after its chain step. -/
theorem countSettled_countEnd {v : State} {made : Bool} {x : Channel} (step : s.chainStep ch c m = (v, made))
    {w : State} (set : ChannelSetTo w v ch x) (stream : x.stream = .capture c) (slot : x.slot = none) :
    CountSettled w (s.countEnd ch) ch { x.countEnded c m with
      slot := countSlot m made (w.captureNotice ch c.job c.ctx.point) } := by
  rw [countEnd_eq capture matrix.symm, step]
  exact countSettled_countNotice set stream slot m made

theorem countEnd_of_unchained (off : m.endChain = false) :
    CountSettled s (s.countEnd ch) ch { (s.chan ch).countEnded c m with
      slot := countSlot m false (s.captureNotice ch c.job c.ctx.point) } :=
  countSettled_countEnd capture matrix (chainStep_of_off off s ch c) (.refl s ch) capture empty

theorem countEnd_of_refused (on : m.endChain = true)
    (refused : c.ctx.mode ≠ .append ∨ s.emptyHead c.job.idx = true ∨ s.cueFree = 0 ∨ s.takeFree = 0) :
    CountSettled s (s.countEnd ch) ch { ({ s.chan ch with chainAbort := true } : Channel).countEnded c m with
      slot := countSlot m false (s.captureNotice ch c.job c.ctx.point) } :=
  countSettled_countEnd capture matrix (chainStep_of_refused on refused ch)
    ((ChannelSetTo.refl s ch).updChan fun x => { x with chainAbort := true }) capture empty

theorem countEnd_of_chained (on : m.endChain = true) (mode : c.ctx.mode = .append)
    (head : s.emptyHead c.job.idx = false) (cueRoom : 0 < s.cueFree) (takeRoom : 0 < s.takeFree) (canon : Canonical s) :
    CountSettled (countChained s c) (s.countEnd ch) ch
      { ({ s.chan ch with chainAbort := false } : Channel).countEnded c m with
        slot := countSlot m true (s.captureNotice ch c.job c.ctx.point) } := by
  have chained := countChained_countChained canon head
  have chan : (countChained s c).chan ch = s.chan ch := by rw [State.chan, State.chan, chained.chans]
  have notice : (countChained s c).captureNotice ch c.job c.ctx.point = s.captureNotice ch c.job c.ctx.point := by
    funext cause action
    rw [captureNotice, captureNotice, chained.anchorPos]
  rw [← notice, ← chan]
  refine countSettled_countEnd capture matrix (chainStep_of_made on mode head cueRoom takeRoom ch)
    ((ChannelSetTo.refl _ ch).updChan fun x => { x with chainAbort := false }) ?_ ?_
  · rw [chan]
    exact capture
  · rw [chan]
    exact empty

end CountEnd

/-- What END of a count leaves under each action matrix (R126). -/
theorem countEnd_facts {s : State} {ch : Nat} {c : Capture} {m : Matrix} {note : Cause → Action → Notice}
    (capture : (s.chan ch).stream = .capture c) (matrix : m = (s.chan ch).matrix) (empty : (s.chan ch).slot = none)
    (notes : ∀ x y, note x y = { chan := ch, cause := x, action := y, job := c.job
                                 pos := s.anchorPos c.job.idx c.ctx.point * 64 }) :
    (m.endChain = false → (s.countEnd ch).takes = s.takes ∧ (s.countEnd ch).cues = s.cues ∧
      (s.countEnd ch).chan ch = (if m.endReload then { s.chan ch with
          stream := .capture { c with ctx := { c.ctx with remaining := c.ctx.base } }
          slot := if m.endNotify then some (note .ended .reloaded) else none }
        else { s.chan ch with
          stream := .capture { c with running := false, counter := 0 }, noContinuation := true
          slot := if m.endNotify then some (note .ended .stopped) else none })) ∧
    (m.endChain = true →
      c.ctx.mode ≠ .append ∨ s.emptyHead c.job.idx = true ∨ s.cueFree = 0 ∨ s.takeFree = 0 →
      (s.countEnd ch).takes = s.takes ∧ (s.countEnd ch).cues = s.cues ∧ (s.countEnd ch).chan ch = { s.chan ch with
        stream := .capture { c with ctx := { c.ctx with
          remaining := if m.endReload then c.ctx.base else c.ctx.remaining } }
        chainAbort := true, slot := some (note .chainAbort (if m.endReload then .reloaded else .continued)) }) ∧
    (m.endChain = true → c.ctx.mode = .append → s.emptyHead c.job.idx = false → 0 < s.cueFree → 0 < s.takeFree →
      Canonical s → (s.countEnd ch).chan ch = { s.chan ch with
        stream := .capture { c with ctx := { c.ctx with
          remaining := if m.endReload then c.ctx.base else c.ctx.remaining } }
        chainAbort := false, slot := if m.endNotify then some (note .ended .chained) else none } ∧
      (∃ b, ((s.countEnd ch).cue s.lowestFreeCue).body = some b ∧ b.job = s.jobRef c.job.idx ∧ b.kind = .take ∧
        b.anchor = .jobEnd ∧ b.placer = .reporter (s.job c.job.idx).reporter) ∧
      ((s.countEnd ch).take s.lowestFreeTake).body.map (fun x => { x with seq := none }) = some
        { job := s.jobRef c.job.idx, start := some ⟨s.lowestFreeCue, (s.cue s.lowestFreeCue).issue⟩ } ∧
      (s.countEnd ch).cueFree = s.cueFree - 1 ∧ (s.countEnd ch).takeFree = s.takeFree - 1) := by
  have notice : s.captureNotice ch c.job c.ctx.point = note := by
    funext cause action
    rw [notes]
    rfl
  refine ⟨fun off => ?_, fun on refused => ?_, fun on mode head cueRoom takeRoom canon => ?_⟩
  · obtain ⟨chan, left⟩ := countEnd_of_unchained capture matrix empty off
    refine ⟨left.takes, left.cues, chan.trans ?_⟩
    rw [notice, countSlot, Channel.countEnded, off]
    cases m.endReload <;> rfl
  · obtain ⟨chan, left⟩ := countEnd_of_refused capture matrix empty on refused
    refine ⟨left.takes, left.cues, chan.trans ?_⟩
    rw [notice, countSlot, Channel.countEnded_of_chain (x := { s.chan ch with chainAbort := true }) capture on, on]
    rfl
  · obtain ⟨chan, left⟩ := countEnd_of_chained capture matrix empty on mode head cueRoom takeRoom canon
    have chained := countChained_countChained canon head
    have cue : (s.countEnd ch).cue s.lowestFreeCue = (countChained s c).cue s.lowestFreeCue := by
      rw [State.cue, State.cue, left.cues]
    have take : (s.countEnd ch).take s.lowestFreeTake = (countChained s c).take s.lowestFreeTake := by
      rw [State.take, State.take, left.takes]
    refine ⟨chan.trans ?_, by rw [cue]; exact chained.cue, by rw [take]; exact chained.take,
      left.cueFree.trans chained.cueFree, left.takeFree.trans chained.takeFree⟩
    rw [notice, countSlot, Channel.countEnded_of_chain (x := { s.chan ch with chainAbort := false }) capture on, on]
    rfl

end Sys2Proof.Machine
end

section
/-! ## Captures: a written frame joins its job

The segment that a placed frame extends or takes, and what stands (R36, R37). -/

set_option Elab.async false

namespace Sys2Proof.Machine
open State

/-! ### A placed frame joins its job -/

/-- The segment record that a placed frame takes (R36). -/
def frameSeg (job : Ref) (extent frame cls : Nat) (next : Option Ref) : SegBody :=
  { job := job, extent := extent, first := frame, count := 1, next := next
    sealPart := if cls = 0 then none else some cls }

/-- A job one frame longer. -/
def jobGrown (s : State) (j : Nat) : State := s.updJob j fun x => { x with length := x.length + 1 }

/-- A frame that extends the segment before it. -/
def frameExtended (s : State) (j p : Nat) : State :=
  jobGrown (s.updSegBody p fun b => { b with count := b.count + 1 }) j

/-- A new segment record linked for a placed frame. -/
def frameLinked (s : State) (j : Nat) (pred : Option Nat) (b : SegBody) : State :=
  (s.newSeg b).1.linkSeg j pred s.lowestFreeSeg

/-- A placed frame's extent, referenced once more and with the frame's taint. -/
def extentTaken (s : State) (extent cls : Nat) : State :=
  if cls = 0 then s.refUp extent else (s.refUp extent).taintExt extent

/-- A frame that takes a new segment. -/
def frameSeated (s : State) (j : Nat) (pred : Option Nat) (extent frame cls : Nat) (next : Option Ref) : State :=
  jobGrown (extentTaken (frameLinked s j pred (frameSeg (s.jobRef j) extent frame cls next)) extent cls) j

theorem extentTaken_frame (s : State) (extent cls : Nat) :
    extentTaken s extent cls = { s with exts := (extentTaken s extent cls).exts } := by
  unfold extentTaken
  split <;> rfl

theorem ext_extentTaken (s : State) (extent cls : Nat) : (extentTaken s extent cls).ext extent = { s.ext extent with
    refs := (s.ext extent).refs + 1, taint := (s.ext extent).taint || decide (cls ≠ 0) } := by
  unfold extentTaken
  by_cases clean : cls = 0
  · rw [if_pos clean, refUp, ext_setExt, decide_eq_false (not_not.2 clean), Bool.or_false]
  · rw [if_neg clean, taintExt, ext_setExt, refUp, ext_setExt, decide_eq_true clean, Bool.or_true]

/-- The segment that a new segment linked after another, or as the list head, comes before (R27). -/
def linkedBefore (s : State) (j : Nat) : Option Nat → Option Ref
  | none => (s.job j).segHead
  | some p => (s.seg p).body.bind SegBody.next

section Join
variable {s : State} (j extent frame cls : Nat)

theorem joinFrame_of_extends {p : Nat} {b : SegBody} (body : (s.seg p).body = some b)
    (ext : extends_ b extent frame cls = true) :
    s.joinFrame j (some p) extent frame cls = some (frameExtended s j p, .frame (s.segRef p) b.count) := by
  rw [joinFrame]
  dsimp only
  rw [body]
  dsimp only
  rw [if_pos ext]
  rfl

/-- A frame that extends nothing takes a new segment where a record is free. -/
theorem joinFrame_of_fresh {pred : Option Nat} (room : 0 < s.segFree)
    (alone : ∀ p b, pred = some p → (s.seg p).body = some b → extends_ b extent frame cls = false) :
    ∃ a, s.joinFrame j pred extent frame cls = some (frameSeated s j pred extent frame cls (linkedBefore s j pred), a) := by
  have taken : s.segFree ≠ 0 := by omega
  cases pred with
  | none =>
    rw [joinFrame]
    dsimp only
    rw [if_neg taken]
    exact ⟨_, rfl⟩
  | some p =>
    rw [joinFrame, linkedBefore]
    dsimp only
    cases body : (s.seg p).body with
    | none =>
      dsimp only
      rw [if_neg taken]
      exact ⟨_, rfl⟩
    | some b =>
      dsimp only
      rw [if_neg (Bool.eq_false_iff.1 (alone p b rfl body)), if_neg taken]
      exact ⟨_, rfl⟩

end Join

theorem extends_iff (b : SegBody) (extent frame cls : Nat) : extends_ b extent frame cls = true ↔
    b.extent = extent ∧ b.first + b.count = frame ∧ b.sealPart.getD 0 = cls ∧ b.pace = none := by
  rw [extends_, SegBody.sealClass]
  simp only [Bool.and_eq_true, decide_eq_true_eq, Option.isNone_iff_eq_none, and_assoc]

/-! ### What a joined frame leaves -/

/-- A frame joined to a job: the job is one frame longer, and the other jobs stand. -/
structure FrameJoined (s t : State) (j : Nat) : Prop where
  length : (t.job j).length = (s.job j).length + 1
  jobs : ∀ k, k ≠ j → t.job k = s.job k
  frame : t = { s with jobs := t.jobs, segs := t.segs, segFree := t.segFree, exts := t.exts }

theorem job_jobGrown (s : State) (j : Nat) :
    (jobGrown s j).job j = { s.job j with length := (s.job j).length + 1 } := by
  rw [jobGrown, updJob_eq, job_setJob]

theorem job_jobGrown_ne (s : State) {j k : Nat} (other : k ≠ j) : (jobGrown s j).job k = s.job k := by
  rw [jobGrown, updJob_eq, job_setJob_ne _ _ _ _ other]

theorem frameLinked_frame (s : State) (j : Nat) (pred : Option Nat) (b : SegBody) : frameLinked s j pred b = { s with
    jobs := (frameLinked s j pred b).jobs, segs := (frameLinked s j pred b).segs, segFree := s.segFree - 1 } := by
  cases pred <;> rfl

theorem seg_newSeg (s : State) (b : SegBody) :
    (s.newSeg b).1.seg s.lowestFreeSeg = { s.seg s.lowestFreeSeg with body := some b } := seg_setSeg s _ _

theorem seg_newSeg_ne (s : State) (b : SegBody) {m : Nat} (other : m ≠ s.lowestFreeSeg) : (s.newSeg b).1.seg m = s.seg m :=
  seg_setSeg_ne s _ _ _ other

theorem segRef_newSeg (s : State) (b : SegBody) : (s.newSeg b).1.segRef s.lowestFreeSeg = splitRef s := by
  rw [segRef, seg_newSeg, splitRef]

theorem job_frameLinked_front (s : State) (j : Nat) (b : SegBody) :
    (frameLinked s j none b).job j = { s.job j with segHead := some (splitRef s) } := by
  rw [frameLinked, linkSeg, updJob_eq, job_setJob, segRef_newSeg]
  rfl

theorem job_frameLinked_ne (s : State) {j k : Nat} (other : k ≠ j) (pred : Option Nat) (b : SegBody) :
    (frameLinked s j pred b).job k = s.job k := by
  cases pred with
  | none => exact job_setJob_ne _ _ _ _ other
  | some p => rfl

theorem length_frameLinked (s : State) (j : Nat) (pred : Option Nat) (b : SegBody) :
    ((frameLinked s j pred b).job j).length = (s.job j).length := by
  cases pred with
  | none => rw [job_frameLinked_front]
  | some p => rfl

theorem seg_frameLinked_new (s : State) (j : Nat) {pred : Option Nat} (b : SegBody) (apart : pred ≠ some s.lowestFreeSeg) :
    (frameLinked s j pred b).seg s.lowestFreeSeg = { s.seg s.lowestFreeSeg with body := some b } := by
  cases pred with
  | none => exact seg_newSeg s b
  | some p =>
    rw [frameLinked, linkSeg, updSegBody, seg_setSeg_ne _ _ _ _ fun same => apart (congrArg some same.symm), seg_newSeg]

theorem seg_frameLinked_pred (s : State) (j : Nat) {p : Nat} (b : SegBody) (apart : p ≠ s.lowestFreeSeg) :
    (frameLinked s j (some p) b).seg p =
      { s.seg p with body := (s.seg p).body.map fun x => { x with next := some (splitRef s) } } := by
  rw [frameLinked, linkSeg, updSegBody, seg_setSeg, segRef_newSeg, seg_newSeg_ne s b apart]

theorem seg_frameLinked_ne (s : State) (j : Nat) {pred : Option Nat} (b : SegBody) {m : Nat} (new : m ≠ s.lowestFreeSeg)
    (apart : pred ≠ some m) : (frameLinked s j pred b).seg m = s.seg m := by
  cases pred with
  | none => exact seg_newSeg_ne s b new
  | some p =>
    rw [frameLinked, linkSeg, updSegBody, seg_setSeg_ne _ _ _ _ fun same => apart (congrArg some same.symm),
      seg_newSeg_ne s b new]

theorem frameJoined_frameExtended (s : State) (j p : Nat) : FrameJoined s (frameExtended s j p) j where
  length := by rw [frameExtended, job_jobGrown]; rfl
  jobs := fun k other => by rw [frameExtended, job_jobGrown_ne _ other]; rfl
  frame := rfl

section Seated
variable (s : State) (j : Nat) (pred : Option Nat) (extent frame cls : Nat) (next : Option Ref)

theorem seg_frameSeated (m : Nat) : (frameSeated s j pred extent frame cls next).seg m =
    (frameLinked s j pred (frameSeg (s.jobRef j) extent frame cls next)).seg m := by
  have taken := extentTaken_frame (frameLinked s j pred (frameSeg (s.jobRef j) extent frame cls next)) extent cls
  rw [frameSeated]
  generalize extentTaken _ extent cls = t at taken
  exact (congrArg (fun u => State.seg u m) taken :)

theorem job_frameSeated : (frameSeated s j pred extent frame cls next).job j =
    { (frameLinked s j pred (frameSeg (s.jobRef j) extent frame cls next)).job j with
      length := (s.job j).length + 1 } := by
  have taken := extentTaken_frame (frameLinked s j pred (frameSeg (s.jobRef j) extent frame cls next)) extent cls
  have length := length_frameLinked s j pred (frameSeg (s.jobRef j) extent frame cls next)
  rw [frameSeated]
  generalize frameLinked s j pred (frameSeg (s.jobRef j) extent frame cls next) = v at taken length
  generalize extentTaken v extent cls = t at taken
  have job : t.job j = v.job j := (congrArg (fun u => State.job u j) taken :)
  rw [job_jobGrown, job, length]

theorem frameJoined_frameSeated : FrameJoined s (frameSeated s j pred extent frame cls next) j := by
  have linked := frameLinked_frame s j pred (frameSeg (s.jobRef j) extent frame cls next)
  have taken := extentTaken_frame (frameLinked s j pred (frameSeg (s.jobRef j) extent frame cls next)) extent cls
  have others (k : Nat) (other : k ≠ j) :=
    job_frameLinked_ne s other pred (frameSeg (s.jobRef j) extent frame cls next)
  have length : ((frameSeated s j pred extent frame cls next).job j).length = (s.job j).length + 1 := by
    rw [job_frameSeated]
  rw [frameSeated] at length ⊢
  generalize frameLinked s j pred (frameSeg (s.jobRef j) extent frame cls next) = v at linked taken others length
  generalize extentTaken v extent cls = t at taken length
  have job (k : Nat) : t.job k = v.job k := (congrArg (fun u => State.job u k) taken :)
  refine ⟨length, fun k other => ?_, ?_⟩
  · rw [job_jobGrown_ne _ other, job, others k other]
  · have grown : jobGrown t j = { t with jobs := (jobGrown t j).jobs } := rfl
    generalize jobGrown t j = u at grown
    rw [grown, taken, linked]

theorem segFree_frameSeated : (frameSeated s j pred extent frame cls next).segFree = s.segFree - 1 := by
  have linked := frameLinked_frame s j pred (frameSeg (s.jobRef j) extent frame cls next)
  have taken := extentTaken_frame (frameLinked s j pred (frameSeg (s.jobRef j) extent frame cls next)) extent cls
  rw [frameSeated]
  generalize frameLinked s j pred (frameSeg (s.jobRef j) extent frame cls next) = v at linked taken
  generalize extentTaken v extent cls = t at taken
  change t.segFree = s.segFree - 1
  rw [taken, linked]

theorem ext_frameSeated : (frameSeated s j pred extent frame cls next).ext extent = { s.ext extent with
    refs := (s.ext extent).refs + 1, taint := (s.ext extent).taint || decide (cls ≠ 0) } := by
  have linked := frameLinked_frame s j pred (frameSeg (s.jobRef j) extent frame cls next)
  have taken := ext_extentTaken (frameLinked s j pred (frameSeg (s.jobRef j) extent frame cls next)) extent cls
  rw [frameSeated]
  generalize frameLinked s j pred (frameSeg (s.jobRef j) extent frame cls next) = v at linked taken
  generalize extentTaken v extent cls = t at taken
  have ext : v.ext extent = s.ext extent := (congrArg (fun u => State.ext u extent) linked :)
  rw [← ext]
  exact taken

end Seated

/-- A frame finds a place in its job where a segment record is free. -/
theorem exists_joinFrame {s : State} (room : 0 < s.segFree) (j : Nat) (pred : Option Nat) (extent frame cls : Nat) :
    ∃ t a, s.joinFrame j pred extent frame cls = some (t, a) ∧ FrameJoined s t j := by
  by_cases alone : ∀ p b, pred = some p → (s.seg p).body = some b → extends_ b extent frame cls = false
  · obtain ⟨a, join⟩ := joinFrame_of_fresh j extent frame cls room alone
    exact ⟨_, a, join, frameJoined_frameSeated s j pred extent frame cls _⟩
  · push Not at alone
    obtain ⟨p, b, rfl, body, ext⟩ := alone
    exact ⟨_, _, joinFrame_of_extends j extent frame cls body (Bool.eq_true_of_not_eq_false ext),
      frameJoined_frameExtended s j p⟩

/-! ### A frame placed at the end of the job (R36) -/

/-- A frame placed at its job's end. -/
structure EndPlaced (s u : State) (j : Nat) : Prop where
  length : (u.job j).length = (s.job j).length + 1
  jobs : ∀ k, k ≠ j → u.job k = s.job k
  frame : u = { s with jobs := u.jobs, segs := u.segs, segFree := u.segFree, exts := u.exts, cues := u.cues }

/-- A frame that has joined its job at the end, with the cues at END moved onto it and the CUE parts (R31, R32). -/
def endJoined (t : State) (j : Nat) (a : Anchor) : State := (t.moveEndCues j a).refreshParts j

theorem sameSegs_endJoined (t : State) (j : Nat) (a : Anchor) : SameSegs t (endJoined t j a) := by
  have moved : SameSegs t (t.moveEndCues j a) := .of_segs rfl
  exact moved.trans (sameSegs_refreshParts _ j)

theorem endJoined_frame (t : State) (j : Nat) (a : Anchor) : endJoined t j a = { t with
    cues := (t.moveEndCues j a).cues, segs := (endJoined t j a).segs } := by
  have parts := refreshParts_frame (t.moveEndCues j a) j
  rw [endJoined]
  generalize (t.moveEndCues j a).refreshParts j = u at parts
  rw [parts]
  rfl

theorem FrameJoined.endPlaced {s t : State} {j : Nat} (joined : FrameJoined s t j) (a : Anchor) :
    EndPlaced s (endJoined t j a) j := by
  have frame := endJoined_frame t j a
  have job (k : Nat) : (endJoined t j a).job k = t.job k := (congrArg (fun u => State.job u k) frame :)
  refine ⟨by rw [job, joined.length], fun k other => by rw [job, joined.jobs k other], ?_⟩
  generalize endJoined t j a = u at frame
  rw [frame, joined.frame]

/-- The last segment of a job, after which a frame is placed at its end. -/
def lastSeg (s : State) (j : Nat) : Option Nat := (s.jobSegs j).getLast?.map Prod.fst

theorem placeAppend_of_join {s t : State} {c : Capture} {e : Entry} {a : Anchor}
    (join : s.joinFrame c.job.idx (lastSeg s c.job.idx) e.extent e.frame c.ctx.sealClass = some (t, a)) :
    s.placeAppend c e = some (endJoined t c.job.idx a) := by
  rw [lastSeg] at join
  rw [placeAppend, join]
  rfl

theorem exists_placeAppend {s : State} (room : 0 < s.segFree) (c : Capture) (e : Entry) :
    ∃ u, s.placeAppend c e = some u ∧ EndPlaced s u c.job.idx := by
  obtain ⟨t, a, join, joined⟩ := exists_joinFrame room c.job.idx (lastSeg s c.job.idx) e.extent e.frame c.ctx.sealClass
  exact ⟨_, placeAppend_of_join join, joined.endPlaced a⟩

theorem body_of_mem_segsFrom {s : State} {n : Nat} {o : Option Ref} {x : Nat × SegBody} (mem : x ∈ s.segsFrom n o) :
    (s.seg x.1).body = some x.2 := by
  induction n generalizing o with
  | zero => cases mem
  | succ n ih =>
    cases o with
    | none => cases mem
    | some r =>
      rw [segsFrom] at mem
      cases body : (s.seg r.idx).body with
      | none => rw [body] at mem; cases mem
      | some b =>
        rw [body] at mem
        rcases List.mem_cons.1 mem with rfl | mem
        · exact body
        · exact ih mem

theorem ne_lowestFreeSeg {s : State} (canon : Canonical s) {i : Nat} {b : SegBody} (body : (s.seg i).body = some b) :
    i ≠ s.lowestFreeSeg := by
  intro same
  exact Option.some_ne_none b (body.symm.trans (same ▸ (seg_lowestFreeSeg canon).1))

theorem lastSeg_of_empty {s : State} {j : Nat} (head : (s.job j).segHead = none) : lastSeg s j = none := by
  rw [lastSeg, jobSegs, head]
  cases Config.segRecords <;> rfl

section EndFacts
variable {s u : State} {c : Capture} {e : Entry} (placed : s.placeAppend c e = some u)
include placed

theorem placed_of_extends {i : Nat} {b : SegBody} (last : (s.jobSegs c.job.idx).getLast? = some (i, b))
    (ext : extends_ b e.extent e.frame c.ctx.sealClass = true) :
    u.segFree = s.segFree ∧ ∃ q, (u.seg i).body = some { b with count := b.count + 1, cue := q } := by
  have body : (s.seg i).body = some b := body_of_mem_segsFrom (List.mem_of_getLast? last)
  have join := joinFrame_of_extends c.job.idx e.extent e.frame c.ctx.sealClass body ext
  have pred : lastSeg s c.job.idx = some i := by rw [lastSeg, last]; rfl
  obtain rfl := Option.some.inj (placed.symm.trans (placeAppend_of_join (by rw [pred]; exact join)))
  have seg : (frameExtended s c.job.idx i).seg i = { s.seg i with body := some { b with count := b.count + 1 } } :=
    (seg_setSeg s i _).trans (by rw [body]; rfl)
  obtain ⟨q, part⟩ := (sameSegs_endJoined (frameExtended s c.job.idx i) c.job.idx (.frame (s.segRef i) b.count)).seg_of
    (congrArg Seg.body seg)
  have frame := endJoined_frame (frameExtended s c.job.idx i) c.job.idx (.frame (s.segRef i) b.count)
  refine ⟨by rw [frame]; rfl, q, by rw [part]⟩

/-- The state after a frame that extends nothing is placed at the end. -/
theorem placed_of_fresh (room : 0 < s.segFree)
    (alone : ∀ p b, lastSeg s c.job.idx = some p → (s.seg p).body = some b →
      extends_ b e.extent e.frame c.ctx.sealClass = false) :
    ∃ a, u = endJoined (frameSeated s c.job.idx (lastSeg s c.job.idx) e.extent e.frame c.ctx.sealClass
      (linkedBefore s c.job.idx (lastSeg s c.job.idx))) c.job.idx a := by
  obtain ⟨a, join⟩ := joinFrame_of_fresh c.job.idx e.extent e.frame c.ctx.sealClass room alone
  exact ⟨a, Option.some.inj (placed.symm.trans (placeAppend_of_join join))⟩

theorem placed_at_front (room : 0 < s.segFree) (head : (s.job c.job.idx).segHead = none) :
    u.segFree = s.segFree - 1 ∧ ∃ q, (u.seg s.lowestFreeSeg).body =
      some { frameSeg (s.jobRef c.job.idx) e.extent e.frame c.ctx.sealClass none with cue := q } := by
  have pred := lastSeg_of_empty head
  obtain ⟨a, rfl⟩ := placed_of_fresh placed room (by rw [pred]; nofun)
  rw [pred, linkedBefore, head]
  have seg := seg_frameSeated s c.job.idx none e.extent e.frame c.ctx.sealClass none s.lowestFreeSeg
  have segFree := segFree_frameSeated s c.job.idx none e.extent e.frame c.ctx.sealClass none
  rw [seg_frameLinked_new _ _ _ (by nofun)] at seg
  generalize frameSeated s c.job.idx none e.extent e.frame c.ctx.sealClass none = v at seg segFree
  obtain ⟨q, part⟩ := (sameSegs_endJoined v c.job.idx a).seg_of (congrArg Seg.body seg)
  exact ⟨by rw [endJoined_frame]; exact segFree, q, by rw [part]⟩

theorem placed_after (room : 0 < s.segFree) (canon : Canonical s) {i : Nat} {b : SegBody}
    (last : (s.jobSegs c.job.idx).getLast? = some (i, b))
    (alone : extends_ b e.extent e.frame c.ctx.sealClass = false) :
    u.segFree = s.segFree - 1 ∧
    u.ext e.extent = { s.ext e.extent with
      refs := (s.ext e.extent).refs + 1, taint := (s.ext e.extent).taint || decide (c.ctx.sealClass ≠ 0) } ∧
    ∃ q r, (u.seg i).body = some { b with next := some (splitRef s), cue := r } ∧
      (u.seg s.lowestFreeSeg).body =
        some { frameSeg (s.jobRef c.job.idx) e.extent e.frame c.ctx.sealClass b.next with cue := q } := by
  have body : (s.seg i).body = some b := body_of_mem_segsFrom (List.mem_of_getLast? last)
  have pred : lastSeg s c.job.idx = some i := by rw [lastSeg, last]; rfl
  have apart := ne_lowestFreeSeg canon body
  obtain ⟨a, rfl⟩ := placed_of_fresh placed room fun p x known bodyX => by
    obtain rfl := Option.some.inj (pred.symm.trans known)
    obtain rfl := Option.some.inj (body.symm.trans bodyX)
    exact alone
  rw [pred, linkedBefore, body]
  dsimp only [Option.bind_some]
  have seg := seg_frameSeated s c.job.idx (some i) e.extent e.frame c.ctx.sealClass b.next
  have segFree := segFree_frameSeated s c.job.idx (some i) e.extent e.frame c.ctx.sealClass b.next
  have ext := ext_frameSeated s c.job.idx (some i) e.extent e.frame c.ctx.sealClass b.next
  have new := (seg s.lowestFreeSeg).trans (seg_frameLinked_new _ _ _ fun same => apart (Option.some.inj same))
  have old := (seg i).trans (seg_frameLinked_pred _ _ _ apart)
  rw [body] at old
  generalize frameSeated s c.job.idx (some i) e.extent e.frame c.ctx.sealClass b.next = v at segFree ext new old
  have same := sameSegs_endJoined v c.job.idx a
  obtain ⟨q, newPart⟩ := same.seg_of (congrArg Seg.body new)
  obtain ⟨r, oldPart⟩ := same.seg_of (congrArg Seg.body old)
  have frame := endJoined_frame v c.job.idx a
  refine ⟨by rw [frame]; exact segFree, ?_, q, r, by rw [oldPart], by rw [newPart]⟩
  exact (congrArg (fun w => State.ext w e.extent) frame).trans ext

end EndFacts

end Sys2Proof.Machine
end

section
/-! ## Captures: frames placed at the capture point

What the placements INSERT and OVERWRITE leave (R37, R38). -/

set_option Elab.async false

namespace Sys2Proof.Machine
open State

/-! ### INSERT (R37) -/

theorem placeInsert_eq (s : State) (c : Capture) (q : Ref) (e : Entry) : s.placeInsert c q e =
    s.joinFrame c.job.idx (segBefore (s.jobSegs c.job.idx) q.idx) e.extent e.frame c.ctx.sealClass := rfl

theorem seg_frameExtended {s : State} {i : Nat} {b : SegBody} (body : (s.seg i).body = some b) (j : Nat) :
    (frameExtended s j i).seg i = { s.seg i with body := some { b with count := b.count + 1 } } :=
  (seg_setSeg s i _).trans (by rw [body]; rfl)

theorem seg_frameExtended_ne (s : State) (j : Nat) {i m : Nat} (other : m ≠ i) : (frameExtended s j i).seg m = s.seg m :=
  seg_setSeg_ne s i _ m other

section Insert
variable {s t : State} {c : Capture} {q : Ref} {e : Entry} {a : Anchor} (placed : s.placeInsert c q e = some (t, a))
include placed

theorem inserted_of_extends {i : Nat} {b : SegBody} (before : segBefore (s.jobSegs c.job.idx) q.idx = some i)
    (body : (s.seg i).body = some b) (ext : extends_ b e.extent e.frame c.ctx.sealClass = true) :
    t = frameExtended s c.job.idx i ∧ a = .frame (s.segRef i) b.count := by
  have join := joinFrame_of_extends c.job.idx e.extent e.frame c.ctx.sealClass body ext
  rw [placeInsert_eq, before, join] at placed
  exact Prod.mk.inj (Option.some.inj placed.symm)

theorem inserted_after (room : 0 < s.segFree) (canon : Canonical s) {i : Nat} {b : SegBody}
    (before : segBefore (s.jobSegs c.job.idx) q.idx = some i) (body : (s.seg i).body = some b)
    (alone : extends_ b e.extent e.frame c.ctx.sealClass = false) :
    t.seg i = { s.seg i with body := some { b with next := some (splitRef s) } } ∧
    (t.seg s.lowestFreeSeg).body = some (frameSeg (s.jobRef c.job.idx) e.extent e.frame c.ctx.sealClass b.next) ∧
    (∀ m, m ≠ i → m ≠ s.lowestFreeSeg → t.seg m = s.seg m) ∧ t.segFree = s.segFree - 1 := by
  have apart := ne_lowestFreeSeg canon body
  obtain ⟨x, join⟩ := joinFrame_of_fresh (pred := some i) c.job.idx e.extent e.frame c.ctx.sealClass room
    fun p y known bodyY => by
      obtain rfl := Option.some.inj known
      obtain rfl := Option.some.inj (body.symm.trans bodyY)
      exact alone
  rw [placeInsert_eq, before, join] at placed
  obtain ⟨rfl, -⟩ := Prod.mk.inj (Option.some.inj placed.symm)
  rw [linkedBefore, body]
  dsimp only [Option.bind_some]
  have seg := seg_frameSeated s c.job.idx (some i) e.extent e.frame c.ctx.sealClass b.next
  refine ⟨?_, ?_, fun m other old => ?_, segFree_frameSeated s c.job.idx (some i) e.extent e.frame c.ctx.sealClass b.next⟩
  · rw [seg, seg_frameLinked_pred _ _ _ apart, body]
    rfl
  · rw [seg, seg_frameLinked_new _ _ _ fun same => apart (Option.some.inj same)]
  · rw [seg, seg_frameLinked_ne _ _ _ old fun same => other (Option.some.inj same).symm]

theorem inserted_at_front (room : 0 < s.segFree) (before : segBefore (s.jobSegs c.job.idx) q.idx = none) :
    (t.job c.job.idx).segHead = some (splitRef s) ∧
    (t.seg s.lowestFreeSeg).body =
      some (frameSeg (s.jobRef c.job.idx) e.extent e.frame c.ctx.sealClass (s.job c.job.idx).segHead) ∧
    (∀ m, m ≠ s.lowestFreeSeg → t.seg m = s.seg m) ∧ t.segFree = s.segFree - 1 := by
  obtain ⟨x, join⟩ := joinFrame_of_fresh (pred := none) c.job.idx e.extent e.frame c.ctx.sealClass room (by nofun)
  rw [placeInsert_eq, before, join] at placed
  obtain ⟨rfl, -⟩ := Prod.mk.inj (Option.some.inj placed.symm)
  rw [linkedBefore]
  have seg := seg_frameSeated s c.job.idx none e.extent e.frame c.ctx.sealClass (s.job c.job.idx).segHead
  refine ⟨?_, ?_, fun m old => ?_, segFree_frameSeated s c.job.idx none e.extent e.frame c.ctx.sealClass _⟩
  · rw [job_frameSeated, job_frameLinked_front]
  · rw [seg, seg_frameLinked_new _ _ _ (by nofun)]
  · rw [seg, seg_frameLinked_ne _ _ _ old (by nofun)]

end Insert

theorem exists_placeInsert {s : State} (room : 0 < s.segFree) (c : Capture) (q : Ref) (e : Entry) :
    ∃ t a, s.placeInsert c q e = some (t, a) ∧ FrameJoined s t c.job.idx :=
  exists_joinFrame room c.job.idx (segBefore (s.jobSegs c.job.idx) q.idx) e.extent e.frame c.ctx.sealClass

/-! ### OVERWRITE: the first frame dropped (R38, steps 2 and 3) -/

/-- The first frame of an overwritten segment dropped, with the anchors on it moved and its cues not yet in order. -/
def firstFrameLost (s : State) (j : Nat) (q : Ref) (run : Anchor) : State :=
  ((s.updSegBody q.idx fun b => { b with first := b.first + 1, count := b.count - 1 }).updJob j fun x =>
    { x with length := x.length - 1 }).mapCueAnchors (dropAnchor q.idx run)

theorem dropFirst_eq (s : State) (j : Nat) (q : Ref) (run : Anchor) :
    ∃ l, s.dropFirst j q run = (firstFrameLost s j q run).orderCues j l := ⟨_, rfl⟩

/-- What a dropped first frame leaves. -/
structure FirstDropped (s u : State) (j : Nat) (q : Ref) (run : Anchor) : Prop where
  seg : ∀ g, (s.seg q.idx).body = some g →
    u.seg q.idx = { s.seg q.idx with body := some { g with first := g.first + 1, count := g.count - 1 } }
  segs : ∀ m, m ≠ q.idx → u.seg m = s.seg m
  length : (u.job j).length = (s.job j).length - 1
  cues : ∀ m, (u.cue m).body.map CueBody.unlinked =
    (s.cue m).body.map fun z => { z with next := none, anchor := dropAnchor q.idx run z.anchor }
  frame : u = { s with segs := u.segs, jobs := u.jobs, cues := u.cues }

theorem firstDropped_dropFirst {s : State} (wf : Table.wf ({} : Cue) s.cues = true) (j : Nat) (q : Ref) (run : Anchor) :
    FirstDropped s (s.dropFirst j q run) j q run := by
  obtain ⟨l, eq⟩ := dropFirst_eq s j q run
  rw [eq]
  have seg : (firstFrameLost s j q run).seg q.idx = { s.seg q.idx with
      body := (s.seg q.idx).body.map fun b => { b with first := b.first + 1, count := b.count - 1 } } := seg_setSeg s _ _
  have segs (m : Nat) (other : m ≠ q.idx) : (firstFrameLost s j q run).seg m = s.seg m := seg_setSeg_ne s _ _ _ other
  have job : (firstFrameLost s j q run).job j = { s.job j with length := (s.job j).length - 1 } := job_setJob s _ _
  have cue (m : Nat) : (firstFrameLost s j q run).cue m = (s.cue m).movedBy (dropAnchor q.idx run) :=
    cue_mapCueAnchors wf _ m
  have lost : firstFrameLost s j q run = { s with
    segs := (firstFrameLost s j q run).segs, jobs := (firstFrameLost s j q run).jobs
    cues := (firstFrameLost s j q run).cues } := rfl
  generalize firstFrameLost s j q run = v at seg segs job cue lost
  have frame := orderCues_frame v j l
  have cues := sameCues_orderCues v j l
  have ordered := job_orderCues v j l
  generalize v.orderCues j l = u at frame cues ordered
  have same (m : Nat) : u.seg m = v.seg m := (congrArg (fun w => State.seg w m) frame :)
  refine ⟨fun g body => ?_, fun m other => (same m).trans (segs m other), ?_, fun m => ?_, ?_⟩
  · rw [same, seg, body]
    rfl
  · rw [ordered, job]
  · rw [cues.body, cue, Cue.movedBy, Option.map_map]
    rfl
  · rw [frame, lost]

/-! ### OVERWRITE: the segment left empty (R38, step 4) -/

/-- The anchor that takes the place of an emptied segment. -/
def followingAnchor (b : SegBody) : Anchor := match b.next with | some r => .frame r 0 | none => .jobEnd

/-- Where a point goes when its segment is retired. -/
def retiredPoint (q : Ref) (follow : Anchor) : Anchor → Anchor
  | .frame r k => if r = q then follow else .frame r k
  | .jobEnd => .jobEnd

theorem retireEmpty_of_frames {s : State} {q : Ref} {b : SegBody} (body : (s.seg q.idx).body = some b)
    (frames : b.count ≠ 0) (j : Nat) : s.retireEmpty j q = s := by
  rw [retireEmpty, body]
  exact if_neg frames

theorem retireEmpty_of_empty {s : State} {q : Ref} {b : SegBody} (body : (s.seg q.idx).body = some b)
    (empty : b.count = 0) (j : Nat) : s.retireEmpty j q =
      ((s.unlinkSeg j q.idx).freeSeg q.idx).mapPoints (retiredPoint q (followingAnchor b)) := by
  rw [retireEmpty, body]
  dsimp only
  rw [if_pos empty]
  refine congrArg _ (funext fun x => ?_)
  cases x <;> rfl

/-- What an unlinked segment leaves: the links before it, and nothing else. -/
structure SegUnlinked (s u : State) (j i : Nat) : Prop where
  issue : (u.seg i).issue = (s.seg i).issue
  body : (u.seg i).body ≠ none
  length : (u.job j).length = (s.job j).length
  frame : u = { s with segs := u.segs, jobs := u.jobs }

theorem segUnlinked_unlinkSeg {s : State} {i : Nat} {b : SegBody} (body : (s.seg i).body = some b) (j : Nat) :
    SegUnlinked s (s.unlinkSeg j i) j i := by
  rw [unlinkSeg, body]
  dsimp only
  split
  · next p _ =>
    have same : ((s.updSegBody p fun x => { x with next := b.next }).seg i).issue = (s.seg i).issue ∧
        ((s.updSegBody p fun x => { x with next := b.next }).seg i).body ≠ none := by
      by_cases own : i = p
      · rw [own, updSegBody, seg_setSeg, ← own, body]
        exact ⟨rfl, Option.some_ne_none _⟩
      · rw [updSegBody, seg_setSeg_ne _ _ _ _ own, body]
        exact ⟨rfl, Option.some_ne_none _⟩
    exact ⟨same.1, same.2, rfl, rfl⟩
  · exact ⟨rfl, by rw [updJob_eq, seg_setJob, body]; exact Option.some_ne_none _, by rw [updJob_eq, job_setJob], rfl⟩

/-- What a retired segment leaves (R38, step 4). -/
structure SegRetired (s u : State) (j : Nat) (q : Ref) (follow : Anchor) : Prop where
  seg : u.seg q.idx = { issue := (s.seg q.idx).issue + 1, body := none }
  segFree : u.segFree = s.segFree + 1
  length : (u.job j).length = (s.job j).length
  cues : u.cues = s.cues
  takes : u.takes = s.takes
  chan : Table.wf ({} : Channel) s.chans = true → ∀ ch, u.chan ch =
    { s.chan ch with stream := (s.chan ch).stream.mapPoint (retiredPoint q follow) }
  placement : Table.wf ({} : Placement) s.places = true → ∀ ch, (u.placement ch).inflight = (s.placement ch).inflight

theorem placement_mapPoints {s : State} (wf : Table.wf ({} : Placement) s.places = true) (f : Anchor → Anchor) (ch : Nat) :
    (s.mapPoints f).placement ch = { s.placement ch with runStart := (s.placement ch).runStart.map f } :=
  Table.get_mapListed _ _ rfl ch s.places 0 wf

/-- The points moved off a segment that has been freed. -/
theorem SegRetired.of_mapPoints {s y : State} {j : Nat} {q : Ref}
    (seg : y.seg q.idx = { issue := (s.seg q.idx).issue + 1, body := none }) (segFree : y.segFree = s.segFree + 1)
    (length : (y.job j).length = (s.job j).length) (cues : y.cues = s.cues) (takes : y.takes = s.takes)
    (chans : y.chans = s.chans) (places : y.places = s.places) (follow : Anchor) :
    SegRetired s (y.mapPoints (retiredPoint q follow)) j q follow where
  seg := seg
  segFree := segFree
  length := length
  cues := cues
  takes := takes
  chan := fun wf ch => by
    rw [chan_mapPoints (by rw [chans]; exact wf), State.chan, State.chan, chans]
  placement := fun wf ch => by
    rw [placement_mapPoints (by rw [places]; exact wf), State.placement, State.placement, places]

theorem segRetired_retireEmpty {s : State} {q : Ref} {b : SegBody} (body : (s.seg q.idx).body = some b)
    (empty : b.count = 0) (j : Nat) : SegRetired s (s.retireEmpty j q) j q (followingAnchor b) := by
  rw [retireEmpty_of_empty body empty]
  obtain ⟨issue, stands, length, frame⟩ := segUnlinked_unlinkSeg body j
  generalize s.unlinkSeg j q.idx = v at issue stands length frame
  obtain ⟨x, bodyX⟩ := Option.ne_none_iff_exists'.1 stands
  have dropped := refDown_frame v x.extent
  rw [freeSeg_of_body bodyX, issue]
  generalize v.refDown x.extent = w at dropped
  have job : w.job j = v.job j := (congrArg (fun t => State.job t j) dropped :)
  have free : v.segFree = s.segFree := by rw [frame]
  have cues : w.cues = s.cues := by rw [dropped, frame]
  have takes : w.takes = s.takes := by rw [dropped, frame]
  have chans : w.chans = s.chans := by rw [dropped, frame]
  have places : w.places = s.places := by rw [dropped, frame]
  exact .of_mapPoints (y := { w.setSeg q.idx { issue := (s.seg q.idx).issue + 1, body := none } with
    segFree := v.segFree + 1 }) (seg_setSeg w q.idx _) (congrArg (· + 1) free) ((congrArg Job.length job).trans length) cues
    takes chans places _

/-! ### A frame placed over another (R38) -/

/-- The state in which a frame has been joined before the capture point's segment and the run start noted. -/
def runNoted (t : State) (ch : Nat) (run : Anchor) : State := t.updPlacement ch fun p => { p with runStart := some run }

theorem placeOverwrite_eq {s t : State} {c : Capture} {q : Ref} {e : Entry} {a : Anchor}
    (placed : s.placeInsert c q e = some (t, a)) (ch : Nat) : s.placeOverwrite ch c q e =
      some ((((runNoted t ch ((t.placement ch).runStart.getD a)).dropFirst c.job.idx q
        ((t.placement ch).runStart.getD a)).retireEmpty c.job.idx q).refreshParts c.job.idx) := by
  rw [placeOverwrite, placed]
  rfl

/-- What a frame leaves that is placed over the first frame of its segment and extends the segment before it. -/
structure FrameOverwritten (s u : State) (ch : Nat) (c : Capture) (q : Ref) (i : Nat) (g b : SegBody) (run : Anchor) :
    Prop where
  length : (u.job c.job.idx).length = (s.job c.job.idx).length
  inflight : (u.placement ch).inflight = (s.placement ch).inflight
  takes : u.takes = s.takes
  cues : ∀ m, (u.cue m).body.map CueBody.unlinked =
    (s.cue m).body.map fun z => { z with next := none, anchor := dropAnchor q.idx run z.anchor }
  more : 2 ≤ g.count → u.chans = s.chans ∧ (u.placement ch).runStart = some run ∧ u.segFree = s.segFree ∧
    ∃ y z, (u.seg q.idx).body = some { g with first := g.first + 1, count := g.count - 1, cue := y } ∧
      (u.seg i).body = some { b with count := b.count + 1, cue := z }
  last : g.count = 1 → u.seg q.idx = { issue := (s.seg q.idx).issue + 1, body := none } ∧ u.segFree = s.segFree + 1 ∧
    ∀ k, u.chan k = { s.chan k with stream := (s.chan k).stream.mapPoint (retiredPoint q (followingAnchor g)) }

/-- The state in which a frame has been joined and the overwritten frame dropped, before an empty segment is retired. -/
def frameReplaced (s : State) (ch j : Nat) (q : Ref) (i : Nat) (run : Anchor) : State :=
  (runNoted (frameExtended s j i) ch run).dropFirst j q run

structure FrameReplaced (s u : State) (ch j : Nat) (q : Ref) (i : Nat) (g b : SegBody) (run : Anchor) : Prop where
  length : (u.job j).length = (s.job j).length
  placement : u.placement ch = { s.placement ch with runStart := some run }
  places : Table.wf ({} : Placement) s.places = true → Table.wf ({} : Placement) u.places = true
  cues : ∀ m, (u.cue m).body.map CueBody.unlinked =
    (s.cue m).body.map fun z => { z with next := none, anchor := dropAnchor q.idx run z.anchor }
  cut : u.seg q.idx = { s.seg q.idx with body := some { g with first := g.first + 1, count := g.count - 1 } }
  extended : u.seg i = { s.seg i with body := some { b with count := b.count + 1 } }
  frame : u = { s with segs := u.segs, jobs := u.jobs, cues := u.cues, places := u.places }

theorem frameReplaced_frameReplaced {s : State} (canon : Canonical s) {j : Nat} {q : Ref} {i : Nat} {g b : SegBody}
    (old : (s.seg q.idx).body = some g) (body : (s.seg i).body = some b) (apart : i ≠ q.idx) (ch : Nat) (run : Anchor) :
    FrameReplaced s (frameReplaced s ch j q i run) ch j q i g b run := by
  obtain ⟨-, -, -, wfPlaces, wfCues, -⟩ := canon
  have joined := frameJoined_frameExtended s j i
  have segFree : (frameExtended s j i).segFree = s.segFree := rfl
  have exts : (frameExtended s j i).exts = s.exts := rfl
  have segI := seg_frameExtended body j
  have segQ := seg_frameExtended_ne s j (Ne.symm apart)
  rw [frameReplaced]
  generalize frameExtended s j i = t at joined segFree exts segI segQ
  have cuesT : t.cues = s.cues := by rw [joined.frame]
  have placesT : t.places = s.places := by rw [joined.frame]
  have noted : runNoted t ch run = { t with places := (runNoted t ch run).places } := rfl
  have placement : (runNoted t ch run).placement ch = { s.placement ch with runStart := some run } := by
    rw [runNoted, updPlacement_eq, placement_setPlacement, State.placement, State.placement, placesT]
  have wfNoted : Table.wf ({} : Placement) (runNoted t ch run).places = true :=
    Table.wf_put _ _ _ _ (by rw [placesT]; exact wfPlaces)
  generalize runNoted t ch run = v at noted placement wfNoted
  have dropped := firstDropped_dropFirst (s := v) (by rw [noted]; exact cuesT.symm ▸ wfCues) j q run
  generalize v.dropFirst j q run = u at dropped
  have seg (m : Nat) : v.seg m = t.seg m := (congrArg (fun w => State.seg w m) noted :)
  have job : v.job j = t.job j := (congrArg (fun w => State.job w j) noted :)
  have cue (m : Nat) : v.cue m = s.cue m := by rw [State.cue, State.cue, noted, cuesT]
  have placesU : u.places = v.places := by rw [dropped.frame]
  constructor
  · rw [dropped.length, job, joined.length]
    rfl
  · rw [State.placement, placesU]
    exact placement
  · intro _
    rw [placesU]
    exact wfNoted
  · intro m
    rw [dropped.cues, cue]
  · rw [dropped.seg g (by rw [seg, segQ, old]), seg, segQ]
  · rw [dropped.segs i apart, seg, segI]
  · rw [dropped.frame, noted, joined.frame, segFree, exts]

theorem SameSegs.seg_of_none {s u : State} (same : SameSegs s u) {i : Nat} (free : (s.seg i).body = none) :
    u.seg i = s.seg i := by
  have issue := same.issue i
  have body := same.body i
  rw [free, Option.map_none, Option.map_eq_none_iff] at body
  generalize u.seg i = x at issue body
  generalize s.seg i = y at issue free
  obtain ⟨_, _⟩ := x
  obtain ⟨_, _⟩ := y
  subst issue body free
  rfl

theorem frameOverwritten_placeOverwrite {s : State} (canon : Canonical s) {ch : Nat} {c : Capture} {q : Ref} {e : Entry}
    {i : Nat} {g b : SegBody} (old : (s.seg q.idx).body = some g) (frames : 1 ≤ g.count)
    (before : segBefore (s.jobSegs c.job.idx) q.idx = some i) (apart : i ≠ q.idx) (body : (s.seg i).body = some b)
    (ext : extends_ b e.extent e.frame c.ctx.sealClass = true) {run : Anchor}
    (start : run = (s.placement ch).runStart.getD (.frame (s.segRef i) b.count)) :
    ∃ u, s.placeOverwrite ch c q e = some u ∧ FrameOverwritten s u ch c q i g b run := by
  have join : s.placeInsert c q e = some (frameExtended s c.job.idx i, .frame (s.segRef i) b.count) := by
    rw [placeInsert_eq, before, joinFrame_of_extends c.job.idx e.extent e.frame c.ctx.sealClass body ext]
  have eq := placeOverwrite_eq join ch
  rw [show ((frameExtended s c.job.idx i).placement ch).runStart = (s.placement ch).runStart from rfl, ← start] at eq
  have replaced := frameReplaced_frameReplaced canon (j := c.job.idx) old body apart ch run
  change _ = some (((frameReplaced s ch c.job.idx q i run).retireEmpty c.job.idx q).refreshParts c.job.idx) at eq
  generalize frameReplaced s ch c.job.idx q i run = d at replaced eq
  refine ⟨_, eq, ?_⟩
  obtain ⟨-, -, -, wfPlaces, -, -, -, -, wfChans, -⟩ := canon
  have cut : (d.seg q.idx).body = some { g with first := g.first + 1, count := g.count - 1 } := congrArg Seg.body replaced.cut
  have chans : d.chans = s.chans := by rw [replaced.frame]
  have takes : d.takes = s.takes := by rw [replaced.frame]
  have segFree : d.segFree = s.segFree := by rw [replaced.frame]
  have parts := sameSegs_refreshParts (d.retireEmpty c.job.idx q) c.job.idx
  have frame := refreshParts_frame (d.retireEmpty c.job.idx q) c.job.idx
  by_cases single : g.count = 1
  · have retired := segRetired_retireEmpty cut (by simp [single]) c.job.idx
    generalize d.retireEmpty c.job.idx q = r at retired parts frame
    generalize r.refreshParts c.job.idx = u at parts frame
    have chan (k : Nat) : u.chan k = r.chan k := (congrArg (fun w => State.chan w k) frame :)
    refine ⟨?_, ?_, ?_, fun m => ?_, fun more => absurd single (by omega), fun _ => ⟨?_, ?_, fun k => ?_⟩⟩
    · rw [show u.job c.job.idx = r.job c.job.idx from (congrArg (fun w => State.job w c.job.idx) frame :), retired.length,
        replaced.length]
    · rw [show u.placement ch = r.placement ch from (congrArg (fun w => State.placement w ch) frame :),
        retired.placement (replaced.places wfPlaces), replaced.placement]
    · rw [frame, retired.takes, takes]
    · rw [show u.cue m = d.cue m by rw [State.cue, State.cue, frame, retired.cues]]
      exact replaced.cues m
    · rw [parts.seg_of_none (congrArg Seg.body retired.seg), retired.seg, replaced.cut]
    · rw [frame, retired.segFree, segFree]
    · rw [chan, retired.chan (by rw [chans]; exact wfChans), State.chan, State.chan, chans]
      rfl
  · rw [retireEmpty_of_frames cut (by dsimp only; omega)] at parts frame ⊢
    generalize d.refreshParts c.job.idx = u at parts frame
    refine ⟨?_, ?_, ?_, fun m => ?_, fun _ => ⟨?_, ?_, ?_, ?_⟩, fun one => absurd one single⟩
    · rw [show u.job c.job.idx = d.job c.job.idx from (congrArg (fun w => State.job w c.job.idx) frame :), replaced.length]
    · rw [show u.placement ch = d.placement ch from (congrArg (fun w => State.placement w ch) frame :), replaced.placement]
    · rw [frame, takes]
    · rw [show u.cue m = d.cue m from (congrArg (fun w => State.cue w m) frame :)]
      exact replaced.cues m
    · rw [frame, chans]
    · rw [show u.placement ch = d.placement ch from (congrArg (fun w => State.placement w ch) frame :), replaced.placement]
    · rw [frame, segFree]
    · obtain ⟨y, partQ⟩ := parts.seg_of cut
      obtain ⟨z, partI⟩ := parts.seg_of (congrArg Seg.body replaced.extended)
      exact ⟨y, z, congrArg Seg.body partQ, congrArg Seg.body partI⟩

end Sys2Proof.Machine
end

section
/-! ## Captures: a good write completed

How the frame at the head of the in-flight list is placed when its write has completed (R34, R36 to R40, R126). -/

set_option Elab.async false

namespace Sys2Proof.Machine
open State

/-! ### The write that has completed -/

section Done
variable {s : State} {a : Access} {ch : Nat} {job : Ref} {data : Frame} (port : s.port = some a)
  (use : a.claim.use = .capture ch job data)
include port use

theorem exec_captureWriteCompletion (check : Bool) :
    exec (.captureWriteCompletion check) s = .next (s.captureWritten a ch job data check) := by
  change Host.Outcome.next _ = _
  rw [port]
  dsimp only
  rw [use]

end Done

/-- The state in which a frame written good stands in the store. -/
def frameStored (s : State) (a : Access) (data : Frame) : State :=
  (s.endAccess a).writeFrame a.claim.extent a.claim.frame data

theorem frameStored_frame (s : State) (a : Access) (data : Frame) : frameStored s a data = { s with
    mem := (frameStored s a data).mem, served := (frameStored s a data).served
    waiting := (frameStored s a data).waiting, port := (frameStored s a data).port } := by
  have ended := endAccess_frame s a
  rw [frameStored]
  generalize s.endAccess a = u at ended
  rw [ended]
  rfl

theorem captureWritten_good (s : State) (a : Access) (ch : Nat) (job : Ref) (data : Frame) :
    s.captureWritten a ch job data false = if a.live then
      placeHeads ch 4 ((frameStored s a data).markWritten ch a.claim.extent a.claim.frame) else frameStored s a data := rfl

/-- A frame written good reads back, whatever placing it then changes. -/
theorem readFrame_captureWritten (s : State) (a : Access) (ch : Nat) (job : Ref) (data : Frame) :
    (s.captureWritten a ch job data false).readFrame a.claim.extent a.claim.frame = data := by
  have stored : (frameStored s a data).readFrame a.claim.extent a.claim.frame = data := readFrame_writeFrame _ _ _ _
  rw [captureWritten_good]
  generalize frameStored s a data = v at stored
  split
  · have marked : (v.markWritten ch a.claim.extent a.claim.frame).mem = v.mem := rfl
    have kept := (placeHeads_records ch 4 (v.markWritten ch a.claim.extent a.claim.frame)).mem
    rw [readFrame, kept, marked]
    exact stored
  · exact stored

/-! ### The head of the list -/

/-- `w` is `s` after a good write, with the only entry of the channel's in-flight list taken off it. -/
structure HeadTaken (s w : State) (ch : Nat) : Prop where
  placement : w.placement ch = { s.placement ch with inflight := [] }
  wf : Canonical s → Canonical w
  frame : w = { s with mem := w.mem, places := w.places, served := w.served, waiting := w.waiting, port := w.port }

/-- The head entry placed as its capture turns, without the entry itself. -/
def headPlaced (w : State) (ch : Nat) (c : Capture) (e : Entry) (turns : Option CapMode) : State :=
  if (turnedEntry e turns).changed && decide (Config.maxLength ≤ ((w.applyTurn ch c turns).job c.job.idx).length) then
    (w.applyTurn ch c turns).abnormalEnd ch .storeFull
  else (w.applyTurn ch c turns).placeAs ch (turnedCapture c turns) (turnedEntry e turns)

theorem placeHeads_of_empty {ch : Nat} {s : State} (empty : (s.placement ch).inflight = []) (n : Nat) :
    placeHeads ch n s = s := by
  cases n with
  | zero => rfl
  | succ n => rw [placeHeads, empty]

theorem placeHeads_of_single {ch : Nat} {s : State} {e : Entry} (inflight : (s.placement ch).inflight = [e])
    (written : e.status = .written) {n : Nat} (room : 0 < n) (empty : ((s.placeHead ch e).placement ch).inflight = []) :
    placeHeads ch n s = s.placeHead ch e := by
  cases n with
  | zero => omega
  | succ n =>
    rw [placeHeads, inflight]
    dsimp only
    rw [if_pos written, placeHeads_of_empty empty]

/-- The change of an overwrite that an entry makes as it is placed (R39). -/
def turnOf (s : State) (c : Capture) (e : Entry) : Option CapMode := if e.mode = .overwrite then s.overwriteTurns c else none

theorem placeHead_eq {s : State} {ch : Nat} {c : Capture} (capture : (s.chan ch).stream = .capture c) (e : Entry) :
    s.placeHead ch e =
      headPlaced (s.updPlacement ch fun p => { p with inflight := p.inflight.tail }) ch c e (turnOf s c e) := by
  rw [placeHead, captureOf_eq capture]
  rfl

theorem turnOf_congr {s u : State} (same : SameMap s u) (c : Capture) (e : Entry) : turnOf u c e = turnOf s c e := by
  rw [turnOf, turnOf, overwriteTurns, overwriteTurns]
  cases c.ctx.point with
  | jobEnd => rfl
  | frame q k =>
    dsimp only
    rw [same.takeCueAt]

theorem wf_frameStored {s : State} (wf : Memory.wf s.mem = true) (a : Access) (data : Frame) :
    Memory.wf (frameStored s a data).mem = true :=
  writeFrame_wf _ _ _ _ (by rw [endAccess_mem]; exact wf)

/-- The entry of a list of one, marked WRITTEN. -/
theorem placement_markWritten {s : State} {ch : Nat} {x : Entry} (inflight : (s.placement ch).inflight = [x]) :
    (s.markWritten ch x.extent x.frame).placement ch =
      { s.placement ch with inflight := [{ x with status := .written }] } := by
  rw [markWritten, updPlacement_eq, placement_setPlacement, inflight, List.map_singleton, if_pos ⟨rfl, rfl⟩]

theorem canonical_of_headTaken {s w : State} (mem : Memory.wf w.mem = true)
    (places : Table.wf ({} : Placement) w.places = true)
    (frame : w = { s with mem := w.mem, places := w.places, served := w.served, waiting := w.waiting, port := w.port })
    (canon : Canonical s) : Canonical w := by
  obtain ⟨-, wfJobs, wfSegs, -, wfCues, wfTakes, wfHolds, wfExts, wfChans, wfLinks⟩ := canon
  refine ⟨mem, ?_, ?_, places, ?_, ?_, ?_, ?_, ?_, ?_⟩
  all_goals
    rw [frame]
    assumption

section Head
variable {s : State} {a : Access} {ch : Nat} {job : Ref} {data : Frame} {c : Capture} {x : Entry}
  (port : s.port = some a) (use : a.claim.use = .capture ch job data) (live : a.live = true)
  (capture : (s.chan ch).stream = .capture c) (inflight : (s.placement ch).inflight = [x])
  (extent : x.extent = a.claim.extent) (frame : x.frame = a.claim.frame)
include port use live capture inflight extent frame

/-- A good write of the only entry in flight places it (R34). -/
theorem exec_captureWriteCompletion_of_head : ∃ w, HeadTaken s w ch ∧
    (((headPlaced w ch c { x with status := .written } (turnOf s c x)).placement ch).inflight = [] →
      exec (.captureWriteCompletion false) s =
        .next (headPlaced w ch c { x with status := .written } (turnOf s c x))) := by
  have stored := frameStored_frame s a data
  have wfMem := fun wf => wf_frameStored (s := s) wf a data
  have exec := exec_captureWriteCompletion port use false
  rw [captureWritten_good, live, if_pos rfl, ← extent, ← frame] at exec
  rw [exec]
  generalize frameStored s a data = v at stored wfMem
  have here : v.placement ch = s.placement ch := (congrArg (fun u => State.placement u ch) stored :)
  have marked := placement_markWritten (s := v) (ch := ch) (x := x) (by rw [here, inflight])
  have kept : v.markWritten ch x.extent x.frame = { v with places := (v.markWritten ch x.extent x.frame).places } := rfl
  have wfMarked (wf : Table.wf ({} : Placement) v.places = true) :
      Table.wf ({} : Placement) (v.markWritten ch x.extent x.frame).places = true := Table.wf_put _ _ _ _ wf
  generalize v.markWritten ch x.extent x.frame = m at marked kept wfMarked
  rw [here] at marked
  have same : SameMap s m := ⟨by rw [kept, stored], by rw [kept, stored], by rw [kept, stored], by rw [kept, stored]⟩
  have stream : (m.chan ch).stream = .capture c := by
    rw [show m.chan ch = s.chan ch by rw [State.chan, State.chan, kept, stored]]
    exact capture
  have turns : turnOf m c { x with status := .written } = turnOf s c x := turnOf_congr same c x
  have heads := placeHeads_of_single (s := m) (ch := ch) (e := { x with status := .written }) (by rw [marked]) rfl
    (n := 4) (by omega)
  rw [placeHead_eq stream, turns] at heads
  have popped : (m.updPlacement ch fun p => { p with inflight := p.inflight.tail }).placement ch =
      { s.placement ch with inflight := [] } := by
    rw [updPlacement_eq, placement_setPlacement, marked]
    rfl
  have frames : (m.updPlacement ch fun p => { p with inflight := p.inflight.tail }) = { m with
    places := (m.updPlacement ch fun p => { p with inflight := p.inflight.tail }).places } := rfl
  have wfPopped (wf : Table.wf ({} : Placement) m.places = true) :
    Table.wf ({} : Placement) (m.updPlacement ch fun p => { p with inflight := p.inflight.tail }).places = true :=
    Table.wf_put _ _ _ _ wf
  generalize m.updPlacement ch (fun p => { p with inflight := p.inflight.tail }) = w at heads popped frames wfPopped
  have whole : w = { s with mem := w.mem, places := w.places, served := w.served, waiting := w.waiting, port := w.port } := by
    rw [frames, kept, stored]
  have mem : w.mem = v.mem := by rw [frames, kept]
  have places : v.places = s.places := by rw [stored]
  refine ⟨w, ⟨popped, fun canon => ?_, whole⟩, fun empty => congrArg _ (heads empty)⟩
  have canonS := canon
  obtain ⟨wfS, -, -, wfPlaces, -⟩ := canon
  exact canonical_of_headTaken (by rw [mem]; exact wfMem wfS) (wfPopped (wfMarked (places.symm ▸ wfPlaces))) whole canonS

end Head

namespace HeadTaken
variable {s w : State} {ch : Nat} (h : HeadTaken s w ch)
include h

theorem map : SameMap s w := ⟨by rw [h.frame], by rw [h.frame], by rw [h.frame], by rw [h.frame]⟩

theorem chans : w.chans = s.chans := by rw [h.frame]

theorem chan (k : Nat) : w.chan k = s.chan k := by rw [State.chan, State.chan, h.chans]

theorem segFree : w.segFree = s.segFree := by rw [h.frame]

theorem notices : w.notices = s.notices := by rw [h.frame]

theorem ext (e : Nat) : w.ext e = s.ext e := by rw [State.ext, State.ext, h.frame]

theorem lowestFreeSeg : w.lowestFreeSeg = s.lowestFreeSeg := by rw [State.lowestFreeSeg, State.lowestFreeSeg, h.map.segs]

theorem splitRef : Machine.splitRef w = Machine.splitRef s := by
  rw [Machine.splitRef, Machine.splitRef, h.lowestFreeSeg, h.map.seg]

theorem jobRef (j : Nat) : w.jobRef j = s.jobRef j := by rw [State.jobRef, State.jobRef, h.map.job]

end HeadTaken

/-! ### A frame settled (R126) -/

theorem countPlaced_of_none {s : State} {ch : Nat} {c : Capture} (capture : (s.chan ch).stream = .capture c)
    (uncounted : c.ctx.remaining = 0) : s.countPlaced ch = s := by
  rw [countPlaced, captureOf_eq capture]
  exact if_pos uncounted

/-- A capture with its remaining count one lower. -/
def remainingLowered (s : State) (ch : Nat) (c : Capture) : State :=
  s.setChan ch { s.chan ch with stream := .capture { c with ctx := { c.ctx with remaining := c.ctx.remaining - 1 } } }

theorem countPlaced_of_some {s : State} {ch : Nat} {c : Capture} (capture : (s.chan ch).stream = .capture c)
    (counted : 0 < c.ctx.remaining) : s.countPlaced ch =
      if c.ctx.remaining = 1 then (remainingLowered s ch c).countEnd ch else remainingLowered s ch c := by
  rw [countPlaced, captureOf_eq capture]
  dsimp only
  rw [if_neg (by omega), updCapture_eq capture]
  rfl

/-! ### What the count leaves of the placement records -/

theorem places_updCapture (s : State) (ch : Nat) (f : Capture → Capture) : (s.updCapture ch f).places = s.places := by
  rw [updCapture]
  split <;> rfl

theorem places_placeHeadTake (s : State) (j : Nat) (label : BitVec 16) (placer : Placer) :
    (s.placeHeadTake j label placer).1.places = s.places := by
  have added := (cueAdded_addCue s j .take label .jobEnd placer).frame
  have chained : (s.placeHeadTake j label placer).1 =
      (s.addCue j .take label .jobEnd placer).1.headTake j s.lowestFreeCue := rfl
  rw [chained]
  generalize (s.addCue j .take label .jobEnd placer).1 = v at added
  have moved := takesMoved_headTake v j s.lowestFreeCue
  generalize v.headTake j s.lowestFreeCue = u at moved
  rw [moved, added]

theorem places_countChained (s : State) (c : Capture) : (countChained s c).places = s.places := by
  rw [countChained, places_placeHeadTake]

theorem places_tryChain (s : State) (ch : Nat) (c : Capture) : (s.tryChain ch c).1.places = s.places := by
  by_cases refused : c.ctx.mode ≠ .append ∨ (s.headRefusal c.job.idx).isSome
  · rw [tryChain, if_pos refused]
    rfl
  · have kept := places_countChained s c
    rw [tryChain_of_made refused]
    generalize countChained s c = v at kept
    exact kept

theorem places_chainStep (s : State) (ch : Nat) (c : Capture) (m : Matrix) : (s.chainStep ch c m).1.places = s.places := by
  rw [chainStep]
  split
  · exact places_tryChain s ch c
  · rfl

theorem places_reloadStep (s : State) (ch : Nat) (m : Matrix) : (s.reloadStep ch m).places = s.places := by
  rw [reloadStep]
  split
  · exact places_updCapture s ch _
  · rfl

theorem places_stopStep (s : State) (ch : Nat) (m : Matrix) : (s.stopStep ch m).places = s.places := by
  rw [stopStep]
  split
  · exact places_updCapture s ch fun c => { c with running := false, counter := 0 }
  · rfl

theorem places_countEnd (s : State) (ch : Nat) : (s.countEnd ch).places = s.places := by
  rw [countEnd]
  split
  · rfl
  · next c _ =>
    dsimp only
    rw [(countLeft_countNotice _ ch c _ _).places, places_stopStep, places_reloadStep, places_chainStep]

theorem places_countPlaced (s : State) (ch : Nat) : (s.countPlaced ch).places = s.places := by
  rw [countPlaced]
  split
  · rfl
  · next c _ =>
    split
    · rfl
    · dsimp only
      split
      · rw [places_countEnd, places_updCapture]
      · rw [places_updCapture]

end Sys2Proof.Machine
end

section
/-! ## Captures: the placements of a good write

What the placement of the head entry leaves under each capture mode (R36 to R40). -/

set_option Elab.async false

namespace Sys2Proof.Machine
open State

/-! ### Which placement an entry takes -/

theorem headPlaced_of_kept {e : Entry} (unchanged : e.changed = false) (w : State) (ch : Nat) (c : Capture) :
    headPlaced w ch c e none = w.placeAs ch c e := by
  rw [headPlaced, turnedEntry, unchanged]
  rfl

theorem headPlaced_of_turned {w : State} {ch : Nat} {c : Capture} {m : CapMode}
    (short : ((w.turnOverwrite ch c m).job c.job.idx).length < 16777215) (e : Entry) : headPlaced w ch c e (some m) =
      (w.turnOverwrite ch c m).placeAs ch { c with ctx := { c.ctx with mode := m } } { e with mode := m, changed := true } := by
  have below : ¬(Config.maxLength ≤ ((w.applyTurn ch c (some m)).job c.job.idx).length) := Nat.not_le.2 short
  rw [headPlaced, decide_eq_false below, Bool.and_false]
  rfl

theorem turnOf_of_other {e : Entry} (mode : e.mode ≠ .overwrite) (s : State) (c : Capture) : turnOf s c e = none :=
  if_neg mode

theorem turnOf_of_end {e : Entry} (mode : e.mode = .overwrite) {c : Capture} (point : c.ctx.point = .jobEnd) (s : State) :
    turnOf s c e = some .append := by
  rw [turnOf, if_pos mode, overwriteTurns, point]

theorem turnOf_of_frame {e : Entry} (mode : e.mode = .overwrite) {s : State} {c : Capture} {q : Ref} {k : Nat}
    (point : c.ctx.point = .frame q k) :
    turnOf s c e = if s.takeCueAt c.job.idx (.frame q k) then some .insert else none := by
  rw [turnOf, if_pos mode, overwriteTurns, point]

theorem placeAs_of_append {e : Entry} (mode : e.mode = .append) (w : State) (ch : Nat) (c : Capture) :
    w.placeAs ch c e = w.settle ch (w.placeAppend c e) := by
  rw [placeAs, mode]

theorem placeAs_of_frame {w : State} {c : Capture} {q : Ref} {k : Nat} (point : c.ctx.point = .frame q k) {e : Entry}
    (mode : e.mode ≠ .append) (ch : Nat) : w.placeAs ch c e =
      if w.editable c.job.idx (w.anchorPos c.job.idx (.frame q k)) then
        (if e.mode = .insert then w.settle ch ((w.placeInsert c q e).map Prod.fst) else
          w.settle ch (w.placeOverwrite ch c q e))
      else w.frozenPlacement ch c := by
  rw [placeAs, point]
  cases known : e.mode with
  | append => exact absurd known mode
  | insert => rfl
  | overwrite => rfl

/-! ### The head entry of a good write placed -/

namespace EndPlaced
variable {s u : State} {j : Nat} (h : EndPlaced s u j)
include h

theorem chan (k : Nat) : u.chan k = s.chan k := by rw [State.chan, State.chan, h.frame]

theorem placement (k : Nat) : u.placement k = s.placement k := by rw [State.placement, State.placement, h.frame]

theorem takes : u.takes = s.takes := by rw [h.frame]

theorem notices : u.notices = s.notices := by rw [h.frame]

end EndPlaced

namespace FrameJoined
variable {s u : State} {j : Nat} (h : FrameJoined s u j)
include h

theorem chan (k : Nat) : u.chan k = s.chan k := by rw [State.chan, State.chan, h.frame]

theorem placement (k : Nat) : u.placement k = s.placement k := by rw [State.placement, State.placement, h.frame]

theorem takes : u.takes = s.takes := by rw [h.frame]

theorem cues : u.cues = s.cues := by rw [h.frame]

end FrameJoined

/-- An overwrite leaves a capture running where its point has gone. -/
theorem FrameOverwritten.stream {s u : State} {ch : Nat} {c : Capture} {q : Ref} {i : Nat} {g b : SegBody} {run : Anchor}
    (h : FrameOverwritten s u ch c q i g b run) (frames : 1 ≤ g.count) (capture : (s.chan ch).stream = .capture c) :
    ∃ p, (u.chan ch).stream = .capture { c with ctx := { c.ctx with point := p } } := by
  by_cases single : g.count = 1
  · obtain ⟨-, -, chan⟩ := h.last single
    exact ⟨_, by rw [chan, capture]; rfl⟩
  · obtain ⟨chans, -⟩ := h.more (by omega)
    exact ⟨c.ctx.point, by rw [State.chan, chans]; exact capture⟩

section Head
variable {s : State} {a : Access} {ch : Nat} {job : Ref} {data : Frame} {c : Capture} {x : Entry}
  (port : s.port = some a) (use : a.claim.use = .capture ch job data) (live : a.live = true)
  (capture : (s.chan ch).stream = .capture c) (inflight : (s.placement ch).inflight = [x])
  (extent : x.extent = a.claim.extent) (frame : x.frame = a.claim.frame)
include port use live capture inflight extent frame

/-- A frame placed APPEND joins the end of its job, and is counted (R36, R126). -/
theorem exec_captureWriteCompletion_of_append (mode : x.mode = .append) (unchanged : x.changed = false)
    (room : 0 < s.segFree) : ∃ w u, HeadTaken s w ch ∧ w.placeAppend c { x with status := .written } = some u ∧
      EndPlaced w u c.job.idx ∧ exec (.captureWriteCompletion false) s = .next (u.countPlaced ch) := by
  obtain ⟨w, taken, run⟩ := exec_captureWriteCompletion_of_head port use live capture inflight extent frame
  obtain ⟨u, appended, placed⟩ := exists_placeAppend (by rw [taken.segFree]; exact room) c { x with status := .written }
  refine ⟨w, u, taken, appended, placed, ?_⟩
  rw [turnOf_of_other (by rw [mode]; exact fun h => CapMode.noConfusion h),
    headPlaced_of_kept (by exact unchanged), placeAs_of_append (by exact mode), appended] at run
  refine run ?_
  rw [settle, State.placement, places_countPlaced]
  exact congrArg Placement.inflight ((placed.placement ch).trans taken.placement)

/-- A good write placed at the capture point of an editable take (R37, R38). -/
theorem exec_captureWriteCompletion_of_frame {q : Ref} {k : Nat} (point : c.ctx.point = .frame q k)
    (mode : x.mode = .insert ∨ x.mode = .overwrite ∧ s.takeCueAt c.job.idx (.frame q k) = false)
    (unchanged : x.changed = false) : ∃ w, HeadTaken s w ch ∧
      (((w.placeAs ch c { x with status := .written }).placement ch).inflight = [] →
        exec (.captureWriteCompletion false) s = .next (w.placeAs ch c { x with status := .written })) := by
  obtain ⟨w, taken, run⟩ := exec_captureWriteCompletion_of_head port use live capture inflight extent frame
  refine ⟨w, taken, ?_⟩
  have turns : turnOf s c x = none := by
    rcases mode with mode | ⟨mode, clear⟩
    · exact turnOf_of_other (by rw [mode]; exact fun h => CapMode.noConfusion h) s c
    · rw [turnOf_of_frame mode point, clear]
      rfl
  rw [turns, headPlaced_of_kept (by exact unchanged)] at run
  exact run

/-- What a frame placed APPEND leaves (R36). -/
theorem appended_facts (mode : x.mode = .append) (unchanged : x.changed = false) (uncounted : c.ctx.remaining = 0)
    (room : 0 < s.segFree) : ∃ u, exec (.captureWriteCompletion false) s = .next u ∧
      (u.job c.job.idx).length = (s.job c.job.idx).length + 1 ∧ (u.placement ch).inflight = [] ∧
      u.chan ch = s.chan ch ∧ u.takes = s.takes ∧ u.notices = s.notices ∧
      (∀ k, k ≠ c.job.idx → u.job k = s.job k) ∧
      ((s.job c.job.idx).segHead = none → u.segFree = s.segFree - 1 ∧
        ∃ q, (u.seg s.lowestFreeSeg).body =
          some { frameSeg (s.jobRef c.job.idx) x.extent x.frame c.ctx.sealClass none with cue := q }) ∧
      (∀ i b, (s.jobSegs c.job.idx).getLast? = some (i, b) → extends_ b x.extent x.frame c.ctx.sealClass = true →
        u.segFree = s.segFree ∧ ∃ q, (u.seg i).body = some { b with count := b.count + 1, cue := q }) ∧
      ∀ i b, Canonical s → (s.jobSegs c.job.idx).getLast? = some (i, b) →
        extends_ b x.extent x.frame c.ctx.sealClass = false →
        u.segFree = s.segFree - 1 ∧
        u.ext x.extent = { s.ext x.extent with
          refs := (s.ext x.extent).refs + 1
          taint := (s.ext x.extent).taint || decide (c.ctx.sealClass ≠ 0) } ∧
        ∃ q r, (u.seg i).body = some { b with next := some (splitRef s), cue := r } ∧
          (u.seg s.lowestFreeSeg).body =
            some { frameSeg (s.jobRef c.job.idx) x.extent x.frame c.ctx.sealClass b.next with cue := q } := by
  obtain ⟨w, u, taken, appended, placed, run⟩ := exec_captureWriteCompletion_of_append port use live capture inflight extent
    frame mode unchanged room
  have chan : u.chan ch = s.chan ch := (placed.chan ch).trans (taken.chan ch)
  rw [countPlaced_of_none (by rw [chan]; exact capture) uncounted] at run
  have roomW : 0 < w.segFree := by rw [taken.segFree]; exact room
  have atFront := placed_at_front appended roomW
  have extending := fun i b => placed_of_extends appended (i := i) (b := b)
  have after := fun i b canon => placed_after appended roomW (i := i) (b := b) (taken.wf canon)
  rw [taken.map.job, taken.segFree, taken.jobRef, taken.lowestFreeSeg] at atFront
  rw [taken.map.jobSegs, taken.segFree] at extending
  simp only [taken.map.jobSegs, taken.segFree, taken.ext, taken.splitRef, taken.jobRef, taken.lowestFreeSeg] at after
  refine ⟨u, run, ?_, ?_, chan, ?_, ?_, fun k other => ?_, atFront, extending, after⟩
  · rw [placed.length, taken.map.job]
  · rw [placed.placement, taken.placement]
  · rw [placed.takes, taken.map.takes]
  · rw [placed.notices, taken.notices]
  · rw [placed.jobs k other, taken.map.job]

/-- What a frame placed APPEND leaves before END of its count is raised (R36, R126). -/
theorem counted_facts (mode : x.mode = .append) (unchanged : x.changed = false) (counted : 0 < c.ctx.remaining)
    (room : 0 < s.segFree) : ∃ t : State,
      exec (.captureWriteCompletion false) s = .next (if c.ctx.remaining = 1 then t.countEnd ch else t) ∧
      t.chan ch = { s.chan ch with
        stream := .capture { c with ctx := { c.ctx with remaining := c.ctx.remaining - 1 } } } ∧
      (t.job c.job.idx).length = (s.job c.job.idx).length + 1 ∧ (t.placement ch).inflight = [] ∧ t.takes = s.takes ∧
      t.notices = s.notices := by
  obtain ⟨w, u, taken, appended, placed, run⟩ := exec_captureWriteCompletion_of_append port use live capture inflight extent
    frame mode unchanged room
  have chan : u.chan ch = s.chan ch := (placed.chan ch).trans (taken.chan ch)
  rw [countPlaced_of_some (by rw [chan]; exact capture) counted] at run
  refine ⟨remainingLowered u ch c, run, ?_, ?_, ?_, ?_, ?_⟩
  · rw [remainingLowered, chan_setChan, chan]
  · exact placed.length.trans (by rw [taken.map.job])
  · exact congrArg Placement.inflight ((placed.placement ch).trans taken.placement)
  · exact placed.takes.trans taken.map.takes
  · exact placed.notices.trans taken.notices

/-- What a frame placed INSERT leaves (R37). -/
theorem inserted_facts {q : Ref} {k : Nat} (point : c.ctx.point = .frame q k) (mode : x.mode = .insert)
    (unchanged : x.changed = false) (uncounted : c.ctx.remaining = 0) (room : 0 < s.segFree) (canon : Canonical s)
    (editable : s.editable c.job.idx (s.anchorPos c.job.idx (.frame q k)) = true) :
    ∃ u : State, exec (.captureWriteCompletion false) s = .next u ∧
      (u.job c.job.idx).length = (s.job c.job.idx).length + 1 ∧ (u.placement ch).inflight = [] ∧ u.chan ch = s.chan ch ∧
      u.cues = s.cues ∧ u.takes = s.takes ∧ (∀ m, m ≠ c.job.idx → u.job m = s.job m) ∧
      (∀ i b, segBefore (s.jobSegs c.job.idx) q.idx = some i → (s.seg i).body = some b →
        (extends_ b x.extent x.frame c.ctx.sealClass = true →
          u.seg i = { s.seg i with body := some { b with count := b.count + 1 } } ∧ (∀ m, m ≠ i → u.seg m = s.seg m) ∧
          u.segFree = s.segFree) ∧
        (extends_ b x.extent x.frame c.ctx.sealClass = false →
          u.seg i = { s.seg i with body := some { b with next := some (splitRef s) } } ∧
          (u.seg s.lowestFreeSeg).body =
            some (frameSeg (s.jobRef c.job.idx) x.extent x.frame c.ctx.sealClass b.next) ∧
          (∀ m, m ≠ i → m ≠ s.lowestFreeSeg → u.seg m = s.seg m) ∧ u.segFree = s.segFree - 1)) ∧
      (segBefore (s.jobSegs c.job.idx) q.idx = none → (u.job c.job.idx).segHead = some (splitRef s) ∧
        (u.seg s.lowestFreeSeg).body =
          some (frameSeg (s.jobRef c.job.idx) x.extent x.frame c.ctx.sealClass (s.job c.job.idx).segHead) ∧
        (∀ m, m ≠ s.lowestFreeSeg → u.seg m = s.seg m) ∧ u.segFree = s.segFree - 1) := by
  obtain ⟨w, taken, run⟩ := exec_captureWriteCompletion_of_frame port use live capture inflight extent frame point
    (.inl mode) unchanged
  have roomW : 0 < w.segFree := by rw [taken.segFree]; exact room
  obtain ⟨u, a, inserted, joined⟩ := exists_placeInsert roomW c q { x with status := .written }
  have chan : u.chan ch = s.chan ch := (joined.chan ch).trans (taken.chan ch)
  have placed : w.placeAs ch c { x with status := .written } = u := by
    rw [placeAs_of_frame point (by simp [mode]), taken.map.anchorPos, taken.map.editable, if_pos editable, if_pos mode,
      inserted, Option.map_some, settle, countPlaced_of_none (by rw [chan]; exact capture) uncounted]
  have empty : (u.placement ch).inflight = [] := by rw [joined.placement, taken.placement]
  rw [placed] at run
  have extending := fun i b => inserted_of_extends inserted (i := i) (b := b)
  have after := fun i b => inserted_after inserted roomW (taken.wf canon) (i := i) (b := b)
  have atFront := inserted_at_front inserted roomW
  simp only [taken.map.jobSegs, taken.map.seg, taken.segFree, taken.splitRef, taken.jobRef, taken.lowestFreeSeg,
    taken.map.job] at extending after atFront
  refine ⟨u, run empty, ?_, empty, chan, ?_, ?_, fun m other => ?_, fun i b before body => ⟨fun ext => ?_, after i b before body⟩,
    atFront⟩
  · rw [joined.length, taken.map.job]
  · rw [joined.cues, taken.map.cues]
  · rw [joined.takes, taken.map.takes]
  · rw [joined.jobs m other, taken.map.job]
  · obtain ⟨rfl, -⟩ := extending i b before body ext
    refine ⟨?_, fun m other => ?_, taken.segFree⟩
    · rw [seg_frameExtended (by rw [taken.map.seg]; exact body), taken.map.seg]
    · rw [seg_frameExtended_ne _ _ other, taken.map.seg]

/-- What a frame placed OVERWRITE leaves when it extends the segment before the capture point's (R38). -/
theorem overwritten_facts {q : Ref} {k : Nat} (point : c.ctx.point = .frame q k) (mode : x.mode = .overwrite)
    (unchanged : x.changed = false) (uncounted : c.ctx.remaining = 0) (canon : Canonical s)
    (editable : s.editable c.job.idx (s.anchorPos c.job.idx (.frame q k)) = true)
    (clear : s.takeCueAt c.job.idx (.frame q k) = false) {g b : SegBody} {i : Nat} {run : Anchor}
    (old : (s.seg q.idx).body = some g) (frames : 1 ≤ g.count)
    (before : segBefore (s.jobSegs c.job.idx) q.idx = some i) (apart : i ≠ q.idx) (body : (s.seg i).body = some b)
    (ext : extends_ b x.extent x.frame c.ctx.sealClass = true)
    (start : run = (s.placement ch).runStart.getD (.frame (s.segRef i) b.count)) :
    ∃ u, exec (.captureWriteCompletion false) s = .next u ∧
      (u.job c.job.idx).length = (s.job c.job.idx).length ∧ (u.placement ch).inflight = [] ∧ u.takes = s.takes ∧
      (∀ m, (u.cue m).body.map CueBody.unlinked =
        (s.cue m).body.map fun z => { z with next := none, anchor := dropAnchor q.idx run z.anchor }) ∧
      (2 ≤ g.count → u.chan ch = s.chan ch ∧ (u.placement ch).runStart = some run ∧ u.segFree = s.segFree ∧
        ∃ y z, (u.seg q.idx).body = some { g with first := g.first + 1, count := g.count - 1, cue := y } ∧
          (u.seg i).body = some { b with count := b.count + 1, cue := z }) ∧
      (g.count = 1 → u.seg q.idx = { issue := (s.seg q.idx).issue + 1, body := none } ∧ u.segFree = s.segFree + 1 ∧
        u.chan ch = { s.chan ch with stream := .capture { c with ctx := { c.ctx with point := followingAnchor g } } }) := by
  obtain ⟨w, taken, exec⟩ := exec_captureWriteCompletion_of_frame port use live capture inflight extent frame point
    (.inr ⟨mode, clear⟩) unchanged
  obtain ⟨u, placed, left⟩ := frameOverwritten_placeOverwrite (taken.wf canon) (ch := ch) (c := c)
    (e := { x with status := .written }) (run := run) (by rw [taken.map.seg]; exact old) frames
    (by rw [taken.map.jobSegs]; exact before) apart (by rw [taken.map.seg]; exact body) ext
    (by rw [taken.placement, taken.map.segRef]; exact start)
  have empty : (u.placement ch).inflight = [] := by rw [left.inflight, taken.placement]
  obtain ⟨p, stream⟩ := left.stream frames (by rw [taken.chan]; exact capture)
  have settled : w.placeAs ch c { x with status := .written } = u := by
    rw [placeAs_of_frame point (by simp [mode]), taken.map.anchorPos, taken.map.editable, if_pos editable,
      if_neg (by simp [mode]), placed, settle, countPlaced_of_none stream uncounted]
  rw [settled] at exec
  refine ⟨u, exec empty, ?_, empty, ?_, fun m => ?_, fun more => ?_, fun one => ?_⟩
  · rw [left.length, taken.map.job]
  · rw [left.takes, taken.map.takes]
  · rw [left.cues, taken.map.cue]
  · obtain ⟨chans, runStart, segFree, parts⟩ := left.more more
    exact ⟨by rw [State.chan, State.chan, chans, taken.chans], runStart, by rw [segFree, taken.segFree], parts⟩
  · obtain ⟨seg, segFree, chan⟩ := left.last one
    refine ⟨by rw [seg, taken.map.seg], by rw [segFree, taken.segFree], ?_⟩
    rw [chan, taken.chan, capture, Stream.mapPoint, point, retiredPoint, if_pos rfl]

end Head

/-! ### An overwrite that turns (R39) -/

/-- What the turn of an overwrite leaves, apart from its notice. -/
structure Turned (s t : State) (ch : Nat) (x : Channel) : Prop where
  map : SameMap s t
  segFree : t.segFree = s.segFree
  placement : t.placement ch = {}
  chan : t.chan ch = x

/-- The capture of an overwrite that has turned, before its notice. -/
def modeTurned (s : State) (ch : Nat) (c : Capture) (m : CapMode) : State :=
  (s.updPlacement ch fun p =>
    { inflight := p.inflight.map fun e => if e.mode = .overwrite then { e with mode := m, changed := true } else e
      runStart := none }).setChan ch { s.chan ch with stream := .capture { c with ctx := { c.ctx with mode := m } } }

theorem turned_modeTurned {s : State} {ch : Nat} (empty : (s.placement ch).inflight = []) (c : Capture) (m : CapMode) :
    Turned s (modeTurned s ch c m) ch
      { s.chan ch with stream := .capture { c with ctx := { c.ctx with mode := m } } } where
  map := ⟨rfl, rfl, rfl, rfl⟩
  segFree := rfl
  placement := by
    rw [modeTurned, placement_setChan, updPlacement_eq, placement_setPlacement, empty]
    rfl
  chan := by rw [modeTurned, chan_setChan]

theorem turnOverwrite_eq {s : State} {ch : Nat} {c : Capture} (capture : (s.chan ch).stream = .capture c) (m : CapMode) :
    s.turnOverwrite ch c m = if m = .insert then
      (modeTurned s ch c m).placeNotice
        ((modeTurned s ch c m).captureNotice ch c.job c.ctx.point .enteredInsert .continued) false
      else modeTurned s ch c m := by
  have turned : ((s.updPlacement ch fun p =>
      { inflight := p.inflight.map fun e => if e.mode = .overwrite then { e with mode := m, changed := true } else e
        runStart := none }).updCapture ch fun c => { c with ctx := { c.ctx with mode := m } }) = modeTurned s ch c m :=
    updCapture_eq (s := s.updPlacement ch _) (c := c) capture _
  rw [turnOverwrite]
  dsimp only
  rw [turned]

theorem turned_to_append {s : State} {ch : Nat} {c : Capture} (capture : (s.chan ch).stream = .capture c)
    (empty : (s.placement ch).inflight = []) : Turned s (s.turnOverwrite ch c .append) ch
      { s.chan ch with stream := .capture { c with ctx := { c.ctx with mode := .append } } } := by
  rw [turnOverwrite_eq capture, if_neg (fun h => CapMode.noConfusion h)]
  exact turned_modeTurned empty c .append

theorem turned_to_insert {s : State} {ch : Nat} {c : Capture} (capture : (s.chan ch).stream = .capture c)
    (empty : (s.placement ch).inflight = []) (slot : (s.chan ch).slot = none) :
    Turned s (s.turnOverwrite ch c .insert) ch { s.chan ch with
      stream := .capture { c with ctx := { c.ctx with mode := .insert } }
      slot := some (s.captureNotice ch c.job c.ctx.point .enteredInsert .continued) } := by
  rw [turnOverwrite_eq capture, if_pos rfl]
  have turned := turned_modeTurned empty c .insert
  generalize modeTurned s ch c .insert = t at turned
  have notice : t.captureNotice ch c.job c.ctx.point .enteredInsert .continued =
      s.captureNotice ch c.job c.ctx.point .enteredInsert .continued := by
    rw [captureNotice, captureNotice, turned.map.anchorPos]
  rw [notice]
  have chan := chan_placeNotice_of_empty (s := t)
    (n := s.captureNotice ch c.job c.ctx.point .enteredInsert .continued) (by
      change (t.chan ch).slot = none
      rw [turned.chan]
      exact slot) false
  have frame := placeNotice_frame t (s.captureNotice ch c.job c.ctx.point .enteredInsert .continued) false
  generalize t.placeNotice (s.captureNotice ch c.job c.ctx.point .enteredInsert .continued) false = u at chan frame
  have map : SameMap t u := ⟨by rw [frame], by rw [frame], by rw [frame], by rw [frame]⟩
  refine ⟨turned.map.trans map, by rw [frame]; exact turned.segFree, ?_, chan.trans ?_⟩
  · rw [← turned.placement, State.placement, State.placement, frame]
  · change ({ t.chan ch with slot := _ } : Channel) = _
    rw [turned.chan]

/-! ### A frozen placement (R40) -/

/-- What a frozen placement leaves. -/
structure PlacementFrozen (s u : State) (ch : Nat) (c : Capture) : Prop where
  placement : u.placement ch = {}
  chan : u.chan ch = { s.chan ch with
    stream := .capture { c with running := false, counter := 0, ctx := { c.ctx with mode := .append, point := .jobEnd } }
    slot := some (s.captureNotice ch c.job c.ctx.point .halt .stopped) }
  waiting : ∀ w ∈ u.waiting, w.use.chan? ≠ some ch
  map : SameMap s u

/-- The capture of a frozen placement, before its notice. -/
def captureFrozen (s : State) (ch : Nat) (c : Capture) : State :=
  ((s.withdraw ch).setPlacement ch {}).setChan ch { s.chan ch with
    stream := .capture { c with running := false, counter := 0, ctx := { c.ctx with mode := .append, point := .jobEnd } } }

theorem frozenPlacement_eq {s : State} {ch : Nat} {c : Capture} (capture : (s.chan ch).stream = .capture c) :
    s.frozenPlacement ch c =
      (captureFrozen s ch c).placeNotice (s.captureNotice ch c.job c.ctx.point .halt .stopped) false := by
  have frozen : (((s.withdraw ch).setPlacement ch {}).updCapture ch fun c =>
      { c with running := false, counter := 0, ctx := { c.ctx with mode := .append, point := .jobEnd } }) =
        captureFrozen s ch c :=
    updCapture_eq (s := (s.withdraw ch).setPlacement ch {}) (c := c) capture _
  rw [frozenPlacement]
  dsimp only
  rw [frozen]

theorem placementFrozen_frozenPlacement {s : State} {ch : Nat} {c : Capture} (capture : (s.chan ch).stream = .capture c)
    (slot : (s.chan ch).slot = none) : PlacementFrozen s (s.frozenPlacement ch c) ch c := by
  rw [frozenPlacement_eq capture]
  have own : (captureFrozen s ch c).chan ch = { s.chan ch with stream := .capture { c with
      running := false, counter := 0, ctx := { c.ctx with mode := .append, point := .jobEnd } } } := chan_setChan _ _ _
  have placement : (captureFrozen s ch c).placement ch = {} := placement_setPlacement (s.withdraw ch) ch {}
  have waiting (w : Claim) (mem : w ∈ (captureFrozen s ch c).waiting) : w.use.chan? ≠ some ch :=
    ((mem_waiting_withdraw s ch w).1 mem).2
  have map : SameMap s (captureFrozen s ch c) := ⟨rfl, rfl, rfl, rfl⟩
  generalize captureFrozen s ch c = v at own placement waiting map
  have chan := chan_placeNotice_of_empty (s := v) (n := s.captureNotice ch c.job c.ctx.point .halt .stopped) (by
    change (v.chan ch).slot = none
    rw [own]
    exact slot) false
  have frame := placeNotice_frame v (s.captureNotice ch c.job c.ctx.point .halt .stopped) false
  have left (w : Claim) (mem : w ∈ (v.placeNotice (s.captureNotice ch c.job c.ctx.point .halt .stopped) false).waiting) :
      w ∈ v.waiting := waiting_placeNotice mem
  generalize v.placeNotice (s.captureNotice ch c.job c.ctx.point .halt .stopped) false = u at chan frame left
  refine ⟨?_, chan.trans ?_, fun w mem => waiting w (left w mem),
    map.trans ⟨by rw [frame], by rw [frame], by rw [frame], by rw [frame]⟩⟩
  · rw [← placement, State.placement, State.placement, frame]
  · change ({ v.chan ch with slot := _ } : Channel) = _
    rw [own]

section Turns
variable {s : State} {a : Access} {ch : Nat} {job : Ref} {data : Frame} {c : Capture} {x : Entry}
  (port : s.port = some a) (use : a.claim.use = .capture ch job data) (live : a.live = true)
  (capture : (s.chan ch).stream = .capture c) (inflight : (s.placement ch).inflight = [x])
  (extent : x.extent = a.claim.extent) (frame : x.frame = a.claim.frame)
include port use live capture inflight extent frame

/-- An overwrite at the end of its job turns to APPEND (R39). -/
theorem turnedToAppend_facts (mode : x.mode = .overwrite) (uncounted : c.ctx.remaining = 0) (room : 0 < s.segFree)
    (short : (s.job c.job.idx).length < 16777215) (point : c.ctx.point = .jobEnd) :
    ∃ u : State, exec (.captureWriteCompletion false) s = .next u ∧
      (u.job c.job.idx).length = (s.job c.job.idx).length + 1 ∧ u.placement ch = {} ∧
      u.chan ch = { s.chan ch with stream := .capture { c with ctx := { c.ctx with mode := .append } } } ∧
      u.takes = s.takes := by
  obtain ⟨w, taken, run⟩ := exec_captureWriteCompletion_of_head port use live capture inflight extent frame
  have turned := turned_to_append (s := w) (ch := ch) (by rw [taken.chan]; exact capture) (by rw [taken.placement])
  have map := taken.map.trans turned.map
  obtain ⟨u, appended, placed⟩ := exists_placeAppend (s := w.turnOverwrite ch c .append)
    (by rw [turned.segFree, taken.segFree]; exact room) { c with ctx := { c.ctx with mode := .append } }
    { x with status := .written, mode := .append, changed := true }
  have chan := (placed.chan ch).trans turned.chan
  rw [taken.chan] at chan
  rw [turnOf_of_end mode point, headPlaced_of_turned (by rw [map.job]; exact short), placeAs_of_append rfl, appended, settle,
    countPlaced_of_none (c := { c with ctx := { c.ctx with mode := .append } }) (by rw [chan]) uncounted] at run
  have placement := (placed.placement ch).trans turned.placement
  refine ⟨u, run (congrArg Placement.inflight placement), ?_, placement, chan, ?_⟩
  · exact placed.length.trans (by rw [map.job])
  · rw [placed.takes, map.takes]

/-- An overwrite that meets a TAKE cue turns to INSERT, with its notice (R39). -/
theorem turnedToInsert_facts (mode : x.mode = .overwrite) (uncounted : c.ctx.remaining = 0) (room : 0 < s.segFree)
    (short : (s.job c.job.idx).length < 16777215) {q : Ref} {k : Nat} (point : c.ctx.point = .frame q k)
    (meets : s.takeCueAt c.job.idx (.frame q k) = true)
    (editable : s.editable c.job.idx (s.anchorPos c.job.idx (.frame q k)) = true) (slot : (s.chan ch).slot = none) :
    ∃ u : State, exec (.captureWriteCompletion false) s = .next u ∧
      (u.job c.job.idx).length = (s.job c.job.idx).length + 1 ∧ u.placement ch = {} ∧
      u.chan ch = { s.chan ch with
        stream := .capture { c with ctx := { c.ctx with mode := .insert } }
        slot := some { chan := ch, cause := .enteredInsert, action := .continued, job := c.job
                       pos := s.anchorPos c.job.idx (.frame q k) * 64 } } ∧
      u.cues = s.cues ∧ u.takes = s.takes := by
  obtain ⟨w, taken, run⟩ := exec_captureWriteCompletion_of_head port use live capture inflight extent frame
  have turned := turned_to_insert (s := w) (ch := ch) (c := c) (by rw [taken.chan]; exact capture) (by rw [taken.placement])
    (by rw [taken.chan]; exact slot)
  have map := taken.map.trans turned.map
  obtain ⟨u, b, inserted, joined⟩ := exists_placeInsert (s := w.turnOverwrite ch c .insert)
    (by rw [turned.segFree, taken.segFree]; exact room) { c with ctx := { c.ctx with mode := .insert } } q
    { x with status := .written, mode := .insert, changed := true }
  have chan := (joined.chan ch).trans turned.chan
  rw [taken.chan, captureNotice, taken.map.anchorPos, point] at chan
  rw [turnOf_of_frame mode point, if_pos meets, headPlaced_of_turned (by rw [map.job]; exact short),
    placeAs_of_frame (q := q) (k := k) (by exact point) (by simp), map.anchorPos, map.editable, if_pos (by exact editable),
    if_pos rfl, inserted, Option.map_some, settle,
    countPlaced_of_none (c := { c with ctx := { c.ctx with mode := .insert } }) (by rw [chan]) uncounted] at run
  have placement := (joined.placement ch).trans turned.placement
  refine ⟨u, run (congrArg Placement.inflight placement), ?_, placement, chan, ?_, ?_⟩
  · exact joined.length.trans (by rw [map.job])
  · rw [joined.cues, map.cues]
  · rw [joined.takes, map.takes]

/-- A placement that fails the editable test freezes (R40). -/
theorem frozen_facts {q : Ref} {k : Nat} (unchanged : x.changed = false) (point : c.ctx.point = .frame q k)
    (mode : x.mode = .insert ∨ x.mode = .overwrite ∧ s.takeCueAt c.job.idx (.frame q k) = false)
    (frozen : s.editable c.job.idx (s.anchorPos c.job.idx (.frame q k)) = false) (slot : (s.chan ch).slot = none) :
    ∃ u : State, exec (.captureWriteCompletion false) s = .next u ∧ u.placement ch = {} ∧
      u.chan ch = { s.chan ch with
        stream := .capture { c with
          running := false, counter := 0, ctx := { c.ctx with mode := .append, point := .jobEnd } }
        slot := some { chan := ch, cause := .halt, action := .stopped, job := c.job
                       pos := s.anchorPos c.job.idx (.frame q k) * 64 } } ∧
      (∀ w ∈ u.waiting, w.use.chan? ≠ some ch) ∧ u.jobs = s.jobs ∧ u.segs = s.segs ∧ u.cues = s.cues ∧
      u.takes = s.takes := by
  obtain ⟨w, taken, run⟩ := exec_captureWriteCompletion_of_frame port use live capture inflight extent frame point mode
    unchanged
  have left := placementFrozen_frozenPlacement (s := w) (ch := ch) (c := c) (by rw [taken.chan]; exact capture)
    (by rw [taken.chan]; exact slot)
  have notAppend : ({ x with status := .written } : Entry).mode ≠ .append := by
    rcases mode with mode | ⟨mode, -⟩ <;> simp [mode]
  rw [placeAs_of_frame point notAppend, taken.map.anchorPos, taken.map.editable, if_neg (Bool.eq_false_iff.1 frozen)] at run
  have map := taken.map.trans left.map
  refine ⟨_, run (congrArg Placement.inflight left.placement), left.placement, ?_, left.waiting, map.jobs, map.segs, map.cues,
    map.takes⟩
  rw [left.chan, taken.chan, captureNotice, taken.map.anchorPos, point]

end Turns

end Sys2Proof.Machine
end

section
/-! ## Writes completed

Capture writes that end in a check (R41, R110, R111), scrub writes (R104), and the statement of both completions. -/

set_option Elab.async false

namespace Sys2Proof.Machine
open State

/-! ### A capture write that ends in a check (R41, R110) -/

/-- The state after a capture write that ended in a check: the frame spoilt, the extent DAMAGED, STORE-ERROR raised. -/
def writeFailed (s : State) (a : Access) : State :=
  (((s.endAccess a).spoilFrame a.claim.extent a.claim.frame).markDamaged a.claim.extent).raise
    (.storeError a.claim.extent .write)

/-- What a write that ended in a check leaves of an extent IN-USE. -/
structure WriteFailed (s u : State) (e : Nat) : Prop where
  ext : u.ext e = { s.ext e with state := .damaged }
  exts : ∀ y, y ≠ e → u.ext y = s.ext y
  raised : s.notices.length < 32 → .storeError e .write ∈ u.notices
  map : SameMap s u
  places : u.places = s.places
  chans : u.chans = s.chans
  freeList : u.freeList = s.freeList

theorem spoilFrame_frame (s : State) (e f : Nat) : s.spoilFrame e f = { s with
    mem := (s.spoilFrame e f).mem, freeCount := s.freeCount + 1 } := rfl

theorem writeFailed_writeFailed {s : State} {a : Access} (used : (s.ext a.claim.extent).state = .inUse) :
    WriteFailed s (writeFailed s a) a.claim.extent := by
  rw [writeFailed]
  have ended := endAccess_frame s a
  generalize s.endAccess a = t at ended
  have spoilt := spoilFrame_frame t a.claim.extent a.claim.frame
  generalize t.spoilFrame a.claim.extent a.claim.frame = v at spoilt
  have ext (y : Nat) : v.ext y = s.ext y := by rw [State.ext, State.ext, spoilt, ended]
  have notices : v.notices = s.notices := by rw [spoilt, ended]
  rw [markDamaged_of_inUse (by rw [ext, used])]
  have own : (v.setExt a.claim.extent { v.ext a.claim.extent with state := .damaged }).ext a.claim.extent =
      { s.ext a.claim.extent with state := .damaged } := by rw [ext_setExt, ext]
  have others (y : Nat) (other : y ≠ a.claim.extent) :
      (v.setExt a.claim.extent { v.ext a.claim.extent with state := .damaged }).ext y = s.ext y := by
    rw [ext_setExt_ne _ _ _ _ other, ext]
  have marked : v.setExt a.claim.extent { v.ext a.claim.extent with state := .damaged } = { v with
      exts := (v.setExt a.claim.extent { v.ext a.claim.extent with state := .damaged }).exts } := rfl
  generalize v.setExt a.claim.extent { v.ext a.claim.extent with state := .damaged } = w at own others marked
  have raised := raise_frame w (.storeError a.claim.extent .write)
  have noticed (room : s.notices.length < 32) :
      .storeError a.claim.extent .write ∈ (w.raise (.storeError a.claim.extent .write)).notices := by
    rw [raise_of_room (by rw [marked, notices]; exact room)]
    exact List.mem_append_right _ (List.mem_singleton.2 rfl)
  generalize w.raise (.storeError a.claim.extent .write) = u at raised noticed
  have extU (y : Nat) : u.ext y = w.ext y := (congrArg (fun t => State.ext t y) raised :)
  refine ⟨(extU _).trans own, fun y other => (extU y).trans (others y other), noticed, ⟨?_, ?_, ?_, ?_⟩, ?_, ?_, ?_⟩
  all_goals rw [raised, marked, spoilt, ended]

theorem redestineFailed_of_single {s : State} {ch : Nat} {x : Entry} (inflight : (s.placement ch).inflight = [x]) (job : Ref) :
    s.redestineFailed ch job x.extent x.frame = redestine ch job x.extent [] [x] s := by
  rw [redestineFailed, inflight]
  simp

theorem dropTailIf_of_tail {s : State} {j e : Nat} {t : Tail} (tail : (s.job j).tail = some t) (extent : t.extent = e) :
    s.dropTailIf j e = s.dropTail j := by
  rw [dropTailIf, tail]
  exact if_pos extent

/-- A write of a capture's only entry that ends in a check takes the tail extent from its job (R41, R110, R111). -/
theorem checked_facts {s : State} {a : Access} {ch : Nat} {job : Ref} {data : Frame} {x : Entry} {t : Tail} {y : Nat}
    {rest : List Nat} (port : s.port = some a) (use : a.claim.use = .capture ch job data) (live : a.live = true)
    (current : s.jobCurrent job = true) (inflight : (s.placement ch).inflight = [x])
    (extent : x.extent = a.claim.extent) (frame : x.frame = a.claim.frame) (tail : (s.job job.idx).tail = some t)
    (own : t.extent = a.claim.extent) (used : (s.ext a.claim.extent).state = .inUse) (free : s.freeList = y :: rest)
    (apart : y ≠ a.claim.extent) : ∃ u : State, exec (.captureWriteCompletion true) s = .next u ∧
      (u.ext a.claim.extent).state = .damaged ∧ u.ext y = { s.ext y with state := .inUse, refs := 1 } ∧ u.freeList = rest ∧
      u.job job.idx = { s.job job.idx with tail := some { extent := y, fill := 1 } } ∧
      (u.placement ch).inflight = [{ x with extent := y, frame := 0, status := .writing }] ∧ u.chans = s.chans ∧
      u.segs = s.segs ∧ u.takes = s.takes ∧
      (s.notices.length < 32 → .storeError a.claim.extent .write ∈ u.notices) := by
  have failed := writeFailed_writeFailed (a := a) used
  have written : s.captureWritten a ch job data true =
      if a.live then (if (writeFailed s a).jobCurrent job then (writeFailed s a).dropTailIf job.idx a.claim.extent
        else writeFailed s a).redestineFailed ch job a.claim.extent a.claim.frame
      else (writeFailed s a).loseTail a.claim.extent := rfl
  have exec := exec_captureWriteCompletion port use true
  rw [written, live, if_pos rfl] at exec
  generalize writeFailed s a = v at failed exec
  have tailV : (v.job job.idx).tail = some t := by rw [failed.map.job, tail]
  have currentV : v.jobCurrent job = true := by rw [jobCurrent, failed.map.job]; exact current
  rw [if_pos currentV, dropTailIf_of_tail tailV own,
    dropTail_of_damaged tailV own (by rw [failed.ext])] at exec
  have lost := tailLost_frame v job.idx a.claim.extent
  have jobLost := job_tailLost v job.idx a.claim.extent
  have extLost := ext_tailLost v job.idx a.claim.extent
  have extsLost := fun y => ext_tailLost_ne v job.idx a.claim.extent (x := y)
  generalize tailLost v job.idx a.claim.extent = w at exec lost jobLost extLost extsLost
  have placement : w.placement ch = s.placement ch := by rw [State.placement, State.placement, lost, failed.places]
  rw [← extent, ← frame, redestineFailed_of_single (by rw [placement, inflight])] at exec
  have redestined := redestined_redestine (s := w) (ch := ch) (r := job) (x := x) (y := y) (rest := rest)
    (by rw [jobLost]) (by rw [lost, failed.freeList, free])
  rw [exec]
  refine ⟨_, rfl, ?_, ?_, redestined.freeList, ?_, redestined.inflight, ?_, ?_, ?_, fun room => ?_⟩
  · rw [redestined.exts _ (Ne.symm apart), extLost, failed.ext]
  · rw [redestined.ext, extsLost y apart, failed.exts y apart]
  · rw [redestined.job, jobLost, failed.map.job]
  · rw [redestined.chans, lost, failed.chans]
  · rw [redestined.segs, lost, failed.map.segs]
  · rw [redestined.takes, lost, failed.map.takes]
  · exact redestined.notices _ (by rw [lost]; exact failed.raised room)

/-! ### Scrub writes (R104, R110) -/

theorem exec_scrubWriteCompletion {s : State} {a : Access} (port : s.port = some a) (use : a.claim.use = .scrub)
    (check : Bool) : exec (.scrubWriteCompletion check) s = .next (s.scrubDone a check) := by
  change Host.Outcome.next _ = _
  rw [port]
  dsimp only
  rw [use]

theorem scrubDone_good (s : State) (a : Access) : s.scrubDone a false =
    if a.live then (frameStored s a 0).scrubGood a.claim.extent else frameStored s a 0 := rfl

/-- The state after the last frame of an extent is scrubbed: it is FREE at the tail of the free list. -/
def extScrubbed (s : State) (e : Nat) : State :=
  { s.setExt e { s.ext e with state := .free, taint := false } with
    scrubList := s.scrubList.tail, scrubNext := 0, formatLeft := s.formatLeft - 1, freeList := s.freeList ++ [e] }

theorem scrubGood_of_more {s : State} (more : s.scrubNext < 4095) (e : Nat) :
    s.scrubGood e = { s with scrubNext := s.scrubNext + 1 }.claimScrub :=
  if_pos (by change s.scrubNext + 1 < 4096; omega)

theorem scrubGood_of_last {s : State} (last : 4095 ≤ s.scrubNext) (e : Nat) :
    s.scrubGood e = (extScrubbed s e).testLow.claimScrub :=
  if_neg (by change ¬(s.scrubNext + 1 < 4096); omega)

/-- What a good scrub write leaves. -/
structure ScrubGood (s u : State) (e : Nat) : Prop where
  more : s.scrubNext < 4095 → u.scrubNext = s.scrubNext + 1 ∧ u.scrubList = s.scrubList ∧ u.exts = s.exts
  last : 4095 ≤ s.scrubNext → u.scrubNext = 0 ∧ u.scrubList = s.scrubList.tail ∧ u.freeList = s.freeList ++ [e] ∧
    u.ext e = { s.ext e with state := .free, taint := false } ∧ u.formatLeft = s.formatLeft - 1
  mem : u.mem = s.mem
  jobs : u.jobs = s.jobs
  segs : u.segs = s.segs
  chans : u.chans = s.chans
  links : u.links = s.links

theorem scrubGood_scrubGood (s : State) (e : Nat) : ScrubGood s (s.scrubGood e) e := by
  by_cases more : s.scrubNext < 4095
  · rw [scrubGood_of_more more]
    have claimed := claimScrub_frame { s with scrubNext := s.scrubNext + 1 }
    generalize { s with scrubNext := s.scrubNext + 1 }.claimScrub = u at claimed
    refine ⟨fun _ => ⟨?_, ?_, ?_⟩, fun last => absurd more (by omega), ?_, ?_, ?_, ?_, ?_⟩
    all_goals rw [claimed]
  · rw [scrubGood_of_last (by omega)]
    have ext : (extScrubbed s e).ext e = { s.ext e with state := .free, taint := false } :=
      ext_setExt s e { s.ext e with state := .free, taint := false }
    have scrubbed : extScrubbed s e = { s with
      exts := (extScrubbed s e).exts, scrubList := s.scrubList.tail, scrubNext := 0, formatLeft := s.formatLeft - 1
      freeList := s.freeList ++ [e] } := rfl
    generalize extScrubbed s e = v at ext scrubbed
    have tested := testLow_frame v
    generalize v.testLow = w at tested
    have claimed := claimScrub_frame w
    generalize w.claimScrub = u at claimed
    refine ⟨fun less => absurd less more, fun _ => ⟨?_, ?_, ?_, ?_, ?_⟩, ?_, ?_, ?_, ?_, ?_⟩
    case refine_4 => rw [← ext, State.ext, State.ext, claimed, tested]
    all_goals rw [claimed, tested, scrubbed]

/-- A good scrub write (R104). -/
theorem scrubbed_facts {s : State} {a : Access} (port : s.port = some a) (use : a.claim.use = .scrub) :
    ∃ u : State, exec (.scrubWriteCompletion false) s = .next u ∧ u.readFrame a.claim.extent a.claim.frame = 0 ∧
      (a.live = true → s.scrubNext < 4095 → u.scrubNext = s.scrubNext + 1 ∧ u.scrubList = s.scrubList ∧ u.exts = s.exts) ∧
      (∀ rest, a.live = true → s.scrubNext = 4095 → s.scrubList = a.claim.extent :: rest →
        u.scrubNext = 0 ∧ u.scrubList = rest ∧ u.freeList = s.freeList ++ [a.claim.extent] ∧
        u.ext a.claim.extent = { s.ext a.claim.extent with state := .free, taint := false } ∧
        u.formatLeft = s.formatLeft - 1) ∧
      u.jobs = s.jobs ∧ u.segs = s.segs ∧ u.chans = s.chans ∧ u.links = s.links := by
  rw [exec_scrubWriteCompletion port use, scrubDone_good]
  have stored := frameStored_frame s a 0
  have reads : (frameStored s a 0).readFrame a.claim.extent a.claim.frame = 0 := readFrame_writeFrame _ _ _ _
  generalize frameStored s a 0 = v at stored reads
  cases a.live with
  | false =>
    refine ⟨v, rfl, reads, fun live => Bool.noConfusion live, fun _ live => Bool.noConfusion live, ?_, ?_, ?_, ?_⟩
    all_goals rw [stored]
  | true =>
    have good := scrubGood_scrubGood v a.claim.extent
    rw [if_pos rfl]
    generalize v.scrubGood a.claim.extent = u at good
    have next : v.scrubNext = s.scrubNext := by rw [stored]
    have list : v.scrubList = s.scrubList := by rw [stored]
    refine ⟨u, rfl, by rw [readFrame, good.mem]; exact reads, fun _ more => ?_, fun rest _ last head => ?_, ?_, ?_, ?_, ?_⟩
    · obtain ⟨moved, kept, exts⟩ := good.more (by rw [next]; exact more)
      exact ⟨by rw [moved, next], by rw [kept, list], by rw [exts, stored]⟩
    · obtain ⟨back, left, free, ext, formats⟩ := good.last (by rw [next]; omega)
      refine ⟨back, by rw [left, list, head]; rfl, by rw [free, stored], ?_, by rw [formats, stored]⟩
      rw [ext, State.ext, State.ext, stored]
    · rw [good.jobs, stored]
    · rw [good.segs, stored]
    · rw [good.chans, stored]
    · rw [good.links, stored]

/-- The progress of formatting and the scrub in progress, as an extent leaves the scrub list (R97, R103). -/
def scrubForgotten (s : State) (e : Nat) : State :=
  if decide (s.scrubList.head? = some e) then
    (if s.scrubList.idxOf e < s.formatLeft then { s with formatLeft := s.formatLeft - 1 } else s).abandonScrub
  else if s.scrubList.idxOf e < s.formatLeft then { s with formatLeft := s.formatLeft - 1 } else s

theorem leaveScrub_eq (s : State) (e : Nat) : s.leaveScrub e =
    { scrubForgotten s e with scrubList := (scrubForgotten s e).scrubList.erase e }.claimScrub := rfl

theorem scrubForgotten_frame (s : State) (e : Nat) : scrubForgotten s e = { s with
    formatLeft := (scrubForgotten s e).formatLeft, waiting := (scrubForgotten s e).waiting
    port := (scrubForgotten s e).port, scrubNext := (scrubForgotten s e).scrubNext } := by
  unfold scrubForgotten
  split
  · split <;> rfl
  · split <;> rfl

/-- What an extent that leaves the scrub list leaves (R97). -/
structure ScrubLeft (s u : State) (e : Nat) : Prop where
  scrubList : u.scrubList = s.scrubList.erase e
  freeList : u.freeList = s.freeList
  exts : u.exts = s.exts
  notices : u.notices = s.notices

theorem scrubLeft_leaveScrub (s : State) (e : Nat) : ScrubLeft s (s.leaveScrub e) e := by
  rw [leaveScrub_eq]
  have forgotten := scrubForgotten_frame s e
  generalize scrubForgotten s e = v at forgotten
  have claimed := claimScrub_frame { v with scrubList := v.scrubList.erase e }
  generalize { v with scrubList := v.scrubList.erase e }.claimScrub = u at claimed
  constructor
  all_goals rw [claimed, forgotten]

theorem markDamaged_of_scrub {s : State} {x : Nat} (scrub : (s.ext x).state = .scrub) :
    s.markDamaged x = (s.setExt x { s.ext x with state := .damaged }).leaveScrub x := by
  rw [markDamaged]
  dsimp only
  rw [scrub]

/-- A scrub write that ends in a check (R110). -/
theorem scrubFailed_facts {s : State} {a : Access} (port : s.port = some a) (use : a.claim.use = .scrub)
    (scrub : (s.ext a.claim.extent).state = .scrub) :
    ∃ u : State, exec (.scrubWriteCompletion true) s = .next u ∧
      u.ext a.claim.extent = { s.ext a.claim.extent with state := .damaged } ∧
      u.scrubList = s.scrubList.erase a.claim.extent ∧ u.freeList = s.freeList ∧
      (s.notices.length < 32 → u.notices = s.notices ++ [.storeError a.claim.extent .scrub]) := by
  have failed : s.scrubDone a true = (((s.endAccess a).spoilFrame a.claim.extent a.claim.frame).markDamaged
    a.claim.extent).raise (.storeError a.claim.extent .scrub) := rfl
  rw [exec_scrubWriteCompletion port use, failed]
  have ended := endAccess_frame s a
  generalize s.endAccess a = t at ended
  have spoilt := spoilFrame_frame t a.claim.extent a.claim.frame
  generalize t.spoilFrame a.claim.extent a.claim.frame = v at spoilt
  have ext : v.ext a.claim.extent = s.ext a.claim.extent := by rw [State.ext, State.ext, spoilt, ended]
  rw [markDamaged_of_scrub (by rw [ext]; exact scrub), ext]
  have own : (v.setExt a.claim.extent { s.ext a.claim.extent with state := .damaged }).ext a.claim.extent =
      { s.ext a.claim.extent with state := .damaged } := ext_setExt _ _ _
  have marked : v.setExt a.claim.extent { s.ext a.claim.extent with state := .damaged } = { v with
      exts := (v.setExt a.claim.extent { s.ext a.claim.extent with state := .damaged }).exts } := rfl
  generalize v.setExt a.claim.extent { s.ext a.claim.extent with state := .damaged } = w at own marked
  have left := scrubLeft_leaveScrub w a.claim.extent
  generalize w.leaveScrub a.claim.extent = y at left
  have notices : y.notices = s.notices := by rw [left.notices, marked, spoilt, ended]
  have raised := raise_frame y (.storeError a.claim.extent .scrub)
  refine ⟨_, rfl, ?_, ?_, ?_, fun room => ?_⟩
  · rw [← own, State.ext, State.ext, ← left.exts, raised]
  · rw [raised, left.scrubList, marked, spoilt, ended]
  · rw [raised, left.freeList, marked, spoilt, ended]
  · rw [raise_of_room (by rw [notices]; exact room), notices]

/-! ### The obligation -/

theorem not_extends_iff (b : SegBody) (extent frame cls : Nat) : extends_ b extent frame cls = false ↔
    ¬(b.extent = extent ∧ b.first + b.count = frame ∧ b.sealPart.getD 0 = cls ∧ b.pace = none) := by
  rw [← extends_iff, Bool.not_eq_true]

/-- A good write that its capture no longer wants is stored, and nothing is placed (R34). -/
theorem unwanted_facts {s : State} {a : Access} (unwanted : a.live = false) (ch : Nat) (job : Ref) (data : Frame) :
    (s.captureWritten a ch job data false).jobs = s.jobs ∧ (s.captureWritten a ch job data false).segs = s.segs ∧
      (s.captureWritten a ch job data false).places = s.places ∧ (s.captureWritten a ch job data false).chans = s.chans := by
  have stored := frameStored_frame s a data
  rw [captureWritten_good, unwanted]
  change (frameStored s a data).jobs = s.jobs ∧ (frameStored s a data).segs = s.segs ∧
    (frameStored s a data).places = s.places ∧ (frameStored s a data).chans = s.chans
  generalize frameStored s a data = v at stored
  exact ⟨by rw [stored], by rw [stored], by rw [stored], by rw [stored]⟩

/-- Settles O58: each clause from the facts of its completion, placement, scrub write or count END. -/
theorem writesComplete : Obligations.WritesComplete := by
  unfold Obligations.WritesComplete
  refine ⟨?_, ?_, fun s a port use => scrubbed_facts port use, fun s a port use scrub => scrubFailed_facts port use scrub,
    ?_, ?_, ?_, fun s ch c m note capture matrix empty notes => countEnd_facts capture matrix empty notes⟩
  · intro s a ch job data port use
    refine ⟨_, exec_captureWriteCompletion port use false, readFrame_captureWritten s a ch job data,
      fun unwanted => unwanted_facts unwanted ch job data, ?_⟩
    intro c x live capture inflight extent frame mode unchanged uncounted room
    obtain ⟨u, run, length, empty, chan, takes, notices, jobs, atFront, extending, after⟩ := appended_facts port use live
      capture inflight extent frame mode unchanged uncounted room
    obtain rfl := Host.Outcome.next.inj (run.symm.trans (exec_captureWriteCompletion port use false))
    refine ⟨length, empty, chan, takes, notices, jobs, atFront, fun i b last sameExtent adjoins sameSeal unpaced => ?_,
      fun i b canon last apart => ?_⟩
    · exact extending i b last ((extends_iff ..).2 ⟨sameExtent, adjoins, sameSeal, unpaced⟩)
    · exact after i b canon last ((not_extends_iff ..).2 apart)
  · intro s a ch job data c x t y rest port use live _ _ current inflight extent frame tail own used free apart
    exact checked_facts port use live current inflight extent frame tail own used free apart
  · intro s a ch job n q data c x k port use live capture inflight extent frame unchanged uncounted room canon point editable
      new
    subst new
    refine ⟨fun mode => ?_, ?_⟩
    · obtain ⟨u, run, length, empty, chan, cues, takes, jobs, behind, atFront⟩ := inserted_facts port use live capture inflight
        extent frame point mode unchanged uncounted room canon editable
      refine ⟨u, run, length, empty, chan, cues, takes, jobs, fun i b before body => ?_, atFront⟩
      obtain ⟨extending, alone⟩ := behind i b before body
      exact ⟨fun ext => extending ((extends_iff ..).2 ext), fun apart => alone ((not_extends_iff ..).2 apart)⟩
    · intro g i b run mode clear old frames before apart body sameExtent adjoins sameSeal unpaced start
      exact overwritten_facts port use live capture inflight extent frame point mode unchanged uncounted canon editable clear
        old frames before apart body ((extends_iff ..).2 ⟨sameExtent, adjoins, sameSeal, unpaced⟩) start
  · intro s a ch job data c x port use live capture inflight extent frame
    refine ⟨fun mode uncounted room short => ⟨fun point => ?_, fun q k point meets editable slot => ?_⟩,
      fun q k unchanged point mode frozen slot => ?_⟩
    · exact turnedToAppend_facts port use live capture inflight extent frame mode uncounted room short point
    · exact turnedToInsert_facts port use live capture inflight extent frame mode uncounted room short point meets editable
        slot
    · exact frozen_facts port use live capture inflight extent frame unchanged point mode frozen slot
  · intro s a ch job data c x port use live capture inflight extent frame mode unchanged counted room
    exact counted_facts port use live capture inflight extent frame mode unchanged counted room

end Sys2Proof.Machine
end
